-- ==== Sys2Proof/Word.lean ====
section
/-! DEFINITION. The word types of the machine (R2, R14, R38) and the sparse map in which registers,
memory and tables are held. Nothing here computes an instruction's result. -/

namespace Sys2Proof

/-- One byte of memory. -/
abbrev Byte := BitVec 8

/-- One element of a vector register (R14). -/
abbrev Lane32 := BitVec 32

/-- One scalar register, one 64-bit memory word, one short instruction word. -/
abbrev Word64 := BitVec 64

/-- A table from natural-number keys to values: keys strictly rising, and no entry equal to the
value that an unlisted key reads as. Registers, memory, scratchpads, the accumulators and the
device's tables are held in this one form, so that equal contents are equal data. -/
abbrev SMap (α : Type) := List (Nat × α)

end Sys2Proof
end

