-- ==== Sys2Proof/Machine/Num.lean ====
section
/-! DEFINITION. Number formats, rounding and exact arithmetic (R37 to R63). A value is decoded to an
exact number, the operation is exact, and one function rounds it to its destination. -/

namespace Sys2Proof.Num

/-- The rounding directions (R52). -/
inductive Rm where
  | rne | rna | rz | rdn | rup
  deriving DecidableEq, Repr

/-- A decoded value: NaN or NaR, an infinity, or (−1)^neg · m · 2^e. -/
inductive Val where
  | nan
  | inf (neg : Bool)
  | fin (neg : Bool) (m : Nat) (e : Int)
  deriving DecidableEq, Repr

/-- 2^k for k ≥ 0, and 1 otherwise. -/
def pow2 (k : Int) : Nat := 2 ^ k.toNat

/-- Wraps an integer to w bits, two's complement (R49 Wrap). -/
def wrap (n : Int) (w : Nat) : Int := (n + 2 ^ (w - 1)) % 2 ^ w - 2 ^ (w - 1)

/-- The w-bit code of an integer, modulo 2^w. -/
def codeOf (n : Int) (w : Nat) : Nat := (n % 2 ^ w).toNat

/-- The signed value of a w-bit code. -/
def signed (c w : Nat) : Int :=
  let c := c % 2 ^ w
  if c < 2 ^ (w - 1) then (c : Int) else (c : Int) - 2 ^ w

def clampInt (n lo hi : Int) : Int := if n < lo then lo else if n > hi then hi else n

/-- Rounds the magnitude m · 2^−sh (sh bits below the unit) under a direction (R52). -/
def roundShr (rm : Rm) (neg : Bool) (m sh : Nat) : Nat :=
  let q := m / 2 ^ sh
  let r := m % 2 ^ sh
  if r = 0 then q
  else
    let up : Bool := match rm with
      | .rne => 2 * r > 2 ^ sh || (2 * r == 2 ^ sh && q % 2 == 1)
      | .rna => 2 * r ≥ 2 ^ sh
      | .rz => false
      | .rdn => neg
      | .rup => !neg
    if up then q + 1 else q

/-- Rounds the magnitude m · 2^e to an integer. -/
def roundMag (rm : Rm) (neg : Bool) (m : Nat) (e : Int) : Nat :=
  if 0 ≤ e then m * pow2 e else roundShr rm neg m (-e).toNat

/-- Rounds (−1)^neg · m · 2^e to an integer (R49 RoundInt). -/
def roundInt (rm : Rm) (neg : Bool) (m : Nat) (e : Int) : Int :=
  let q : Int := roundMag rm neg m e
  if neg then -q else q

/-- The exact value of an integer. -/
def ofInt (n : Int) : Val := .fin (n < 0) n.natAbs 0

/-- Exact n · 2^a. -/
def ofScaled (n a : Int) : Val := .fin (n < 0) n.natAbs a

/-- Number of bits of a magnitude. -/
def bitLen (m : Nat) : Nat := if m = 0 then 0 else m.log2 + 1

/-! ### IEEE layouts (R41) -/

/-- Exponent and fraction bits of the IEEE type codes 8 to 11. -/
def ieeeParams : Nat → Nat × Nat
  | 8 => (5, 10)
  | 9 => (8, 7)
  | 10 => (8, 23)
  | _ => (11, 52)

def bias (eb : Nat) : Nat := 2 ^ (eb - 1) - 1

def decodeIeee (eb fb c : Nat) : Val :=
  let neg := c / 2 ^ (eb + fb) % 2 == 1
  let ex := c / 2 ^ fb % 2 ^ eb
  let fr := c % 2 ^ fb
  if ex = 2 ^ eb - 1 then (if fr = 0 then .inf neg else .nan)
  else if ex = 0 then .fin neg fr (1 - (bias eb : Int) - fb)
  else .fin neg (2 ^ fb + fr) ((ex : Int) - bias eb - fb)

def infCode (eb fb : Nat) : Nat := (2 ^ eb - 1) * 2 ^ fb
/-- The canonical NaN (R41). -/
def nanCode (eb fb : Nat) : Nat := (2 ^ eb - 1) * 2 ^ fb + 2 ^ (fb - 1)
def maxCode (eb fb : Nat) : Nat := infCode eb fb - 1

/-- Whether an overflow under a direction gives infinity (R55). -/
def overInf (rm : Rm) (neg : Bool) : Bool :=
  match rm with
  | .rne | .rna => true
  | .rz => false
  | .rdn => neg
  | .rup => !neg

/-- Rounding to an IEEE layout (R55); `sat` gives the largest finite value instead of an infinity
for a finite source (R63). -/
def roundIeee (eb fb : Nat) (rm : Rm) (sat : Bool) (v : Val) : Nat :=
  let sgn (neg : Bool) : Nat := if neg then 2 ^ (eb + fb) else 0
  match v with
  | .nan => nanCode eb fb
  | .inf neg => sgn neg + infCode eb fb
  | .fin neg m e =>
    if m = 0 then sgn neg
    else
      let qmin : Int := 1 - (bias eb : Int) - fb
      let q : Int := max (e + bitLen m - 1 - fb) qmin
      let n := roundMag rm neg m (e - q)
      let c := (q - qmin).toNat * 2 ^ fb + n
      sgn neg +
        (if c < infCode eb fb then c
         else if !sat && overInf rm neg then infCode eb fb else maxCode eb fb)

/-! ### Tapered formats (R43, R44) -/

/-- The length of the run of bits equal to `b` from bit `i−1` of `mag` downwards. -/
def runLen (mag : Nat) (b : Bool) : Nat → Nat
  | 0 => 0
  | i + 1 => if mag.testBit i == b then runLen mag b i + 1 else 0

/-- R43 Decode. `t8` selects T8 (W = 7), otherwise T6 (W = 5). -/
def decodeTapered (t8 : Bool) (c : Nat) : Val :=
  let w := if t8 then 7 else 5
  let neg := c.testBit w
  let mag := c % 2 ^ w
  if mag = 0 then (if neg then .nan else .fin false 0 0)
  else
    let first := mag.testBit (w - 1)
    let m := runLen mag first w
    let k : Int := if first then (m : Int) - 1 else -(m : Int)
    let rest := if m < w then w - m - 1 else 0
    if t8 then
      let e : Int := if rest ≥ 1 then (mag / 2 ^ (rest - 1)) % 2 else 0
      let nf := rest - 1
      .fin neg (2 ^ nf + mag % 2 ^ nf) (2 * k + e - nf)
    else
      .fin neg (2 ^ rest + mag % 2 ^ rest) (k - rest)

/-- The value of a tapered magnitude in units of minpos: 2^−12 for T8, and 2^−4 for T6. -/
def taperedUnits (t8 : Bool) (mag : Nat) : Nat :=
  match decodeTapered t8 mag with
  | .fin _ m e => m * pow2 (e + 12)
  | _ => 0

/-- The largest magnitude code below `n` whose value is at most num/den in units of 2^−12. -/
def taperedFloor (t8 : Bool) (num den : Nat) : Nat → Nat
  | 0 => 0
  | n + 1 => if taperedUnits t8 n * den ≤ num then n else taperedFloor t8 num den n

/-- R54 RoundTapered. -/
def roundTapered (t8 : Bool) (rm : Rm) (v : Val) : Nat :=
  let w := if t8 then 7 else 5
  match v with
  | .nan => 2 ^ w
  | .inf _ => 2 ^ w
  | .fin neg m e =>
    if m = 0 then 0
    else
      let num := m * pow2 (e + 12)
      let den := pow2 (-(e + 12))
      let top := 2 ^ w - 1
      let code :=
        if taperedUnits t8 top * den ≤ num then top
        else
          let lo := taperedFloor t8 num den (2 ^ w)
          let vlo := taperedUnits t8 lo
          if vlo * den = num then lo
          else
            let hi := lo + 1
            let mid := (vlo + taperedUnits t8 hi) * den
            match rm with
            | .rna => if 2 * num < mid then lo else hi
            | .rne => if 2 * num < mid then lo else if mid < 2 * num then hi
                      else if lo % 2 = 0 then lo else hi
            | .rz => lo
            | .rup => if neg then lo else hi
            | .rdn => if neg then hi else lo
      if code = 0 then 0 else if neg then 2 ^ w + code else code

/-! ### Type codes (R37) -/

/-- Bits of a type code, 0 where the operation fixes it. -/
def tyBits : Nat → Nat
  | 0 | 1 => 8 | 2 | 3 => 16 | 4 | 5 => 32 | 6 | 7 => 64
  | 8 | 9 => 16 | 10 => 32 | 11 => 64 | 12 => 8 | 13 => 6 | 14 => 64 | _ => 0

def tySigned (t : Nat) : Bool := t == 0 || t == 2 || t == 4 || t == 6

/-- The integer that a code of an integer type stands for (R39). -/
def intVal (t c : Nat) : Int :=
  let n := tyBits t
  if tySigned t then signed c n else ((c % 2 ^ n : Nat) : Int)

/-- The least and greatest value of an integer type. -/
def intMin (t : Nat) : Int := if tySigned t then -(2 ^ (tyBits t - 1)) else 0
def intMax (t : Nat) : Int := if tySigned t then 2 ^ (tyBits t - 1) - 1 else 2 ^ tyBits t - 1

/-- R49 Anchor, with the direction of the conversion. -/
def anchorInt (rm : Rm) (v : Val) (a : Int) (w : Nat) : Int :=
  match v with
  | .nan => 0
  | .inf neg => if neg then -(2 ^ (w - 1)) else 2 ^ (w - 1) - 1
  | .fin neg m e =>
    if m = 0 then 0
    else if (bitLen m : Int) + (e - a) > w + 1 then
      (if neg then -(2 ^ (w - 1)) else 2 ^ (w - 1) - 1)
    else clampInt (roundInt rm neg m (e - a)) (-(2 ^ (w - 1))) (2 ^ (w - 1) - 1)

/-- R53: the default direction of a destination, for a source that is an integer or not. -/
def defaultRm (dst : Nat) (srcInt : Bool) : Rm :=
  if dst = 0 ∨ dst = 1 ∨ dst = 12 ∨ dst = 13 then .rna
  else if dst ≤ 7 ∧ !srcInt then .rz
  else .rne

/-- R52: the direction that an RM field names for a destination. -/
def rmOf (rm dst : Nat) (srcInt : Bool) : Rm :=
  match rm with
  | 1 => .rne | 2 => .rna | 3 => .rz | 4 => .rdn | 5 => .rup
  | _ => defaultRm dst srcInt

/-- The exact value of a code of a type (R37); `anchor` is the anchor of an anchored source of
`w` bits. -/
def decodeTy (t : Nat) (anchor : Int) (w : Nat) (c : Nat) : Val :=
  if t ≤ 7 then ofInt (intVal t c)
  else if t ≤ 11 then decodeIeee (ieeeParams t).1 (ieeeParams t).2 (c % 2 ^ tyBits t)
  else if t = 12 then decodeTapered true (c % 256)
  else if t = 13 then decodeTapered false (c % 64)
  else ofScaled (signed c w) anchor

/-- R54: rounding to an integer type saturates, and NaN gives 0. -/
def roundIntTy (rm : Rm) (t : Nat) (v : Val) : Int :=
  match v with
  | .nan => 0
  | .inf neg => if neg then intMin t else intMax t
  | .fin neg m e =>
    if m = 0 then 0
    else if (bitLen m : Int) + e > 66 then (if neg then intMin t else intMax t)
    else clampInt (roundInt rm neg m e) (intMin t) (intMax t)

/-- The code of a value in a type (R54, R55, R49), modulo 2^bits; `w` bits for an anchored one. -/
def encodeTy (t : Nat) (anchor : Int) (w : Nat) (rm : Rm) (sat : Bool) (v : Val) : Nat :=
  if t ≤ 7 then codeOf (roundIntTy rm t v) (tyBits t)
  else if t ≤ 11 then roundIeee (ieeeParams t).1 (ieeeParams t).2 rm sat v
  else if t = 12 then roundTapered true rm v
  else if t = 13 then roundTapered false rm v
  else codeOf (anchorInt rm v anchor w) w

/-! ### Exact arithmetic (R42) -/

def neg : Val → Val
  | .nan => .nan
  | .inf n => .inf (!n)
  | .fin n m e => .fin (!n) m e

/-- The signed integer of a finite value in units of 2^u, where u is at most its exponent. -/
def inUnits (n : Bool) (m : Nat) (e u : Int) : Int :=
  let q : Int := (m * pow2 (e - u) : Nat)
  if n then -q else q

/-- Exact sum; an exact zero is −0 only when both addends are −0 (R42). -/
def add (a b : Val) : Val :=
  match a, b with
  | .nan, _ => .nan
  | _, .nan => .nan
  | .inf x, .inf y => if x = y then .inf x else .nan
  | .inf x, _ => .inf x
  | _, .inf y => .inf y
  | .fin x m e, .fin y n f =>
    let u := min e f
    let t := inUnits x m e u + inUnits y n f u
    if t = 0 then .fin (x && y && m == 0 && n == 0) 0 0
    else .fin (t < 0) t.natAbs u

def sub (a b : Val) : Val := add a (neg b)

def mul (a b : Val) : Val :=
  match a, b with
  | .nan, _ => .nan
  | _, .nan => .nan
  | .inf x, .inf y => .inf (x != y)
  | .inf x, .fin y n _ => if n = 0 then .nan else .inf (x != y)
  | .fin x m _, .inf y => if m = 0 then .nan else .inf (x != y)
  | .fin x m e, .fin y n f => .fin (x != y) (m * n) (e + f)

/-- A quotient to `prec` bits or more with a sticky last bit, which rounds as the exact quotient
does for every destination of at most `prec − 2` bits. -/
def ratio (prec : Nat) (n : Bool) (m : Nat) (e : Int) (d : Nat) : Val :=
  let k := prec + bitLen d
  let q := m * 2 ^ k / d
  let r := m * 2 ^ k % d
  .fin n (2 * q + (if r = 0 then 0 else 1)) (e - k - 1)

def div (a b : Val) : Val :=
  match a, b with
  | .nan, _ => .nan
  | _, .nan => .nan
  | .inf _, .inf _ => .nan
  | .inf x, .fin y _ _ => .inf (x != y)
  | .fin x _ _, .inf y => .fin (x != y) 0 0
  | .fin x m e, .fin y n f =>
    if n = 0 then (if m = 0 then .nan else .inf (x != y))
    else if m = 0 then .fin (x != y) 0 0
    else ratio 64 (x != y) m (e - f) n

/-- The integer square root, by bits from 2^(i−1) down. -/
def isqrtFrom (n : Nat) : Nat → Nat → Nat
  | 0, r => r
  | i + 1, r => let r' := r + 2 ^ i; isqrtFrom n i (if r' * r' ≤ n then r' else r)

def isqrt (n : Nat) : Nat := isqrtFrom n (bitLen n / 2 + 1) 0

def sqrt : Val → Val
  | .nan => .nan
  | .inf n => if n then .nan else .inf false
  | .fin n m e =>
    if m = 0 then .fin n 0 0
    else if n then .nan
    else
      let k : Nat := 160 + (e % 2).toNat
      let x := m * 2 ^ k
      let r := isqrt x
      .fin false (2 * r + (if r * r = x then 0 else 1)) ((e - k) / 2 - 1)

/-- −1, 0 or 1 as the first is below, equal to or above the second; none when either is NaN. -/
def cmp (a b : Val) : Option Int :=
  match a, b with
  | .nan, _ => none
  | _, .nan => none
  | .inf x, .inf y => some (if x = y then 0 else if x then -1 else 1)
  | .inf x, _ => some (if x then -1 else 1)
  | _, .inf y => some (if y then 1 else -1)
  | .fin x m e, .fin y n f =>
    let u := min e f
    let d := inUnits x m e u - inUnits y n f u
    some (if d < 0 then -1 else if d = 0 then 0 else 1)

def isNeg : Val → Bool
  | .nan => false
  | .inf n => n
  | .fin n _ _ => n

def isZero : Val → Bool
  | .fin _ m _ => m == 0
  | _ => false

/-- Exact sum of a list (R61): NaN when an addend is NaN or both infinities occur; −0 only when
every addend is −0. -/
def sum : List Val → Val
  | [] => .fin false 0 0
  | [v] => v
  | v :: vs => add v (sum vs)

end Sys2Proof.Num
end

