-- ==== Sys2Proof/Syntax.lean ====
section
/-! DEFINITION. The instruction formats (R70, R72, R75), the data that steps of other agents carry,
and Instr, one constructor for each row of the opcode table. -/

namespace Sys2Proof

/-- Word 0 in format FR (R70), without its major. -/
structure FR where
  g : BitVec 4
  d : BitVec 12
  a : BitVec 12
  b : BitVec 12
  min : BitVec 8
  ty : BitVec 4
  la : BitVec 4
  deriving DecidableEq, Repr

/-- Word 0 in format FQ (R70). -/
structure FQ where
  g : BitVec 4
  d : BitVec 12
  a : BitVec 12
  b : BitVec 12
  c : BitVec 12
  ty : BitVec 4
  deriving DecidableEq, Repr

/-- Word 0 in format FI (R70). -/
structure FI where
  g : BitVec 4
  d : BitVec 12
  a : BitVec 12
  imm : BitVec 20
  min4 : BitVec 4
  ty : BitVec 4
  deriving DecidableEq, Repr

/-- Word 0 in format FB (R70). -/
structure FB where
  g : BitVec 4
  a : BitVec 12
  off : BitVec 32
  min : BitVec 8
  deriving DecidableEq, Repr

/-- Word 0 in format FM or FMI (R70): `x` is the index field of FM and OFF12 of FMI. -/
structure FM where
  g : BitVec 4
  d : BitVec 12
  a : BitVec 12
  x : BitVec 12
  n : BitVec 4
  c : BitVec 4
  la : BitVec 4
  sz : BitVec 3
  sc : BitVec 1
  deriving DecidableEq, Repr

/-- Word 1 of a long instruction (R72). -/
structure W1 where
  scope : BitVec 3
  ord : BitVec 2
  e1 : BitVec 12
  e2 : BitVec 12
  imm : BitVec 35
  deriving DecidableEq, Repr

/-- Word 0 of a pair (R75): `b` is the source B or IMM12. -/
structure PairHead where
  g : BitVec 4
  d : BitVec 12
  a : BitVec 12
  b : BitVec 12
  sop : BitVec 8
  ty : BitVec 4
  i : BitVec 1
  z : BitVec 3
  deriving DecidableEq, Repr

/-- The name of a group: its launch, its block in the launch and its index in the block (R8, R9). -/
structure GRef where
  launch : Nat
  block : Nat
  group : Nat
  deriving DecidableEq, Repr, Inhabited

/-- The fault causes of R170. -/
inductive Cause where
  | illop | priv | align | page | prot | rsvd | canon | owner | detv | tile | faort | fabric
  | check | mchk | trapi | bkpt | watch | img | xlat | qbad
  deriving DecidableEq, Repr, Inhabited

/-- A fault as the faulting form states it: its cause, the 72-bit faulting address (R23) and the
bits [55:0] of %faultaux (R133, R194). -/
structure Trap where
  cause : Cause
  va : Nat
  aux : Nat
  /-- R31: the context whose pages the access reached through %xctx; none for the group's own -/
  ctx : Option Nat := none
  deriving DecidableEq, Repr, Inhabited

/-- A child's fault report (R203), held against an operation record. -/
structure TileReport where
  level : Nat
  index : Nat
  rorg : Nat
  corg : Nat
  trap : Trap
  deriving DecidableEq, Repr, Inhabited

/-- One indivisible operation that a home slice performs on a line (R323). -/
inductive SliceOp where
  /-- a fetch-and-operate of `size` bytes with operation `opc` (R143) -/
  | fetchOp (pa size opc operand : Nat)
  /-- a compare-and-swap (R145) -/
  | compareSwap (pa size cmp new : Nat)
  /-- the flag increment of an STF (R140) -/
  | flagIncrement (pa : Nat)
  /-- the setting of A, and of D for a write, in an entry read as `seen` (R330) -/
  | setAccessed (pa : Nat) (seen : BitVec 64) (dirty : Bool)
  /-- the compare of a WAITC on the word at `pa` (R152) -/
  | compare (pa : Nat)
  deriving DecidableEq, Repr

/-- A power-managed unit (R358). -/
inductive PowerUnit where
  | core (c : Nat)
  | die (d : Nat)
  | device
  deriving DecidableEq, Repr

/-- The management registers of R411 other than PCAP and RESET. -/
inductive MgmtReg where
  | bootstat | temp (i : Nat) | power | mbox
  deriving DecidableEq, Repr

/-- The algorithms that an SPDM negotiation can name (R403). -/
inductive SpdmAlg where
  | mlDsa65 | mlKem1024 | aes256Gcm | sha3384 | other (id : Nat)
  deriving DecidableEq, Repr

/-- A boot image as the flash holds it (R400). -/
structure BootImage where
  digest : Nat
  signature : Nat
  svn : Nat
  keys : List Nat
  deriving DecidableEq, Repr, Inhabited

/-- Where a secured SPDM message comes (R403): its session, and its AEAD tag. -/
structure InSession where
  session : Nat
  mac : Nat
  deriving DecidableEq, Repr

/-- A request record of the debug service (R384). -/
structure DbgReq where
  all : Bool
  ctx : Nat
  who : GRef
  arg0 : BitVec 64
  arg1 : BitVec 64
  buf : Nat
  result : Nat
  deriving DecidableEq, Repr, Inhabited

/-- A request record of the profiler service (R394). -/
structure ProfReq where
  ctx : Nat
  arg0 : BitVec 64
  arg1 : BitVec 64
  buf : Nat
  result : Nat
  deriving DecidableEq, Repr, Inhabited

/-- The combining part of a request's RTAG (R365). -/
structure RTag where
  combined : Bool
  hop : Nat
  entry : Nat
  stag : Nat
  deriving DecidableEq, Repr, Inhabited

/-- A tile descriptor as an operation uses it (R184, R185): clips are effective clips, and formats and
anchors are resolved. `addr` is the descriptor's own address. -/
structure TDesc where
  addr : Nat
  base : Nat
  loc : Nat
  fmt : Nat
  cw : Bool
  rows : Nat
  cols : Nat
  stride : Nat
  rc : Nat
  cc : Nat
  sbase : Nat
  sstride : Nat
  scaled : Bool
  slay : Bool
  anchor : Int
  slot : Nat
  deriving DecidableEq, Repr, Inhabited

/-- A tile operation or a child of one (R191, R199): the major and MIN, the descriptors, the exponent of
TEW.scale, the scope, the accumulator origins, the origins of the part on the R, C and K axes, the
dimensions consumed, and the plan as (extent, factor, kind). -/
structure TOp where
  opc : Nat
  min : Nat
  d : Option TDesc
  a : Option TDesc
  b : Option TDesc
  exp : Nat
  scope : Nat
  arow : Nat
  acol : Nat
  ro : Nat
  co : Nat
  ko : Nat
  cons : List Nat
  plan : List (Nat × Nat × Nat)
  deriving DecidableEq, Repr, Inhabited

/-- A message of the fabric (R364, R365) as its decoded fields. `ops` holds, by type: for loads and
stores (lane, address, value); for an FAOR (LRID, lane, operand); for a reply (lane, value, 0). `here` is the element
that last passed it, and `routed` marks a reply that goes by its destination (R371). -/
structure Msg where
  type : Nat
  dst : Nat
  src : Nat
  ctx : Nat
  addr : Nat
  cls : Nat
  scope : Nat
  ord : Nat
  sz : Nat
  opc : Nat
  kind : Nat
  rtag : RTag
  lrid : Nat
  depth : Nat
  path : List Nat
  operand : Nat
  count : Nat
  ops : List (Nat × Nat × Nat)
  acks : List (Nat × Nat)
  trap : Option Trap
  who : GRef
  tile : Option TOp
  here : Option Nat
  routed : Bool
  deriving DecidableEq, Repr, Inhabited

/-- A 128-byte link flit (R373): the header's fields, the payload's bytes and the check word. -/
structure Flit where
  dst : Nat
  src : Nat
  type : Nat
  vc : Nat
  kid : Nat
  last : Bool
  seq : Nat
  ack : Nat
  payload : List (BitVec 8)
  chk : Nat
  deriving DecidableEq, Repr, Inhabited

/-- What a peer device shows of itself in an SPDM session (R404): its identity key, its translation key with the
certificate, and its measurement slots 2 to 4. -/
structure Peer where
  identity : Nat
  key : Nat
  certificate : Nat
  slots : List Nat
  deriving DecidableEq, Repr, Inhabited

/-- What a MGMT message carries (R364, R404). -/
inductive MgmtBody where
  /-- a route table entry: element, table (0 UP, 1 DEV, 2 BRD, 3 POD), index, port mask (R362) -/
  | route (element table index mask : Nat)
  /-- a key load: link, direction transmit, key slot, key (R375) -/
  | key (link : Nat) (transmit : Bool) (slot key : Nat)
  /-- a time synchronisation: the value of %gtime (R364) -/
  | time (ns : Nat)
  /-- the SPDM session of the hubs at the two ends of a link, with what the peer shows (R404) -/
  | session (link : Nat) (peer : Peer)
  /-- KEY_UPDATE in that session: the keys of both directions rotate (R376, R404) -/
  | update (link : Nat)
  deriving DecidableEq, Repr, Inhabited

/-- One row of a concordance (R263, R264): an entry is (scalar, virtual register, location, index). -/
structure ConcRow where
  vpc : Nat
  boff : Nat
  flags : Nat
  entries : List (Bool × Nat × Nat × Nat)
  deriving DecidableEq, Repr, Inhabited

/-- A translation as the scriptorium installs it (R241, R262, R266, R268): bundles are their 256
bits; the call table holds, for each callee's virtual address, the bundle address of its entry. `version` is the version
of the translator that made it. -/
structure Translation where
  id : Nat
  ctx : Nat
  entry : Nat
  key : Nat
  xchk : Bool
  vw0 : Nat
  vw1 : Nat
  sw : Nat
  bundles : List (BitVec 256)
  rows : List ConcRow
  calls : List (Nat × Option Nat)
  words : List (Nat × BitVec 64)
  nba : Nat
  hot : Bool
  version : Nat
  deriving DecidableEq, Repr, Inhabited

/-- A translation package of a peer (R273, R404), and the request that brings it (R364). -/
structure Package where
  t : Translation
  producer : Nat
  peer : Peer
  signature : Nat
  msg : Msg
  deriving DecidableEq, Repr, Inhabited

/-- What stage 2 of the boot brings up (R400, R361): the location, the device's links that are up, the
physical addresses of the device-queue table and of the reliability counters, and which port of which element is joined
to which. -/
structure BootSetup where
  devloc : Nat
  linksUp : Nat
  queueTable : Nat
  relcount : Nat
  wires : List ((Nat × Nat) × (Nat × Nat))
  deriving DecidableEq, Repr, Inhabited

/-- The steps of the machine, one constructor for each row of spec/opcode_table.json: the
instructions of the virtual set (R76), the two native operations (R247, R248), and the steps of the
other agents (spec/95). A word instruction carries its format's fields; a step of another agent
carries what that agent brings from outside. -/
inductive Instr where
  /-- ADD (R97). Scalar add of two s registers, wrapping at N bits. -/
  | add (f : FR)
  /-- SUB (R97). Scalar subtract, wrapping at N bits. -/
  | sub (f : FR)
  /-- MUL (R97). Scalar multiply giving the low N bits of the product. -/
  | mul (f : FR)
  /-- MULH (R97). Scalar multiply giving the high N bits of the exact 2N-bit product. -/
  | mulh (f : FR)
  /-- DIV (R97). Scalar quotient under the division rules of R40. -/
  | div (f : FR)
  /-- REM (R97). Scalar remainder under the division rules of R40. -/
  | rem (f : FR)
  /-- AND (R97). Scalar bitwise AND. -/
  | and (f : FR)
  /-- OR (R97). Scalar bitwise OR. -/
  | or (f : FR)
  /-- XOR (R97). Scalar bitwise XOR. -/
  | xor (f : FR)
  /-- ANDN (R97). Scalar A AND NOT B. -/
  | andn (f : FR)
  /-- SHL (R98). Scalar shift left by a register amount under Shift. -/
  | shl (f : FR)
  /-- SHR (R98). Scalar logical shift right under Shift. -/
  | shr (f : FR)
  /-- SAR (R98). Scalar arithmetic shift right under Shift. -/
  | sar (f : FR)
  /-- ROT (R98). Scalar rotation towards the high bits under Shift. -/
  | rot (f : FR)
  /-- MIN (R97). Scalar smaller of two values, signedness by type. -/
  | min (f : FR)
  /-- MAX (R97). Scalar larger of two values, signedness by type. -/
  | max (f : FR)
  /-- SET (R99). Writes 1 or 0 to an s register by the compare condition in MIN. -/
  | set (f : FR)
  /-- CLZ (R100). Counts leading zeros of the N-bit operand. -/
  | clz (f : FR)
  /-- CTZ (R100). Counts trailing zeros of the N-bit operand. -/
  | ctz (f : FR)
  /-- POPC (R100). Counts set bits of the N-bit operand. -/
  | popc (f : FR)
  /-- BFX (R101). Extracts a bit field by position and width. -/
  | bfx (f : FQ)
  /-- BFI (R101). Inserts the low bits of A into a bit field of D. -/
  | bfi (f : FQ)
  /-- SEL (R102). Selects A or B by whether C is non-zero. -/
  | sel (f : FQ)
  /-- ADDI (R103). Adds a sign-extended 20-bit immediate. -/
  | addi (f : FI)
  /-- LOGI (R103). Logical AND, OR or XOR with an immediate, selected by MIN4. -/
  | logi (f : FI)
  /-- SHI (R103). Shift or rotate by an immediate amount, selected by MIN4. -/
  | shi (f : FI)
  /-- LIH (R104). Loads a sign-extended 20-bit immediate shifted left by 12. -/
  | lih (f : FI)
  /-- ADDPC (R104). Writes the instruction address plus a shifted immediate. -/
  | addpc (f : FI)
  /-- NSET (R104). Writes a 15-bit location register from A plus an immediate. -/
  | nset (f : FI)
  /-- NGET (R104). Reads a location register into an s register. -/
  | nget (f : FI)
  /-- VADD (R106). Per-lane integer add, wrapping. -/
  | vadd (f : FR)
  /-- VSUB (R106). Per-lane integer subtract, wrapping. -/
  | vsub (f : FR)
  /-- VMUL (R106). Per-lane low N bits of the product. -/
  | vmul (f : FR)
  /-- VMULH (R106). Per-lane high N bits of the product. -/
  | vmulh (f : FR)
  /-- VMAD (R106). Per-lane A times B plus C, wrapping. -/
  | vmad (f : FQ)
  /-- VMIN (R106). Per-lane integer minimum. -/
  | vmin (f : FR)
  /-- VMAX (R106). Per-lane integer maximum. -/
  | vmax (f : FR)
  /-- VABS (R106). Per-lane absolute value, wrapping. -/
  | vabs (f : FR)
  /-- VAND (R106). Per-lane bitwise AND. -/
  | vand (f : FR)
  /-- VOR (R106). Per-lane bitwise OR. -/
  | vor (f : FR)
  /-- VXOR (R106). Per-lane bitwise XOR. -/
  | vxor (f : FR)
  /-- VNOT (R106). Per-lane bitwise NOT. -/
  | vnot (f : FR)
  /-- VSHL (R98). Per-lane shift left under Shift. -/
  | vshl (f : FR)
  /-- VSHR (R98). Per-lane logical shift right under Shift. -/
  | vshr (f : FR)
  /-- VSAR (R98). Per-lane arithmetic shift right under Shift. -/
  | vsar (f : FR)
  /-- VBFX (R101). Per-lane bit-field extract. -/
  | vbfx (f : FQ)
  /-- VBFI (R101). Per-lane bit-field insert. -/
  | vbfi (f : FQ)
  /-- VCLZ (R105). Per-lane count of leading zeros. -/
  | vclz (f : FR)
  /-- VPOPC (R105). Per-lane count of set bits. -/
  | vpopc (f : FR)
  /-- VCMP (R107). Sets predicate bits of active lanes by an integer compare. -/
  | vcmp (f : FR)
  /-- VSEL (R105). Per-lane select of A or B by a predicate. -/
  | vsel (f : FQ)
  /-- VMOV (R108). Copies A to D in active lanes. -/
  | vmov (f : FR)
  /-- VBCAST (R108). Broadcasts an s register to active lanes. -/
  | vbcast (f : FR)
  /-- VIOTA (R108). Writes A plus lane index times B to active lanes. -/
  | viota (f : FR)
  /-- VDOT4 (R109). Four-way byte dot product with 32-bit accumulation. -/
  | vdot4 (f : FQ)
  /-- KOP (R110). Combines predicate registers bit by bit by the operation in MIN. -/
  | kop (f : FR)
  /-- KMOV_TOS (R110). Copies a predicate register into an s register. -/
  | kmovTos (f : FR)
  /-- KMOV_FROMS (R110). Sets predicate bits of active lanes from an s register. -/
  | kmovFroms (f : FR)
  /-- VFADD (R111). Per-lane floating add, rounded once. -/
  | vfadd (f : FR)
  /-- VFSUB (R111). Per-lane floating subtract, rounded once. -/
  | vfsub (f : FR)
  /-- VFMUL (R111). Per-lane floating multiply, rounded once. -/
  | vfmul (f : FR)
  /-- VFMA (R111). Per-lane fused multiply-add with one rounding. -/
  | vfma (f : FQ)
  /-- VFMIN (R112). Per-lane floating minimum, NaN handling by minor. -/
  | vfmin (f : FR)
  /-- VFMAX (R112). Per-lane floating maximum, NaN handling by minor. -/
  | vfmax (f : FR)
  /-- VFCMP (R113). Sets predicate bits by a floating compare. -/
  | vfcmp (f : FR)
  /-- VFDIV (R111). Per-lane floating divide, rounded once. -/
  | vfdiv (f : FR)
  /-- VFSQRT (R111). Per-lane floating square root, rounded once. -/
  | vfsqrt (f : FR)
  /-- VRCP (R114). Correctly rounded reciprocal. -/
  | vrcp (f : FR)
  /-- VRSQ (R114). Correctly rounded reciprocal square root. -/
  | vrsq (f : FR)
  /-- VEXP2 (R114). Correctly rounded base-2 exponential. -/
  | vexp2 (f : FR)
  /-- VLOG2 (R114). Correctly rounded base-2 logarithm. -/
  | vlog2 (f : FR)
  /-- VSIN (R114). Correctly rounded sine of pi times A. -/
  | vsin (f : FR)
  /-- VCOS (R114). Correctly rounded cosine of pi times A. -/
  | vcos (f : FR)
  /-- VTANH (R114). Correctly rounded hyperbolic tangent. -/
  | vtanh (f : FR)
  /-- VROUND (R116). Rounds each active lane to an integral value in the direction RM. -/
  | vround (f : FR)
  /-- VCVT (R117). Converts each active lane between types under Convert. -/
  | vcvt (f : FR)
  /-- VPACK (R118). Converts two sources and packs them into one lane. -/
  | vpack (f : FR)
  /-- VUNPACK (R119). Widens one packed element of A exactly. -/
  | vunpack (f : FR)
  /-- VSCALE (R120). Multiplies each lane by a power of two with one rounding. -/
  | vscale (f : FR)
  /-- VPERM (R122). Gathers across lanes by per-lane indices. -/
  | vperm (f : FR)
  /-- VSHFL (R123). Moves elements across lanes by a uniform distance. -/
  | vshfl (f : FR)
  /-- VRED (R124). Reduces the active lanes and writes the result to each active lane. -/
  | vred (f : FR)
  /-- VSCAN (R125). Writes the inclusive scan of active lanes. -/
  | vscan (f : FR)
  /-- VVOTE (R126). Writes a scalar vote over active lanes. -/
  | vvote (f : FR)
  /-- VPART (R127). Partitions active-lane elements by a predicate and writes the true count. -/
  | vpart (f : FR)
  /-- LD (R136). Scalar indexed load. -/
  | ld (f : FM)
  /-- LDI (R136). Scalar load with immediate offset. -/
  | ldi (f : FM)
  /-- ST (R136). Scalar indexed store. -/
  | st (f : FM)
  /-- STI (R136). Scalar store with immediate offset. -/
  | sti (f : FM)
  /-- VLD (R136). Per-lane gather load. -/
  | vld (f : FM)
  /-- VLDI (R136). Per-lane broadcast load with immediate offset. -/
  | vldi (f : FM)
  /-- VST (R136). Per-lane scatter store. -/
  | vst (f : FM)
  /-- VSTI (R136). Per-lane store to one address, highest active lane remaining. -/
  | vsti (f : FM)
  /-- VLDC (R136). Per-lane contiguous load. -/
  | vldc (f : FM)
  /-- VSTC (R136). Per-lane contiguous store. -/
  | vstc (f : FM)
  /-- PLD (R137). Requests L1 prefetch of each active lane's line. -/
  | pld (f : FM)
  /-- CWB (R137). Writes back a dirty L1 line and keeps it valid. -/
  | cwb (f : FM)
  /-- CINV (R137). Invalidates an L1 line after writing it back if dirty. -/
  | cinv (f : FM)
  /-- LDO (R138). Scoped scalar load, optionally an acquire. -/
  | ldo (f : FM) (w : W1)
  /-- STO (R138). Scoped scalar store, optionally a release. -/
  | sto (f : FM) (w : W1)
  /-- VLDO (R138). Scoped per-lane load, optionally an acquire. -/
  | vldo (f : FM) (w : W1)
  /-- VSTO (R138). Scoped per-lane store, optionally a release. -/
  | vsto (f : FM) (w : W1)
  /-- STF (R140). Per-lane stores on the target device followed by one flag increment. -/
  | stf (f : FM) (w : W1)
  /-- ACP (R141). Starts an asynchronous engine copy with a completion token. -/
  | acp (f : FM) (w : W1)
  /-- BPF (R142). Starts a prefetch of a range into home L2 slices, completing on a token or barrier. -/
  | bpf (f : FM) (w : W1)
  /-- NLD (R139). Per-lane load through a far pointer. -/
  | nld (f : FM) (w : W1)
  /-- NST (R139). Per-lane store through a far pointer. -/
  | nst (f : FM) (w : W1)
  /-- FAO (R145). Per-lane fetch-and-operate returning the old word. -/
  | fao (f : FM) (w : W1)
  /-- FAOR (R146). Joins an ordered set of fetch-and-operate members served in LRID order. -/
  | faor (f : FM) (w : W1)
  /-- RED (R145). Per-lane non-returning reduction into memory. -/
  | red (f : FM) (w : W1)
  /-- CAS (R145). Per-lane compare-and-swap returning the old word. -/
  | cas (f : FM) (w : W1)
  /-- ENQ (R150). Appends an element to a ring at its home slice and returns a status. -/
  | enq (f : FM) (w : W1)
  /-- DEQ (R150). Removes an element from a ring into a buffer and returns a status. -/
  | deq (f : FM) (w : W1)
  /-- WAITC (R152). Parks the group until a word meets a compare or a timeout. -/
  | waitc (f : FM) (w : W1)
  /-- FENCE (R153). Orders the group's accesses of the masked classes at a scope. -/
  | fence (f : FR) (w : W1)
  /-- BARI (R155). Initialises a barrier object's expected count. -/
  | bari (f : FM) (w : W1)
  /-- BARA (R155). Arrives at a barrier, returning the phase, as a block-scope release. -/
  | bara (f : FM) (w : W1)
  /-- BARW (R155). Waits until the barrier phase differs from a given value. -/
  | barw (f : FM) (w : W1)
  /-- BR (R159). Uniform unconditional branch. -/
  | br (f : FB)
  /-- BRC (R159). Uniform branch on a scalar condition. -/
  | brc (f : FB)
  /-- BRK (R159). Per-lane branch on a predicate bit. -/
  | brk (f : FB)
  /-- JMPI (R160). Per-lane indirect jump. -/
  | jmpi (f : FR)
  /-- CALL (R160). Per-lane direct call writing a link pair. -/
  | call (f : FB)
  /-- CALLI (R160). Per-lane indirect call writing a link pair. -/
  | calli (f : FR)
  /-- RET (R160). Per-lane return through a link pair. -/
  | ret (f : FR)
  /-- EXIT (R162). Marks active lanes exited and ends the group when the last live lane exits. -/
  | exit (f : FR)
  /-- LOOP (R161). Decrements a loop counter and branches while it exceeds 1. -/
  | loop (f : FB)
  /-- LBRK (R161). Clears a loop counter and branches. -/
  | lbrk (f : FB)
  /-- WAITT (R164). Waits until masked token counts fall to a count, raising held faults. -/
  | waitt (f : FI)
  /-- YIELD (R165). Asks the partition to issue another ready group next. -/
  | yield (f : FR)
  /-- NOP (R163). Advances taking-part lanes with no other effect. -/
  | nop (f : FR)
  /-- SRD (R167). Reads a special register by selector. -/
  | srd (f : FI)
  /-- SWR (R168). Writes a writable special register by selector. -/
  | swr (f : FI)
  /-- TRAP (R174). Raises TRAPI with the immediate in %faultaux. -/
  | trap (f : FI)
  /-- TRET (R173). Returns from the user trap handler, restoring pcv from the trap frames. -/
  | tret (f : FR)
  /-- BKPT (R174). Stops the group for a debugger, or raises BKPT without one. -/
  | bkpt (f : FI)
  /-- SVC_VERSION (R174). Runtime service returning the runtime interface version. -/
  | svcVersion (f : FI)
  /-- SVC_ABORT (R174). Runtime service ending the process with a core dump. -/
  | svcAbort (f : FI)
  /-- SVC_PRIVSIZE (R174). Runtime service growing private memory per lane. -/
  | svcPrivsize (f : FI)
  /-- SVC_DEBUGGED (R174). Runtime service reporting whether a debugger is attached. -/
  | svcDebugged (f : FI)
  /-- SVC_SLEEP (R174). Runtime service making the group wait a number of ns. -/
  | svcSleep (f : FI)
  /-- SVC_UNKNOWN (R174). An unassigned service number returning all ones in s8 and 0 in s9. -/
  | svcUnknown (f : FI)
  /-- SVC_HELPER (R31). Privileged call to a runtime-helper service numbered 0x8000 and above. -/
  | svcHelper (f : FI)
  /-- ICINV (R175). Starts invalidation of the translations of a code range, as a release. -/
  | icinv (f : FR)
  /-- SYNCI (R176). Waits for the group's ICINVs and discards prefetched instructions. -/
  | synci (f : FR)
  /-- SEND (R180). Pushes a 64-bit value onto a receive queue of a device. -/
  | send (f : FR)
  /-- QBIND (R179). Binds a q register to a receive queue. -/
  | qbind (f : FI)
  /-- QBIND_UN (R179). Unbinds a q register. -/
  | qbindUn (f : FI)
  /-- PMARK (R181). Places a mark record on the trace port. -/
  | pmark (f : FI)
  /-- HPF (R182). Prefetch hint with no architectural effect. -/
  | hpf (body : BitVec 56)
  /-- HBR (R182). Branch-prediction hint with no architectural effect. -/
  | hbr (body : BitVec 56)
  /-- HHOT (R182). Hot-region placement hint with no architectural effect. -/
  | hhot (op : BitVec 8) (body : BitVec 56)
  /-- PAIR (R75). Executes one scalar and one vector operation under one guard as one instruction. -/
  | pair (p : PairHead) (v : BitVec 64)
  /-- UNASSIGNED_ENCODING (R78). Issue of an unassigned or reserved major, minor or type, raising ILLOP. -/
  | unassignedEncoding (w0 w1 : BitVec 64)
  /-- TLD (R209). Issues a tile load from memory into a slot image. -/
  | tld (f : FR) (w : W1)
  /-- TST (R209). Issues a tile store from a slot image to memory. -/
  | tst (f : FR) (w : W1)
  /-- TCP (R211). Issues a converting tile copy, optionally transposed. -/
  | tcp (f : FR) (w : W1)
  /-- WBLD (R210). Issues a load of a B tile into the weight buffer. -/
  | wbld (f : FR) (w : W1)
  /-- TMMA (R212). Issues a block-scaled matrix multiply-accumulate into the array. -/
  | tmma (f : FR) (w : W1)
  /-- TSCAN (R213). Issues a linear-recurrence scan over each column. -/
  | tscan (f : FR) (w : W1)
  /-- TZERO (R214). Issues a reset of an accumulator region, optionally carries and GFLUSH. -/
  | tzero (f : FR) (w : W1)
  /-- TACRD (R215). Issues a readout of accumulator offsets, gains or carries into a slot image. -/
  | tacrd (f : FR) (w : W1)
  /-- TACWR (R215). Issues a write of offsets, gains or carries from a slot image. -/
  | tacwr (f : FR) (w : W1)
  /-- TRED (R216). Issues anchored reduction of a slot image into memory words. -/
  | tred (f : FR) (w : W1)
  /-- TEW (R217). Issues an element-wise tile operation selected by MIN. -/
  | tew (f : FR) (w : W1)
  /-- TFMT (R218). Loads the format table synchronously. -/
  | tfmt (f : FR) (w : W1)
  /-- TLEASE (R207). Requests the matrix-array lease and waits for it. -/
  | tlease (f : FR) (w : W1)
  /-- TFREE (R207). Waits for array commands then releases the lease, optionally discarding state. -/
  | tfree (f : FR) (w : W1)
  /-- TBMAP (R195). Reads a word of an operation record or the array status. -/
  | tbmap (f : FR) (w : W1)
  /-- TRSM (R196). Resumes a faulted operation, sending only unfinished children. -/
  | trsm (f : FR) (w : W1)
  /-- IBSET (R247). Native S-slot operation writing an index-base register. -/
  | ibset (g : BitVec 4) (r : BitVec 10) (imm : BitVec 20)
  /-- XCMP (R248). Native M-slot compare of duplicate results under checked translation. -/
  | xcmp (g : BitVec 4) (d a : BitVec 12) (voff : BitVec 16)
  /-- BUNDLE_ISSUE (R242). A partition issues one native bundle whose operations read their sources together. -/
  | bundleIssue
  /-- RESULT_ARRIVAL (R252). Missing data arrives and a frozen group resumes with its in-flight results reinjected. -/
  | resultArrival (who : GRef) (index : Nat)
  /-- BREAKPOINT_HIT (R385). The issue address matches an enabled breakpoint and the group stops with BKPT. -/
  | breakpointHit (index : Nat)
  /-- HOME_SLICE_OPERATION (R323). A home slice performs one indivisible atomic, ring, flag or compare operation on a line. -/
  | homeSliceOperation (op : SliceOp)
  /-- WAITC_TIMEOUT (R152). A parked WAITC's timeout expires and the group wakes with status 0. -/
  | waitcTimeout (who : GRef)
  /-- FAOR_SET_TIMEOUT (R147). An ordered set lacks members 1 ms after its first request and every member raises FAORT. -/
  | faorSetTimeout (pa : Nat)
  /-- ENGINE_OPERATION_COMPLETE (R141). An ACP, BPF or level-0 engine operation completes, flipping owners and lowering its token or arriving on a barrier. -/
  | engineOperationComplete (id : Nat)
  /-- TILE_CHILD_COMPLETE (R199). A child of a tile operation finishes, setting its bitmap bit and possibly releasing the next wave. -/
  | tileChildComplete (who : GRef) (record child : Nat)
  /-- TILE_CHILD_FAULT (R203). A child reports a fault to its parent, which sends no further children. -/
  | tileChildFault (who : GRef) (record child : Nat) (report : TileReport)
  /-- LEASE_TENURE_END (R207). A lease tenure ends after 32 commands or 8,192 clk and the lease passes to a waiting partition. -/
  | leaseTenureEnd (core : Nat)
  /-- ICINV_COMPLETE (R175). All overlapping translations are withdrawn and running groups have passed a commit point. -/
  | icinvComplete (id : Nat)
  /-- TRANSLATION_STUB_CALL (R266). A call reaches a stub and the service translates, installs and patches the entry word. -/
  | translationStubCall (who : GRef) (callee : Nat)
  /-- XLAT_TIMEOUT (R267). The service cannot place a translation within 100 ms and raises XLAT. -/
  | xlatTimeout (who : GRef)
  /-- HOT_RETRANSLATION (R271). A procedure found hot in a 100 ms window is retranslated and replaces the old translation. -/
  | hotRetranslation (id : Nat)
  /-- TRANSLATOR_KERNEL_START (R270). Queued translation work over 2 ms starts a translator kernel from system queue 0. -/
  | translatorKernelStart
  /-- BIND (R282). A transfer reaches a binding stub and the loader binds the GOT slot. -/
  | bind (ctx index : Nat)
  /-- LOAD_REQUEST (R292). The loader performs a load request from its ring. -/
  | loadRequest (ctx : Nat)
  /-- UNLOAD_REQUEST (R293). The loader performs an unload request from its ring. -/
  | unloadRequest (ctx : Nat)
  /-- NONRESIDENT_PAGE_SERVICE (R328). The runtime brings a non-resident page back and resumes the group. -/
  | nonresidentPageService (who : GRef) (granted : Bool) (ptes : List (Nat × BitVec 64)) (bytes : List (Nat × BitVec 8))
  /-- MAPPING_CHANGE (R334). The runtime writes page-table entries and invalidates translation structures. -/
  | mappingChange (ctx : Nat) (ptes : List (Nat × BitVec 64)) (nonresident : List Nat)
  /-- CORE_DUMP (R397). A fault reaching the runtime or ABORT stops the process and writes a core image. -/
  | coreDump (ctx : Nat)
  /-- DEVICE_QUEUE_WAKE (R341). A write to a queue control-block line wakes the desk, which dequeues and validates records. -/
  | deviceQueueWake (queue : Nat)
  /-- COUNTER_WATCH_WAKE (R342). A write to a dependence counter line wakes the desk to recheck readiness. -/
  | counterWatchWake (line : Nat)
  /-- BLOCK_PLACEMENT (R348). The desk places a block of a chosen ready launch on a free core. -/
  | blockPlacement (die : Nat)
  /-- PLACEMENT_WAIT_EXPIRY (R348). A block waiting 2 µs for a near core goes to the nearest free core anywhere. -/
  | placementWaitExpiry (launch : Nat)
  /-- PRIORITY_STARVATION_EXPIRY (R345). A higher-priority launch unfitting for 64 µs stops lower-priority placement on the die. -/
  | priorityStarvationExpiry (die : Nat)
  /-- DRAIN_BOUND_EXPIRY (R353). A drain still running when the bound elapses becomes a save or flush. -/
  | drainBoundExpiry (launch block : Nat)
  /-- PREEMPT_SAVE (R354). A block is frozen and its state written to its save area. -/
  | preemptSave (launch block : Nat)
  /-- PREEMPT_FLUSH (R356). An idempotent block is stopped, its state discarded, and it becomes unplaced. -/
  | preemptFlush (launch block : Nat)
  /-- BLOCK_RESUME (R355). A saved block is placed again and its groups continue where they froze. -/
  | blockResume (launch block : Nat)
  /-- LAUNCH_COMPLETE (R343). A launch's last group ends and its completion action is performed once. -/
  | launchComplete (launch : Nat)
  /-- COMPLETION_ACTION_RETRY (R343). A watch on a full target queue wakes and the follow-up enqueue is retried. -/
  | completionActionRetry (launch : Nat)
  /-- P_L1_ENTRY (R358). An idle core enters clock-gated P-L1. -/
  | pL1Entry (core : Nat)
  /-- P_L2_ENTRY (R358). An idle unallocated core enters power-gated P-L2. -/
  | pL2Entry (core : Nat)
  /-- P_L3_ENTRY (R358). A die with every core in P-L2 enters retention P-L3. -/
  | pL3Entry (die : Nat)
  /-- P_L4_ENTRY (R358). A device with every die in P-L3 enters P-L4. -/
  | pL4Entry
  /-- POWER_WAKE (R360). A watched write, host traffic, placement or fabric request wakes a sleeping unit. -/
  | powerWake (unit : PowerUnit)
  /-- HOST_APERTURE_ENQUEUE (R338). A host write to aperture bytes 56-63 enqueues the record buffer on its queue. -/
  | hostApertureEnqueue (queue offset : Nat) (bytes : List (BitVec 8))
  /-- HOST_MEM_WRITE (R237). A CXL.mem host write is performed at its home slice. -/
  | hostMemWrite (pa : Nat) (bytes : List (BitVec 8))
  /-- HOST_MEM_READ (R237). A CXL.mem host read is served at its home slice. -/
  | hostMemRead (pa count : Nat)
  /-- RESET_WRITE (R411). Writing 0xD1E5 to RESET resets the device. -/
  | resetWrite (value : BitVec 32)
  /-- THERMAL_SHUTDOWN (R412). A junction at 115 °C ends every context with MCHK and powers off the dies. -/
  | thermalShutdown
  /-- PC_SAMPLE (R390). At a sampling clk a partition samples the next occupied group slot. -/
  | pcSample (core part : Nat)
  /-- TRACE_PORT_SEND (R393). The port sends a record from the hub buffer, preceded by a DROP when records were lost. -/
  | tracePortSend
  /-- LNAK (R374). A received LNAK makes the sender replay from the expected SEQ. -/
  | lnak (link seq : Nat)
  /-- LINK_RETRAIN (R374). After 16 LNAKs or loss of lock a link retrains, going down on failure: `none` is the loss of
  lock, and otherwise how the retraining ended. -/
  | linkRetrain (link : Nat) (trained : Option Bool)
  /-- REQUEST_FORWARD (R362). A switch or router routes a request, recording its path and possibly combining it. -/
  | requestForward (element port : Nat) (m : Msg)
  /-- REPLY_RETRACE (R371). A reply retraces its path and splits at a wait-buffer entry. -/
  | replyRetrace (element : Nat) (m : Msg)
  /-- XPKG (R273). A translation package arrives and is installed only from a verified trust-domain peer. -/
  | xpkg (p : Package)
  /-- DATA (R364). Read data returns to the requester. -/
  | data (m : Msg)
  /-- DONE (R364). An acknowledgement of a performed write, RED or STF returns. -/
  | done (m : Msg)
  /-- VALUE (R364). Returned values and statuses reach the requester. -/
  | value (m : Msg)
  /-- FAULT_REPLY (R367). A FAULT reply makes the request's fault precise at the requester with RMT set. -/
  | faultReply (m : Msg)
  /-- WAKE (R360). A WAKE reply restarts the requester's reply timer. -/
  | wake (m : Msg)
  /-- SACK (R380). A SEND acceptance, refusal or rejection reaches the sender. -/
  | sack (m : Msg)
  /-- MGMT (R364). A management message carrying route tables, key loads or time synchronisation arrives. -/
  | mgmt (b : MgmtBody)
  /-- WAIT_BUFFER_TIMEOUT (R371). A wait-buffer entry unanswered for 250 µs is freed. -/
  | waitBufferTimeout (element port entry : Nat)
  /-- RD (R364). A remote read request arrives at the target and is performed. -/
  | rd (m : Msg)
  /-- WR (R364). A remote write request arrives at the target and is performed. -/
  | wr (m : Msg)
  /-- STF_MESSAGE (R368). An STF message arrives; the target performs its stores then the flag RED. -/
  | stfMessage (m : Msg)
  /-- ATOM (R365). A remote atomic request arrives and is performed at the home slice. -/
  | atom (m : Msg)
  /-- FAOR_MESSAGE (R372). A remote FAOR message adds its members to the open set. -/
  | faorMessage (m : Msg)
  /-- RING (R364). A remote ENQ or DEQ request arrives at the control block's home slice. -/
  | ring (m : Msg)
  /-- CHECK_MESSAGE (R333). A remote page-check request for an engine range is checked and pinned at the target. -/
  | checkMessage (m : Msg)
  /-- TILE_MESSAGE (R197). A pod-level tile child or report arrives over the fabric. -/
  | tileMessage (m : Msg)
  /-- SEND_MESSAGE (R380). A SEND message arrives and its entry is appended, refused or rejected. -/
  | sendMessage (m : Msg)
  /-- SEND_RETRY (R380). A refused SEND is offered again after 1 µs. -/
  | sendRetry (who : GRef) (index : Nat)
  /-- SEND_TIMEOUT (R380). A SEND not accepted within 200 µs is abandoned and FABRIC is held. -/
  | sendTimeout (who : GRef) (index : Nat)
  /-- FABRIC_REPLY_TIMEOUT (R367). A request without a reply in 200 µs, or 1,200 µs for FAOR, raises FABRIC. -/
  | fabricReplyTimeout (tag : Nat)
  /-- SVC_SLEEP_EXPIRY (R174). The s8 ns that SVC SLEEP waits by %gtime run out, and the group resumes with s8 := 0. -/
  | svcSleepExpiry (who : GRef)
  /-- WAKE_COMPLETE (R360). A unit's wake time ends; placed blocks start, refused SENDs are resent and requesters' 200 µs limits restart. -/
  | wakeComplete (unit : PowerUnit)
  /-- PCAP_WRITE (R411). A write to PCAP sets the clamped power cap within 1 µs. -/
  | pcapWrite (watts : Nat)
  /-- NEGOTIATE_ALGORITHMS (R403). SPDM algorithm negotiation. -/
  | negotiateAlgorithms (offered : List SpdmAlg)
  /-- GET_DIGESTS (R403). SPDM request for certificate-chain digests. -/
  | getDigests
  /-- GET_CERTIFICATE (R403). SPDM request for a certificate chain. -/
  | getCertificate (slot : Nat)
  /-- CHALLENGE (R403). SPDM challenge-response authentication. -/
  | challenge (slot nonce : Nat)
  /-- GET_MEASUREMENTS (R403). SPDM request for the measurement slots. -/
  | getMeasurements (slot : Nat)
  /-- KEY_EXCHANGE (R403). SPDM ML-KEM key exchange opening a session. -/
  | keyExchange (session : Nat)
  /-- FINISH (R403). SPDM session finish. -/
  | finish (at_ : InSession)
  /-- KEY_UPDATE (R404). SPDM key update, starting link key rotation. -/
  | keyUpdate (at_ : InSession) (link : Option Nat)
  /-- END_SESSION (R403). SPDM session end. -/
  | endSession (at_ : InSession)
  /-- TRUST_DOMAIN_LOAD (R404). Vendor-defined SPDM request loading the trust-domain list into slot 6. -/
  | trustDomainLoad (at_ : InSession) (digests : List Nat)
  /-- BOOT_STAGE_1 (R400). Verified stage-1 firmware loads and verifies the runtime and translator. -/
  | bootStage1 (slotA slotB : BootImage)
  /-- BOOT_STAGE_2_COMPLETE (R401). Stage 2 brings up dies, memory and links and opens the host interface. -/
  | bootStage2Complete (runtime translator : BootImage) (setup : BootSetup)
  /-- SCRUB (R407). The background scrubber rewrites a corrected line if unchanged. `corrected` is empty for a line
  that cannot be corrected (R408). -/
  | scrub (line : Nat) (seen corrected : List (BitVec 8))
  /-- DIE_STATE_ERROR (R408). An uncorrectable error in shared state ends contexts on the die and takes it offline. -/
  | dieStateError (die : Nat)
  /-- DBG_STOP (R387). Debug request freezing a group or every group of the process. -/
  | dbgStop (q : DbgReq)
  /-- DBG_RESUME (R389). Debug request resuming stopped groups. -/
  | dbgResume (q : DbgReq)
  /-- DBG_STEP (R389). Debug request running one virtual instruction then stopping. -/
  | dbgStep (q : DbgReq)
  /-- SETBP (R385). Debug request writing an instruction breakpoint. -/
  | setbp (q : DbgReq)
  /-- SETWP (R386). Debug request writing a watchpoint. -/
  | setwp (q : DbgReq)
  /-- DBG_READ (R388). Debug request writing the group's virtual view to a buffer. -/
  | dbgRead (q : DbgReq)
  /-- DBG_WRITE (R388). Debug request replacing the group's virtual state from a buffer. -/
  | dbgWrite (q : DbgReq)
  /-- DETACH (R384). Debug request clearing breakpoints and watchpoints and resuming groups. -/
  | detach (q : DbgReq)
  /-- PROF_SAMPLE (R394). Profiler request enabling or disabling PC sampling. -/
  | profSample (q : ProfReq)
  /-- PROF_TYPES (R394). Profiler request setting the enabled trace record types. -/
  | profTypes (q : ProfReq)
  /-- PROF_FILTER (R394). Profiler request setting the launch filter. -/
  | profFilter (q : ProfReq)
  /-- ARRAYTOT (R394). Profiler request writing array cycle totals to a buffer. -/
  | arraytot (q : ProfReq)
  /-- ARRAYCLR (R394). Profiler request resetting array cycle totals. -/
  | arrayclr (q : ProfReq)
  /-- PROF_PORT (R394). Profiler request starting or stopping trace-port output for a context. -/
  | profPort (q : ProfReq)
  /-- FLIT_RECEIVE (R373). A link receives a flit, accepting it in SEQ order or discarding it and sending LNAK. -/
  | flitReceive (link : Nat) (flit : Flit)
  /-- TRANSLATION_INSTALL (R266). The translation service finishes a translation, installs it and resumes the groups stalled on it. -/
  | translationInstall (t : Translation)
  /-- JUNCTION_TEMPERATURE_CHANGE (R346). A die's hottest junction temperature crosses a threshold of f(T), changing its energy-budget refill rate. -/
  | junctionTemperatureChange (die celsius : Nat)
  /-- QUEUE_ALLOTMENT (R335). The resident runtime allots device and receive queues to a context, setting CTX, ENABLE and HOSTEN. -/
  | queueAllotment (queue : Nat) (receive : Bool) (ctx : Nat) (enable hosten : Bool)
  /-- REPLAY_LOG_ENABLE (R396). The debug service enables the replay log for a launch and allocates its memory. -/
  | replayLogEnable (launch base size : Nat)
  /-- REPLAY (R396). The runtime runs a block again from its start, taking logged instructions' values from the replay log. -/
  | replay (launch block : Nat)
  /-- SHELF_ENTRY_ERROR (R407). A hold-shelf entry fails parity, is freed and wakes its group with status 0. -/
  | shelfEntryError (who : GRef)
  /-- REMOTE_CHECK_RETURN (R141). A remote device returns the page check of an engine range to a stalled issuer. -/
  | remoteCheckReturn (who : GRef) (answer : Option Trap)
  /-- PRIVATE_GROWTH (R29). The runtime serves a private access beyond the mapped region by growth or PAGE. -/
  | privateGrowth (who : GRef) (granted : Bool) (ptes : List (Nat × BitVec 64)) (perLane : Nat)
  /-- CONTEXT_END (R414). A context ends, disabling its queues and discarding pending launches. -/
  | contextEnd (ctx : Nat)
  /-- REPLAY_LOG_EXTEND (R396). The debug service extends a full replay log or stops logging. -/
  | replayLogExtend (who : GRef) (granted : Bool)
  /-- RUNTIME_PREEMPT_REQUEST (R352). The runtime requests pre-emption of a block with a bound. -/
  | runtimePreemptRequest (launch block bound : Nat)
  /-- POWER_ON_RESET (R400). Power-up or reset starts boot stage 0 in the hub ROM. -/
  | powerOnReset
  /-- NULL (R364). A NULL flit carrying only an acknowledgement arrives. -/
  | null (link ack : Nat)
  /-- GET_VERSION (R403). SPDM request for supported versions. -/
  | getVersion
  /-- GET_CAPABILITIES (R403). SPDM request for capabilities. -/
  | getCapabilities
  /-- MGMT_REGISTER_WRITE (R411). A write to another management register, such as MBOX, through BAR 0 or I3C. -/
  | mgmtRegisterWrite (register : MgmtReg) (value : BitVec 64)
  deriving DecidableEq, Repr

end Sys2Proof
end

