-- ==== Sys2Proof/Config.lean ====
section
/-! DEFINITION. What a part or an implementation fixes, and the free values: constants with no body,
so that a claim holds whatever they are. Each names its log entry in notes/assumptions. -/

namespace Sys2Proof.Config

/-- R313: the HBM4 stack (taken modulo 12) that holds a 4 KiB frame (log entry 10). -/
opaque stackOfFrame : Nat → Nat

/-- R322: the home slice (taken modulo 48) of a physical line on its die (log entry 10). -/
opaque sliceHash : Nat → Nat

/-- R348: the distance in router hops from a logical core to a stack (log entry 10). -/
opaque hops : Nat → Nat → Nat

/-- R362: the place that an element's fixed hash gives a destination and class among n ports
(log entry 10). -/
opaque linkHash : Nat → Nat → Nat → Nat

/-- The clk that the step numbered by its argument takes (log entry 11). -/
opaque stepClk : Nat → Nat

/-- The nanoseconds of %gtime that the step numbered by its argument takes (log entry 11). -/
opaque stepNs : Nat → Nat

/-- R141, R154, R234: a value the spec calls undefined, fresh at each use of the counter
(log entry 12). -/
opaque freeWord : Nat → BitVec 64

/-- R24: the 72-bit address that a CANON fault reports for a location and an exact sum that no
address holds (log entry 16). -/
opaque canonAddr : Nat → Int → Nat

/-- R141, R197: the nanoseconds that the work numbered by its argument takes (log entry 11). -/
opaque engineNs : Nat → Nat

/-- R213: the offset that a scan gives an element whose composed gain is a NaN or infinite, from the
gain's code and the other factor: the element is invalid and the spec states no offset (log
entry 18). -/
opaque badOffset : Nat → Int → Int

/-- R266, R267: the ns that the translation service takes for a procedure that a group began to wait for at a time
(log entry 11). -/
opaque xlateNs : Nat → Nat

/-- R346: the energy in µJ that a block's run is metered at (log entry 13). -/
opaque energyOfRun : Nat → Nat

/-- R411: the module power over the last ms, in W, when the register is read (log entry 13). -/
opaque powerReading : Nat → Nat

/-- R268, R400, R402: the SHAKE256-256 digest of a string of bytes, an outside standard
(log entry 14). -/
opaque shake256 : List Nat → Nat

/-- R403: the SHA3-384 digest of a string of bytes, an outside standard (log entry 14). -/
opaque sha3 : List Nat → Nat

/-- R273, R403: the ML-DSA-65 signature of a digest under a key, an outside standard
(log entry 14). -/
opaque mldsaSign : Nat → Nat → Nat

/-- R273, R400: whether a signature over a digest verifies under a key (log entry 14). -/
opaque mldsaVerify : Nat → Nat → Nat → Bool

/-- R403: the ML-KEM-1024 shared secret of a session (log entry 14). -/
opaque mlkemSecret : Nat → Nat

/-- R375: the truncated GCM tag of a sealed flit under a key, an outside standard (log entry 14). -/
opaque flitTag : Nat → List Nat → Nat

/-- R406: the stepping family of the part, non-zero by `Nat.succ` of a free value
(log entry 15). -/
opaque steppingFamilyPred : Nat

/-- R406: the translator version of the running translator (log entry 15). -/
opaque translatorVersion : Nat

/-- R272: the translator version that a .ntext section states, as a function of its bundles: the spec gives no place for
it in the section (log entry 15). -/
opaque statedVersion : List Nat → Nat

/-- R403: the identity key fused at manufacture (log entry 15). -/
opaque identityKey : Nat

/-- R400: the digest of the public key fused in the hub (log entry 15). -/
opaque fusedKey : Nat

/-- R402: the digest of the hub ROM, and of the fuse configuration (log entry 15). -/
opaque romDigest : Nat

opaque fuseDigest : Nat

/-- R292, R10: the 4 KiB frame that the runtime takes at its n-th allocation (log entry 19). -/
opaque freeFrame : Nat → Nat

/-- R20, R36, R290: the local addresses, in units of 4 KiB, at which the runtime places a context's
capability list and its loader ring (log entry 19). -/
opaque capPage : Nat

opaque ringPage : Nat

/-- R28: the local address, in units of 4 KiB, of the n-th group's private region (log entry 19). -/
opaque privRegion : Nat → Nat

/-- R353: a core's measured save rate, in bytes per µs above 1 (log entry 11). -/
opaque saveRate : Nat → Nat

/-- R347: how many launch array states a core holds (log entry 22). -/
opaque launchStates : Nat

/-- R208, R353: the LENGTH of the n-th save image, in units of 64 bytes (log entry 12). -/
opaque imageLen : Nat → Nat

/-- R208: the image format version of a save image (log entry 12). -/
opaque imageVersion : Nat

/-- R397: the local address in context 0, in units of 4 KiB, of the dump destination that the debug service
holds for a context, or none (log entry 19). -/
opaque dumpPage : Nat → Option Nat

/-- R406: the local address, in units of 4 KiB, of the structure that a capability names (log entry 19). -/
opaque capTarget : Nat → Nat

/-- R353: whether the runtime can allocate the save area of its n-th request (log entry 11). -/
opaque saveRoom : Nat → Bool

/-- R353: the ns until a block's groups have stopped (log entry 11). -/
opaque stopNs : Nat → Nat

/-- What a write to the mailbox tells the runtime (R411): a pod set with its devices, a link policy, or an SVN to
commit. -/
inductive MboxCmd where
  | podSet (n : Nat) (devices : List Nat)
  | linkPolicy (policy : Nat)
  | svnCommit (svn : Nat)
  | other
  deriving DecidableEq, Repr, Inhabited

/-- R411: the meaning of a word written to MBOX at some step, which the spec does not encode (log entry 40). -/
opaque mboxCommand : Nat → BitVec 64 → MboxCmd

/-- R270: the local address of the translator kernel's descriptor in the system context
(log entry 15). -/
opaque translatorKernel : Nat

/-- R395: how the n-th command's array clk divide among the classes (log entry 11). -/
opaque arrayClk : Nat → Nat → Nat

/-- R208, R397: the bytes of a save image past its header, which the spec calls opaque (log entry 12). -/
opaque imageByte : Nat → Nat

/-- R208: whether the bytes of a save image that is restored differ from those that were saved (log entry 12). -/
opaque imageLost : Nat → Bool

/-- R34: the bits in which the recomputation by an idle lane (the third argument) differs from its partner's
result, at a step and use (log entry 49). -/
opaque laneFlip : Nat → Nat → Nat → Nat

/-- R407: the entries of a group's register files that have failed beyond correction by an issue's end, at a step and
use: a scalar register by its number, lane l of vector register n as 4096 + 32n + l (log entry 37). -/
opaque regFails : Nat → Nat → List Nat

/-- R407: what has failed beyond correction by an issue's end, at a step and use, by the third argument: bytes of a
scratchpad allocation (0) or of a group's private lines (1), and accumulators, carries and weight slots (2 to 4) of its
array state, and of the launch array states on its core (5 to 7) (log entry 37). -/
opaque byteFails : Nat → Nat → Nat → List Nat

/-- R407, R409: the SRAM errors corrected in a step, and whether the bundle that is read has an uncorrectable one, at a
step and use (log entry 37). -/
opaque corrected : Nat → Nat → Nat
opaque bundleFails : Nat → Nat → Bool

/-- R35, R260: whether a comparison of duplicates differs by a soft error, at a step and use (log entry 49). -/
opaque softError : Nat → Nat → Bool

/-- R403: the Dernisal root's key, and its certificate of the identity key, fused at manufacture (log entry 14). -/
opaque rootKey : Nat
opaque identityCert : Nat

/-! ### The fabric on the wire (log entry 62) -/

/-- R361: L2 slice groups and hub ports of a die, of which the spec gives no count. -/
opaque sliceGroups : Nat
opaque hubPorts : Nat

/-- R361: the group of an L2 slice of a die; and the hub port of a die through which a destination and class go. -/
opaque sliceGroupOf : Nat → Nat
opaque hubPortOf : Nat → Nat → Nat → Nat

/-- R363: where an on-die router stands in its die's mesh, and whether the fixed dimension order moves along a row
first. -/
opaque meshAt : Nat → Nat × Nat
opaque meshRowFirst : Bool

/-- R364: the credits of a virtual channel of a link. -/
opaque credits : Nat → Nat → Nat

/-- R373: whether a link is still sending earlier flits at a step. -/
opaque linkBusy : Nat → Nat → Bool

/-- R364, R365: the bytes that carry what a message holds beside the fields whose places the spec gives, and what such
bytes hold. -/
opaque operandBytes : Msg → List (BitVec 8)
opaque readOperands : Nat → List (BitVec 8) → Msg
opaque readMgmt : List (BitVec 8) → MgmtBody
opaque readPackage : List (BitVec 8) → Package

/-- R375: a byte of AES-256-GCM's key stream, by key, link identifier, flit counter and place. -/
opaque keyStream : Nat → Nat → Nat → Nat → BitVec 8

end Sys2Proof.Config
end

