-- ==== Sys2Proof/Machine/SMap.lean ====
section
/-! DEFINITION. Reading and writing the sparse tables in which registers, memories and the device's
tables are held. A write keeps the keys strictly rising and removes an entry that would hold the
default, so that equal tables are equal data. -/

namespace Sys2Proof

/-- The value at a key; `d` is what an unlisted key reads as. -/
def SMap.get {α : Type} (d : α) (m : SMap α) (k : Nat) : α :=
  match m with
  | [] => d
  | (j, v) :: t => if k = j then v else SMap.get d t k

/-- Puts an entry in its place, whatever its value. -/
def SMap.insert {α : Type} (m : SMap α) (k : Nat) (v : α) : SMap α :=
  match m with
  | [] => [(k, v)]
  | (j, u) :: t =>
    if k < j then (k, v) :: (j, u) :: t
    else if k = j then (k, v) :: t
    else (j, u) :: SMap.insert t k v

/-- Removes a key's entry, wherever it stands. -/
def SMap.erase {α : Type} (m : SMap α) (k : Nat) : SMap α :=
  match m with
  | [] => []
  | (j, u) :: t => if k = j then SMap.erase t k else (j, u) :: SMap.erase t k

/-- Removes the entries of [a, a + n). -/
def SMap.dropRange {α : Type} (m : SMap α) (a n : Nat) : SMap α :=
  m.filter fun x => !(decide (a ≤ x.1) && decide (x.1 < a + n))

/-- Writes a value; writing the default removes the entry. -/
def SMap.set {α : Type} [DecidableEq α] (d : α) (m : SMap α) (k : Nat) (v : α) : SMap α :=
  if v = d then SMap.erase m k else SMap.insert m k v

/-- Whether every key of a table is above `lo`, the keys rise, and no entry holds the default. -/
def SMap.wfFrom {α : Type} [DecidableEq α] (d : α) (lo : Nat) (m : SMap α) : Bool :=
  match m with
  | [] => true
  | (j, v) :: t => decide (lo ≤ j) && decide (v ≠ d) && SMap.wfFrom d (j + 1) t

/-- The canonical form of a table. -/
def SMap.wf {α : Type} [DecidableEq α] (d : α) (m : SMap α) : Bool := SMap.wfFrom d 0 m

/-- The entry of a key in a table that has no default. -/
def SMap.find? {α : Type} (m : SMap α) (k : Nat) : Option α :=
  match m with
  | [] => none
  | (j, v) :: t => if k = j then some v else SMap.find? t k

/-- A table of words, in which an unlisted key reads 0. -/
abbrev BMap (w : Nat) := SMap (BitVec w)

def BMap.get {w : Nat} (m : BMap w) (k : Nat) : BitVec w := SMap.get 0 m k

def BMap.set {w : Nat} (m : BMap w) (k : Nat) (v : BitVec w) : BMap w := SMap.set 0 m k v

/-- A table of numbers, in which an unlisted key reads 0. -/
abbrev NMap := SMap Nat

def NMap.get (m : NMap) (k : Nat) : Nat := SMap.get 0 m k

def NMap.set (m : NMap) (k v : Nat) : NMap := SMap.set 0 m k v

def NMap.bump (m : NMap) (k : Nat) : NMap := NMap.set m k (NMap.get m k + 1)

/-- Puts a value into a sorted list, after its equals. -/
def insertBy {α : Type} (le : α → α → Bool) (x : α) : List α → List α
  | [] => [x]
  | y :: t => if le y x then y :: insertBy le x t else x :: y :: t

/-- Sorts a list; equal elements keep their order. -/
def sortBy {α : Type} (le : α → α → Bool) : List α → List α
  | [] => []
  | x :: t => insertBy (fun a b => le a b && !le b a) x (sortBy le t)

/-- Little-endian bytes of a table of bytes (R2). -/
def BMap.readNat (m : BMap 8) (a : Nat) : Nat → Nat
  | 0 => 0
  | n + 1 => (BMap.get m a).toNat + 256 * BMap.readNat m (a + 1) n

/-- Stores `n` little-endian bytes of a number (R2). -/
def BMap.writeNat (m : BMap 8) (a : Nat) : Nat → Nat → BMap 8
  | 0, _ => m
  | n + 1, v => BMap.writeNat (BMap.set m a (BitVec.ofNat 8 v)) (a + 1) n (v / 256)

/-- Stores a string of bytes. -/
def BMap.writeBytes (m : BMap 8) (a : Nat) : List (BitVec 8) → BMap 8
  | [] => m
  | b :: bs => BMap.writeBytes (BMap.set m a b) (a + 1) bs

/-- Reads a string of bytes. -/
def BMap.readBytes (m : BMap 8) (a : Nat) : Nat → List (BitVec 8)
  | 0 => []
  | n + 1 => BMap.get m a :: BMap.readBytes m (a + 1) n

end Sys2Proof
end

