-- ==== Sys2Proof/Machine/State.lean ====
section
/-! DEFINITION. The state of the machine, as plain data, and the state after reset. -/

namespace Sys2Proof.Machine

/-- Faults of the machine that end a run. -/
inductive Fault where
  /-- Raised by BUNDLE_ISSUE for a bundle that no installed translation may hold (R249): the spec
  gives such a bundle no effect. Safe: the run stops where the hardware does something unstated. -/
  | invalidBundle
  deriving DecidableEq, Repr

/-- Refusals of the machine. -/
inductive Refusal where
  /-- Raised by an arm of `exec` whose instruction has no meaning yet. Safe: the run stops. -/
  | notModelled (mnemonic : String)
  deriving DecidableEq, Repr

/-! ### Groups (R14 to R22) -/

/-- The virtual registers of a group (R13, R14). `v` is keyed by 32 · register + lane. -/
structure Regs where
  pcv : BMap 64
  v : BMap 32
  s : BMap 64
  k : BMap 32
  n : BMap 15
  tok : BMap 4
  lc : BMap 32
  fmtbase : BitVec 32
  faultcause : BitVec 64
  faultva : BitVec 64
  faultpc : BitVec 64
  faultaux : BitVec 64
  xctx : BitVec 16
  deriving DecidableEq, Repr, Inhabited

/-- The stall reasons of R391. -/
inductive Stall where
  | none | fault | save | debug | xlate | barrier | shelf | token | memory | gate | queue | lease
  | detwave | ready | exited
  deriving DecidableEq, Repr, Inhabited

/-- What came back for a request to another device (R364, R367). -/
inductive Answer where
  | values (l : List (Nat × Nat))
  /-- a fault, with the lanes that were served before it -/
  | fault (t : Trap) (served : List (Nat × Nat))
  | timeout
  deriving DecidableEq, Repr

/-- A request of a group to another device, outstanding (R367). -/
structure ReqOut where
  tag : Nat
  msg : Msg
  lanes : List Nat
  deadline : Nat
  answer : Option Answer
  deriving DecidableEq, Repr

/-- A run of bytes of an access: in physical memory, at an offset of the block's scratchpad, or (`priv`) at an offset of
the group's private region (R28). -/
structure Span where
  scratch : Bool
  at_ : Nat
  len : Nat
  priv : Bool := false
  deriving DecidableEq, Repr

/-- Where an access that passed its checks lies. -/
inductive Where where
  | here (l : List Span)
  | away (addr : Nat)
  deriving DecidableEq, Repr

/-! ### Tiles (R184 to R208) -/

/-- A weight-buffer image (R186, R210): its slots, what it holds, element codes keyed k · cols + j, and
scale bytes keyed kb · cols + j (unlisted: 127). -/
structure WImage where
  slot : Nat
  count : Nat
  fmt : Nat
  cw : Bool
  scaled : Bool
  rows : Nat
  cols : Nat
  codes : NMap
  scales : SMap Nat
  deriving DecidableEq, Repr, Inhabited

/-- An array state (R205): elements keyed 256 · row + column as gain and offset (unlisted: 1.0 and 0),
carries as value and valid bit (unlisted: 0, valid), GFLUSH, and the weight-buffer images. -/
structure ArraySt where
  acc : SMap (BitVec 32 × BitVec 80)
  carry : SMap (BitVec 80 × Bool)
  gflush : Bool
  images : List WImage
  /-- the accumulator elements, carries and weight slots that hold an uncorrectable error (R407), by `arrayPart` -/
  bad : List Nat
  deriving DecidableEq, Repr, Inhabited

/-- A number for part `i` of an array state's accumulators, carries or weight slots (kinds 0 to 2). -/
def arrayPart (kind i : Nat) : Nat := 2 ^ 16 * kind + i

/-- The header of a save image (R208), and the number of its opaque bytes. -/
structure SaveImage where
  version : Nat
  family : Nat
  flags : Nat
  length : Nat
  owner : Nat
  digest : Nat
  bytes : Nat
  deriving DecidableEq, Repr, Inhabited

/-- Where a completion is reported (R184 DONE, R142). -/
inductive Target where
  | token (t : Nat)
  | barrier (off : Nat)
  deriving DecidableEq, Repr, Inhabited

/-- What a record keeps of its instruction (R191): the values of the registers D, A and B (none for a
field of 0). -/
structure TKept where
  opc : Nat
  min : Nat
  regs : List (Option Nat)
  exp : Nat
  scope : Nat
  imm : Nat
  pc : Nat
  deriving DecidableEq, Repr, Inhabited

/-- An operation record (R192): `state` is 0 idle, 1 running, 2 done or 3 faulted; `bitmap` lists the
children that are done; `reports` are the reports of the run in progress; `reads` and `writes` are the
granules whose owner state the operation holds (R188); `at_` is the step at which it was handed over (R204). -/
structure TRec where
  state : Nat
  level : Nat
  nch : Nat
  bitmap : List Nat
  more : Nat
  gfl : Bool
  fault : Option TileReport
  kept : TKept
  op : TOp
  target : Target
  reports : List TileReport
  reads : List Nat
  writes : List Nat
  at_ : Nat
  deriving DecidableEq, Repr, Inhabited

/-- A tile operation that has passed its checks and waits for the lease (R191, R207). -/
structure TStart where
  rec_ : Nat
  fresh : Bool
  level : Nat
  nch : Nat
  op : TOp
  kept : TKept
  target : Target
  /-- the address of its plan's bytes (R198); 0 for none -/
  planAddr : Nat := 0
  reads : List Nat
  writes : List Nat
  deriving DecidableEq, Repr, Inhabited

/-- What an engine, a sequencer or a remote device works at (R141, R142, R197). -/
inductive JobKind where
  /-- ACP between 72-bit addresses -/
  | acp (token dst src count scope : Nat)
  /-- BPF of `count` bytes from a 72-bit address, none where R24 gives none -/
  | bpf (target : Target) (addr : Option Nat) (count : Nat)
  /-- child `index` of record `rec_`: `op` at `level` on executor `exec` (a core, a die, or a device's
  location, by level) -/
  | tile (rec_ index level exec : Nat) (op : TOp)
  /-- a tile child of another device (R197), served at level 3 -/
  | tileFor (m : Msg)
  /-- the other devices of a pod set are asked for a launch's reservation (R347) -/
  | reserve (launch : Nat)
  deriving DecidableEq, Repr

/-- Work in progress: its group, its start in %gtime, its requests to other devices, the bytes it has
read from them (keyed by 72-bit address), and whether its writes to them are under way. -/
structure Job where
  id : Nat
  who : GRef
  ctx : Nat
  kind : JobKind
  start : Nat
  reqs : List ReqOut
  data : BMap 8
  writing : Bool
  deriving DecidableEq, Repr

/-- The staging region and the launch array state of a launch on a core (R186, R205). `key` is the
launch, plus 2^32 · location for a launch of another device. -/
structure Stage where
  core : Nat
  key : Nat
  size : Nat
  mem : BMap 8
  arr : ArraySt
  deriving DecidableEq, Repr, Inhabited

/-- The lease of a core's array (R207): the holder, the array commands of its tenure, its grant in clk,
and the groups that ask, in order. -/
structure Lease where
  holder : Option GRef
  count : Nat
  since : Nat
  asks : List GRef
  deriving DecidableEq, Repr, Inhabited

/-- One lane's atomic at its performing point (R145): a fetch-and-operate with `opc`, or a
compare-and-swap of `x` against `cmp`. -/
structure AtomicOp where
  lane : Nat
  spans : List Span
  size : Nat
  opc : Nat
  x : Nat
  cmp : Option Nat
  deriving DecidableEq, Repr

/-- What the group's current instruction has begun and waits for. -/
inductive Pend where
  | idle
  /-- parked on the shelf (R152); the status once woken -/
  | shelf (status : Option Bool)
  /-- requests sent to other devices: `checking` before the accesses, then the accesses; `done` keeps
  the far pointers that were read before -/
  | remote (checking : Bool) (reqs : List ReqOut) (done : List (Nat × Nat))
  /-- far pointers read from other devices (R139), before their targets are accessed -/
  | pointers (vals : List (Nat × Nat))
  /-- lanes that joined ordered sets (R146): an old word, or FAORT -/
  | faor (lanes : List (Nat × Option (Option Nat)))
  /-- the number of the DET wave of an atomic that waits (R33), its operations, and its results once
  the wave is released -/
  | wave (k : Nat) (ops : List AtomicOp) (results : Option (List (Nat × Nat)))
  /-- a runtime service for a fault that the program does not see (R29, R328) -/
  | service (t : Trap) (refused : Option Bool)
  /-- SVC SLEEP until the given %gtime (R174); `true` once it has passed -/
  | sleep (until_ : Nat) (passed : Bool)
  /-- SVC PRIVSIZE waits for growth to the given bytes per lane (R174) -/
  | privsize (bytes : Nat) (refused : Option Bool)
  /-- the replay log is being extended (R396) -/
  | log (answered : Bool)
  /-- a fault whose trap frames are being written, with its address; `true` once private growth for
  them was refused (R171) -/
  | deliver (t : Trap) (pc : Nat) (refused : Bool)
  /-- a tile operation at its issue: requests that check remote ranges, and whether its owner states
  have been moved while it waits for the lease (R191, R207) -/
  | tile (t : TStart) (reqs : List ReqOut) (moved : Bool)
  /-- a translation or a binding is awaited since the given %gtime (R266, R267, R282) -/
  | xlate (va : Nat) (since : Nat)
  deriving DecidableEq, Repr

/-- A fault held against a group (R141, R154, R162, R164, R180, R193). Raising it lowers its token
when `release` holds. -/
structure Held where
  token : Option Nat
  send : Bool
  release : Bool
  trap : Trap
  deriving DecidableEq, Repr

/-- An outstanding SEND (R180, R380). -/
structure SendOut where
  index : Nat
  loc : Nat
  queue : Nat
  value : BitVec 64
  pc : Nat
  retryAt : Nat
  deadline : Nat
  deriving DecidableEq, Repr

/-- One entry of the format table (R57). -/
structure FmtEntry where
  anchor : Int
  scale : Nat
  outf : Nat
  bf : Nat
  af : Nat
  deriving DecidableEq, Repr, Inhabited

/-- A register as operands name it (R68). -/
inductive RName where
  | v (i : Nat)
  | s (i : Nat)
  | k (i : Nat)
  | n (i : Nat)
  | lc (i : Nat)
  deriving DecidableEq, Repr

/-- The claim of a long-latency instruction that its next `left` instructions do not read its destinations, in the
procedure of translation `tid` (R74). -/
structure Claim where
  left : Nat
  tid : Nat
  dests : List RName
  deriving DecidableEq, Repr

/-- An operation that some lanes have issued in the region: its major, and whether they took its branch. -/
structure Turn where
  lanes : List Nat
  op : Nat
  took : Bool
  deriving DecidableEq, Repr

/-- A READ whose view is being built (R388): the request, the operations of the discarded region that the companion has
yet to issue, and how many instructions without an operation of their own it may still pass. -/
structure View where
  req : DbgReq
  trail : List Turn
  left : Nat
  deriving DecidableEq, Repr

/-- The debug state of a group (R384 to R389). `skipBp` is the address at which a breakpoint does not fire at the next
issue, `stepping` the context and RESULT of a STEP, `stopAt` those of STOPs that wait for the group's save, and `viewing`
a READ that the companion builds. -/
structure Dbg where
  bp : BMap 64
  wpStart : BMap 64
  wpCtl : BMap 64
  stopped : Bool
  cause : Nat
  skipBp : Option Nat
  stepping : Option (Nat × Nat)
  stopAt : List (Nat × Nat)
  viewing : Option View
  viewed : Bool
  deriving DecidableEq, Repr, Inhabited

/-- What a group is part of, and where it runs (R8, R9, R20). -/
structure Place where
  id : GRef
  ctx : Nat
  core : Nat
  part : Nat
  slot : Nat
  priority : Nat
  deriving DecidableEq, Repr, Inhabited

/-- What the kernel descriptor and the launch fix for a group (R15, R21, R26, R29, R171). -/
structure Setup where
  det : Bool
  lchk : Bool
  xchk : Bool
  super : Bool
  trapEntry : Option Nat
  entry : Nat
  kdesc : Nat
  pbase : Nat
  scratch : Nat
  deriving DecidableEq, Repr, Inhabited

/-- DET wave counting (R33): executed wave atomics, and the barrier objects and phases of the
group's arrivals that no BARW has returned for. -/
structure Det where
  count : Nat
  baras : List (Nat × Nat)
  deriving DecidableEq, Repr, Inhabited

/-! ### Native code (R241 to R261) -/

/-- A place that a native result goes to: an entry of a vector cluster (0 or 1) in a lane, a scalar
entry, a bit of a predicate register, a location register, or a loop register. -/
inductive NPlace where
  | vec (cluster index lane : Nat)
  | sca (index : Nat)
  | pred (index lane : Nat)
  | loc (index : Nat)
  | lc (index : Nat)
  deriving DecidableEq, Repr

/-- A native result in flight (R250, R251): the position at which it is seen, the order of its issue, and
whether its data is still missing (R252). -/
structure Flight where
  due : Nat
  seq : Nat
  place : NPlace
  value : Nat
  missing : Bool
  deriving DecidableEq, Repr

/-- A gated store (R256): the store as its virtual form states it, with the registers it read, its virtual address
(R259), and what it had begun, at another device, when its address had been checked. -/
structure GateEntry where
  op : Instr
  r : Regs
  vpc : Nat
  pend : Pend
  kept : Option (List Where)
  deriving DecidableEq, Repr

/-- The issue of a bundle that has stopped before a slot whose operation waits (R252): the slot (1 S, 2 V0, 3 V1,
4 M), the bundle's index and lanes, and the registers as they stood before the bundle. -/
structure Issue where
  slot : Nat
  index : Nat
  lanes : List Nat
  before : Regs
  deriving DecidableEq, Repr

/-- A collation entry (R257): the lowest and highest 72-bit address that a hoisted load reads, and its hoist
site. -/
structure CollEntry where
  lo : Nat
  hi : Nat
  site : Nat
  deriving DecidableEq, Repr

/-- The checkpoint of a commit point (R255), with the lanes' bundle addresses. -/
structure Check where
  k : BMap 32
  n : BMap 15
  lc : BMap 32
  fmtbase : BitVec 32
  lchk : Bool
  fmt : List FmtEntry
  fmtN : Nat
  npc : NMap
  seq : Nat
  deriving DecidableEq, Repr, Inhabited

/-- The native execution of a group (R243 to R261): whether it runs bundles and of which translation,
its position in bundles, the lanes' bundle indices, the cluster and scalar files, the index-base
registers and their pending writes (position, key, value), in-flight results, gate, collation table,
checkpoint, and the row of the region. `home` is the entry address of its translation, `word0` a long
operation's first word, `mid` the bundle whose issue waits and `draining` whether its gate is being drained; `late`
holds the faults of drained stores with their virtual addresses and the positions at which they came (R259);
`checking` is the virtual address at which a comparison failed (R260), and `hold` that the companion has yet to issue
before the group may rejoin. `trail` lists the operations that the region has issued, by which the virtual address that
a lane has reached is found (R259, R261, R391). -/
structure Native where
  on : Bool
  tid : Nat
  home : Nat
  mid : Option Issue
  draining : Bool
  late : List (Trap × Nat × Nat)
  pos : Nat
  seq : Nat
  npc : NMap
  va : BMap 32
  vb : BMap 32
  sn : BMap 64
  ib : NMap
  ibPend : List (Nat × Nat × Nat)
  flight : List Flight
  gate : List GateEntry
  coll : List CollEntry
  check : Check
  row : Nat
  word0 : Option (BitVec 64)
  checking : Option Nat
  hold : Bool
  trail : List Turn
  deriving DecidableEq, Repr, Inhabited

/-- One group (R8): its registers, what it waits for, and what it has outstanding. `frozen` holds from the
start of its save or flush until it resumes (R354, R356). `kept` holds the places of the current instruction's accesses,
once their checks have passed and it waits (R131, R334). `priv` holds the private bytes of its lanes by their offset in
the private region, which only they observe (R28, R221), and `privPoison` those that hold poison (R408). -/
structure Group where
  present : Bool
  ended : Bool
  p : Place
  u : Setup
  r : Regs
  stall : Stall
  pend : Pend
  held : List Held
  sends : List SendOut
  qbind : NMap
  fmt : List FmtEntry
  fmtN : Nat
  inHandler : Bool
  icinvs : List Nat
  recs : SMap TRec
  arr : ArraySt
  privBytes : Nat
  det : Det
  yielded : Bool
  lastIssue : Nat
  logged : Nat
  sendSeq : Nat
  dbg : Dbg
  issuedAt : Nat
  asksLease : Bool
  frozen : Bool
  nat : Native
  claims : List Claim
  /-- register entries that hold an uncorrectable error (R407, R408): a register, and its lane where it is a vector -/
  badRegs : List (RName × Nat)
  kept : Option (List Where)
  priv : BMap 8
  privPoison : BMap 1
  image : Option SaveImage
  /-- the address of the EXIT that ended the group (R391) -/
  lastExit : Nat
  /-- the address and the words of an instruction that the group has begun and that waits (R132, R175) -/
  begun : Option (Nat × List Word64)
  deriving DecidableEq, Repr

/-- Owner state of a granule (R317): T, E, or S with its reader count. -/
inductive Owner where
  | t | e | s (readers : Nat)
  deriving DecidableEq, Repr, Inhabited

/-- The replay log of a block (R396): where it lies, its room and use in entries, whether logging has
stopped, and whether the block replays it. -/
structure RLog where
  base : Nat
  cap : Nat
  used : Nat
  off : Bool
  replay : Bool
  deriving DecidableEq, Repr

/-- A block on a core (R10, R314): its scratchpad allocation, the bytes of it that hold poison (R408), its owner entries, the groups that have
arrived at each barrier object in its current phase, the resetting phases (R33), and its log. -/
structure Block where
  launch : Nat
  block : Nat
  scratch : BMap 8
  poison : BMap 1
  owner : SMap Owner
  arrivals : List (Nat × Nat)
  resets : List (Nat × Nat)
  log : Option RLog
  deriving DecidableEq, Repr

/-- A context (R325, R20, R36, R178, R290, R397): its tables and what the runtime holds for it; `loader`, `dbgRing` and
`profRing` are the local addresses of the control blocks of its loader, debug and profiler rings; `dumped` is the code of
an ABORT, `dumpBy` the group whose fault or ABORT ends the process, and `dumping` holds while its core dump is taken;
`started` holds once an object of it has been loaded. -/
structure Ctx where
  id : Nat
  live : Bool
  root : Option Nat
  capbase : Nat
  debugged : Bool
  nonresident : List Nat
  rxMask : Nat
  dumped : Option (BitVec 64)
  dumpBy : Option GRef
  dumping : Bool
  started : Bool
  hintMismatch : Nat
  fabricEvents : Nat
  nativeDropped : Nat
  bindNext : Nat
  handleNext : Nat
  loader : Nat
  dbgRing : Nat
  profRing : Nat
  dumpTo : Option Nat
  /-- the frames that the runtime has taken for it (R291) -/
  frames : Nat
  deriving DecidableEq, Repr, Inhabited

/-- A receive queue (R178): the context it is allotted to, and its entries. -/
structure RxQueue where
  ctx : Option Nat
  entries : List (BitVec 64)
  deriving DecidableEq, Repr, Inhabited

/-- A hold-shelf entry (R152, R324, R337). `who` is none for a desk's watch. -/
structure ShelfEntry where
  slice : Nat
  pa : Nat
  size : Nat
  code : Nat
  comparand : Nat
  ctx : Nat
  who : Option GRef
  deadline : Option Nat
  wake : Option Instr
  deriving DecidableEq, Repr

/-- A member of an ordered set: its LRID, operand, group and lane; a member of another device has
its message instead (R146, R372). -/
structure SetMember where
  lrid : Nat
  operand : Nat
  who : GRef
  lane : Nat
  msg : Option Msg
  deriving DecidableEq, Repr

/-- A member that waits to join a set (R146, R147): a second request of one LRID, or a slice whose
records are all in use. -/
structure SetJoin where
  pa : Nat
  size : Nat
  opc : Nat
  p : Nat
  member : SetMember
  since : Nat
  deriving DecidableEq, Repr

/-- An FAOR request of another device that this device's home slices hold (R372). -/
structure FaorIn where
  msg : Msg
  results : List (Nat × Option Nat)
  deriving DecidableEq, Repr

/-- An open ordered set (R146). -/
structure OrderedSet where
  slice : Nat
  pa : Nat
  size : Nat
  opc : Nat
  p : Nat
  members : List SetMember
  deadline : Nat
  deriving DecidableEq, Repr

/-- A kernel descriptor (R278). -/
structure KDesc where
  entry : Nat
  trap : Nat
  planbase : Nat
  circbase : Nat
  scratch : Nat
  priv : Nat
  stage : Nat
  groups : Nat
  modes : Nat
  nplan : Nat
  ncirc : Nat
  kver : Nat
  name : Nat
  rsvd : Nat
  deriving DecidableEq, Repr, Inhabited

/-- Where a block of a launch stands (R348, R352 to R356). -/
inductive BStat where
  | unplaced
  | running (core : Nat) (since : Nat)
  | saved
  | ended
  deriving DecidableEq, Repr, Inhabited

/-- A pre-emption in progress (R352, R353): a drain with the %gtime of its bound, a save or a flush. -/
inductive Preempt where
  | none
  | drain (by_ : Nat)
  | save
  | flush
  deriving DecidableEq, Repr, Inhabited

/-- A block of a launch that has been placed: its state, its pre-emption and the launches that the desk
requested it for, the ns that its runs have taken, their energy in µJ, and the frames of its save area (R354). -/
structure BlockRun where
  index : Nat
  stat : BStat
  preempt : Preempt
  victimOf : List Nat
  ran : Nat
  energy : Nat
  area : List Nat
  deriving DecidableEq, Repr, Inhabited

/-- What a desk has learned of a kernel descriptor (R346, R353): completed blocks, their energy in µJ
and their run time in ns. -/
structure Learned where
  ctx : Nat
  kaddr : Nat
  blocks : Nat
  energy : Nat
  time : Nat
  deriving DecidableEq, Repr, Inhabited

/-- A reservation (R347): the dies in order, and their cores. -/
structure Reservation where
  dies : List Nat
  cores : List Nat
  set_ : Nat
  deriving DecidableEq, Repr, Inhabited

/-- A launch (R339 to R349). Blocks from `next` on have never been placed. -/
structure Launch where
  id : Nat
  ctx : Nat
  queue : Nat
  die : Nat
  priority : Nat
  kaddr : Nat
  k : KDesc
  affbase : Nat
  affstride : Int
  count : Nat
  det : Bool
  lchk : Bool
  xchk : Bool
  idem : Bool
  eclass : Nat
  rlvl : Nat
  rcores : Nat
  rdies : Nat
  rset : Nat
  pbound : Nat
  ckind : Nat
  carg : Nat
  caddr : Nat
  deps : List (Nat × Nat)
  ready : Bool
  readySince : Nat
  /-- the blocks that wait for a near core, and since when (R348) -/
  waitSince : List (Nat × Nat)
  unfit : Option Nat
  next : Nat
  runs : List BlockRun
  ended : Nat
  res : Option Reservation
  complete : Bool
  logBase : Nat
  logCap : Nat
  /-- ended blocks that run again with their logs (R396) -/
  replays : List Nat
  deriving DecidableEq, Repr

/-- The log of a block that has ended, with its launch (R396). -/
structure OldLog where
  l : Launch
  block : Nat
  log : RLog
  deriving DecidableEq, Repr

/-- One trace record (R392). -/
structure TraceRec where
  type : Nat
  core : Nat
  part : Nat
  slot : Nat
  group : Nat
  block : Nat
  seq : Nat
  time : Nat
  payload : Nat
  deriving DecidableEq, Repr

/-- What the profiler service holds for a context (R390, R394). -/
structure ProfCfg where
  period : Nat
  types : Nat
  filter : Nat
  port : Bool
  deriving DecidableEq, Repr, Inhabited

/-- The trace port and the profiler service (R390 to R395). `totals` is keyed by 5 · core
+ class; `cursor` and `sampled` by 8 · core + partition, with the next slot and the last sampling period;
`arrayEnd`, `arrayNba` and `arrayBy` by core, with the clk up to which array clk are accounted, and the bundle
and the group that NOCMD is charged to. -/
structure Trace where
  cfg : SMap ProfCfg
  buf : List TraceRec
  seqs : NMap
  lost : Nat
  lostAt : Nat
  totals : NMap
  cursor : NMap
  sampled : NMap
  arrayEnd : NMap
  arrayNba : NMap
  arrayBy : SMap Place
  port : List TraceRec
  deriving DecidableEq, Repr

/-- A core's own state (R20, R358, R359): its power state 0 to 2, when a wake ends, the clk at its
power-up, and since when it has been idle. -/
structure CoreSt where
  power : Nat
  wakeAt : Option Nat
  clk0 : Nat
  idleSince : Nat
  deriving DecidableEq, Repr, Inhabited

/-- An ICINV that has issued and not completed (R175). -/
structure Icinv where
  id : Nat
  who : GRef
  ctx : Nat
  start : Nat
  len : Nat
  deriving DecidableEq, Repr

/-- An entry of a wait buffer (R370, R371): its port and number, when it was taken, the destination and
class of the combined request, the hop of its tag, the members, and the first member's operand. -/
structure WaitEntry where
  port : Nat
  entry : Nat
  since : Nat
  dst : Nat
  cls : Nat
  hop : Nat
  first : Msg
  second : Msg
  v1 : Nat
  deriving DecidableEq, Repr, Inhabited

/-- An element of the fabric (R361, R362): its tables (keyed 64 · table + index), its ports that are up,
its output queues (keyed 4 · port + virtual channel, R366), and its wait buffer. -/
structure Elem where
  tables : NMap
  up : Nat
  queues : SMap (List Msg)
  waits : List WaitEntry
  deriving DecidableEq, Repr, Inhabited

/-- One link of this device (R373 to R376, R404). `sealed` counts the flits of the transmit slots (0, 1), of the receive
slots (2, 3), and of the NULL flits among them (4 to 7); `part` holds the flits of a message not yet whole, by channel;
`peer`, `secret` and `gen` are the hubs' SPDM session; `owes` holds while received flits are unacknowledged; `txNext` and
`rxNext` are keys that wait for a free slot. -/
structure Link where
  up : Bool
  training : Bool
  expect : Nat
  nacked : Bool
  fails : Nat
  seqNext : Nat
  acked : Nat
  replay : List Flit
  waiting : List Flit
  wire : List Flit
  lnakSeq : Nat
  lnakRun : Nat
  errors : Nat
  replayed : Nat
  secEvents : Nat
  encrypt : Bool
  kid : Nat
  txKeys : NMap
  rxKeys : NMap
  sealed : NMap
  part : SMap (List Flit)
  peer : Option Peer
  secret : Nat
  gen : Nat
  owes : Bool
  trainAt : Nat
  txNext : List Nat
  rxNext : List Nat
  deriving DecidableEq, Repr, Inhabited

/-- The fabric as this device sees it (R361 to R382): element 0 is this device. -/
structure Fabric where
  tag : Nat
  out : List Msg
  elems : SMap Elem
  links : SMap Link
  wires : List ((Nat × Nat) × (Nat × Nat))
  deriving DecidableEq, Repr

/-! ### Queues and desks (R335 to R347) -/

/-- A desk's copy of a device queue's runtime fields (R336), and the queue's enqueue aperture (R338). -/
structure DQueue where
  ctx : Option Nat
  enable : Bool
  hosten : Bool
  rejects : Nat
  errcode : Nat
  accepted : Nat
  buf : BMap 8
  status : Nat
  deriving DecidableEq, Repr, Inhabited

/-- A die (R346, R358, R408): its power state 0 or 3, its wake, since when it may sleep, whether it is off,
its budget in units of 1/16000 µJ as it stood at a %gtime, and the launches for which it is kept free of those of lower priority. -/
structure DieSt where
  power : Nat
  wakeAt : Option Nat
  since : Nat
  off : Bool
  energy : Nat
  at_ : Nat
  starved : List Nat
  deriving DecidableEq, Repr, Inhabited

/-! ### Objects (R274 to R293) -/

/-- A symbol that an object defines in the scope: its name, value and whether it is global. -/
structure ScopeSym where
  name : List Nat
  value : Nat
  strong : Bool
  deriving DecidableEq, Repr, Inhabited

/-- A GOT slot: its local address, its symbol's name, and its binding index. -/
structure GotSlot where
  addr : Nat
  name : List Nat
  index : Option Nat
  deriving DecidableEq, Repr, Inhabited

/-- A loaded object (R292): its mapped ranges, its .text range, definitions, slots and descriptors, and the features
that its .caps section names (R277). -/
structure LObject where
  ctx : Nat
  handle : Nat
  base : Nat
  ranges : List (Nat × Nat)
  text : Nat × Nat
  defs : List ScopeSym
  slots : List GotSlot
  kdescs : List Nat
  caps : List Nat
  deriving DecidableEq, Repr, Inhabited

/-! ### Profiles and replaced translations (R271) -/

/-- The profile of a translation: entries and clk in the window, the window's start, aborts by hoist site,
rolled-back faults by bundle, lookahead misses (R74), and the hoist sites that its next translation must not have. -/
structure Profile where
  entries : Nat
  clk : Nat
  window : Nat
  aborts : NMap
  faults : NMap
  misses : Nat
  unhoist : List Nat
  deriving DecidableEq, Repr, Inhabited

/-- A replaced translation and the blocks launched before its replacement. -/
structure OldXlat where
  t : Translation
  blocks : List (Nat × Nat)
  deriving DecidableEq, Repr

/-! ### Boot, attestation and management (R400 to R412) -/

/-- What the device last answered to an SPDM request (R403). -/
inductive SpdmAnswer where
  | nothing
  | versions (l : List Nat)
  | capabilities (l : List String)
  | algorithms (l : List SpdmAlg)
  | digests (l : List (Nat × Nat))
  | certificate (l : List Nat)
  | challengeAuth (digests : List (Nat × Nat)) (signature : Nat)
  | measurements (l : List (Nat × Nat)) (signature : Nat)
  | keyExchange (session signature : Nat)
  | accepted
  | refused
  deriving DecidableEq, Repr

/-- An SPDM session: its identifier, shared secret, key generation, whether it is finished, and the secured messages
received and sent in it. -/
structure Session where
  id : Nat
  secret : Nat
  gen : Nat
  done : Bool
  seq : Nat
  sent : Nat
  deriving DecidableEq, Repr

/-- Boot and security state: the stage reached, the stage that failed, recovery, the fused anti-rollback
count, the keys that stage 1 lists, measurement slots, the translation key, the trust-domain list, the
algorithms negotiated, sessions and the last answer. -/
structure Boot where
  stage : Nat
  failing : Nat
  recovery : Bool
  svn : Nat
  keys : List Nat
  slots : NMap
  tkey : Nat
  domain : List Nat
  negotiated : List SpdmAlg
  sessions : List Session
  answer : SpdmAnswer
  /-- the AEAD tag of an answer in a session, and the messages that every transcript begins with (R403) -/
  answerMac : Option Nat
  transcript : List Nat
  deriving DecidableEq, Repr

/-- The host side of the device (R237, R338, R411): the bytes of the last host read, and the accesses that
wait for a wake, a write of MBOX among them; the management registers. -/
structure HostSide where
  read : List Nat
  waits : List Instr
  pcap : Nat
  temps : NMap
  mbox : BitVec 64
  mboxWait : Option (BitVec 64)
  linkPolicy : Nat
  linksAtBoot : Nat
  deriving DecidableEq, Repr

/-- A range of this device that an engine operation of another device has had checked and holds pinned (R319,
R333), or that accesses of an instruction of another device have had checked (R334), and how many of its bytes are still
to be accessed. `mark` is 0 for an engine's, and else names the instruction (log entry 59). -/
structure Pin where
  src : Nat
  who : GRef
  ctx : Nat
  addr : Nat
  len : Nat
  left : Nat
  mark : Nat
  deriving DecidableEq, Repr

/-- A request of another device, or a job of an engine, that waits here until the runtime has brought back the page of its
context that it needs (R328, R333): the requesting group, the page, and the request. -/
structure PageWait where
  who : GRef
  ctx : Nat
  page : Nat
  req : Instr
  trap : Trap
  msg : Msg
  /-- what a refusal of the page brings: a step of this device, or an answer -/
  refusal : Option Instr
  answer : Msg
  /-- the job that waits -/
  job : Option Nat
  /-- the request waits only for an earlier one of its source and class (R366) -/
  behind : Bool
  deriving DecidableEq, Repr

/-- The whole machine. `poison` marks the bytes of memory whose data is poisoned (R408). -/
structure State where
  tick : Nat
  clk : Nat
  gtime : Nat
  free : Nat
  devloc : BitVec 15
  mem : BMap 8
  poison : BMap 1
  g : Group
  others : List Group
  blocks : List Block
  ctxs : List Ctx
  rxq : SMap RxQueue
  shelf : List ShelfEntry
  sets : List OrderedSet
  joins : List SetJoin
  faorIn : List FaorIn
  fab : Fabric
  launches : List Launch
  oldLogs : List OldLog
  learned : List Learned
  trace : Trace
  cores : SMap CoreSt
  xlats : List Translation
  icinvs : List Icinv
  icinvNext : Nat
  jobs : List Job
  jobNext : Nat
  stages : List Stage
  leases : SMap Lease
  execQ : SMap (List (GRef × Nat))
  podSets : SMap (List Nat)
  podRes : SMap Reservation
  queues : SMap DQueue
  queueTable : Nat
  wants : List (Nat × Instr)
  launchNext : Nat
  routers : SMap (List Nat)
  plans : NMap
  dies : SMap DieSt
  devPower : Nat
  devWakeAt : Option Nat
  devSince : Nat
  objects : List LObject
  frames : Nat
  freed : Nat
  unmaps : List (Nat × Nat × Nat)
  mapWaits : List Instr
  pins : List Pin
  pageWaits : List PageWait
  profiles : SMap Profile
  olds : List OldXlat
  boot : Boot
  host : HostSide
  relcount : Nat
  agenda : List Instr
  deriving DecidableEq, Repr

/-! ### Reset -/

def Regs.reset : Regs :=
  { pcv := [], v := [], s := [], k := [], n := [], tok := [], lc := [], fmtbase := 0,
    faultcause := 0, faultva := 0, faultpc := 0, faultaux := 0, xctx := 0 }

/-- A new array state (R205). -/
def ArraySt.new : ArraySt := { acc := [], carry := [], gflush := false, images := [], bad := [] }

def Dbg.reset : Dbg :=
  { bp := [], wpStart := [], wpCtl := [], stopped := false, cause := 0, skipBp := none,
    stepping := none, stopAt := [], viewing := none, viewed := false }

def Setup.reset : Setup :=
  { det := false, lchk := false, xchk := false, super := false, trapEntry := none, entry := 0,
    kdesc := 0, pbase := 0, scratch := 0 }

/-- The registers of a group as it begins (R14), for a group that is not there. DESIGN CHOICE (log entry 60): the
loop-counter number of its empty format table is 0 (R57 gives only the count). -/
def Group.reset : Group :=
  { present := false, ended := false,
    p := { id := { launch := 0, block := 0, group := 0 }, ctx := 0, core := 0, part := 0, slot := 0,
           priority := 0 },
    u := Setup.reset, r := Regs.reset, stall := .none, pend := .idle, held := [], sends := [],
    qbind := [], fmt := [], fmtN := 0, inHandler := false, icinvs := [], recs := [], arr := ArraySt.new, privBytes := 0,
    det := { count := 0, baras := [] }, yielded := false, lastIssue := 0, logged := 0, sendSeq := 0,
    dbg := Dbg.reset, issuedAt := 0, asksLease := false, frozen := false, nat := default, claims := [], badRegs := [], kept := none,
    priv := [], privPoison := [], image := none, lastExit := 0, begun := none }

/-- A die's state at power-up and after reset: its budget is full, 1 ms of refill at 425 W (R346). -/
def DieSt.full : DieSt := { (default : DieSt) with energy := 6800000000 }

/-- The machine right after reset: nothing resident, nothing loaded, budgets full (R14, R335, R346, R400). -/
def State.reset : State :=
  { tick := 0, clk := 0, gtime := 0, free := 0, devloc := 0x4000, mem := [], poison := [], g := Group.reset,
    others := [], blocks := [], ctxs := [], rxq := [], shelf := [], sets := [], joins := [],
    faorIn := [], fab := { tag := 0, out := [], elems := [], links := [], wires := [] }, launches := [], oldLogs := [], learned := [],
    trace := { cfg := [], buf := [], seqs := [], lost := 0, lostAt := 0, totals := [], cursor := [], sampled := [], arrayEnd := [], arrayNba := [], arrayBy := [], port := [] },
    cores := [], xlats := [], icinvs := [], icinvNext := 0, jobs := [], jobNext := 0, stages := [], leases := [],
    execQ := [], podSets := [], podRes := [],
    queues := [(0, { (default : DQueue) with ctx := some 0 })], queueTable := 0, wants := [], launchNext := 0, routers := [], plans := [],
    dies := (List.range 4).map fun d => (d, DieSt.full),
    devPower := 0, devWakeAt := none, devSince := 0, objects := [], frames := 0, freed := 0, unmaps := [], mapWaits := [], pins := [], pageWaits := [],
    profiles := [], olds := [],
    boot := { stage := 0, failing := 0, recovery := false, svn := 0, keys := [], slots := [], tkey := 0,
              domain := [], negotiated := [], sessions := [], answer := .nothing, answerMac := none, transcript := [] },
    host := { read := [], waits := [], pcap := 1900, temps := [], mbox := 0, mboxWait := none, linkPolicy := 0, linksAtBoot := 0 },
    relcount := 0, agenda := [] }

end Sys2Proof.Machine
end

