-- ==== Sys2Proof/Machine/Regs.lean ====
section
/-! DEFINITION. The registers of a group: one read and one write for each class, with the hard-wired
registers (R14), program counters (R11, R13), the guard (R66) and the placement of values (R38). -/

namespace Sys2Proof.Machine

/-- The 32 lanes of a group, ascending. -/
def lanes : List Nat := List.range 32

/-- s0 reads 0 (R14). -/
def Regs.getS (r : Regs) (i : Nat) : BitVec 64 := if i = 0 then 0 else BMap.get r.s i

/-- Writes to s0 are discarded (R14). -/
def Regs.setS (r : Regs) (i : Nat) (v : BitVec 64) : Regs :=
  if i = 0 then r else { r with s := BMap.set r.s i v }

/-- k0 reads all ones (R14). -/
def Regs.getK (r : Regs) (i : Nat) : BitVec 32 :=
  if i = 0 then BitVec.allOnes 32 else BMap.get r.k i

def Regs.setK (r : Regs) (i : Nat) (v : BitVec 32) : Regs :=
  if i = 0 then r else { r with k := BMap.set r.k i v }

/-- n0 reads 0 (R14). -/
def Regs.getN (r : Regs) (i : Nat) : BitVec 15 := if i = 0 then 0 else BMap.get r.n i

def Regs.setN (r : Regs) (i : Nat) (v : BitVec 15) : Regs :=
  if i = 0 then r else { r with n := BMap.set r.n i v }

def Regs.getV (r : Regs) (reg lane : Nat) : BitVec 32 := BMap.get r.v (32 * reg + lane)

def Regs.setV (r : Regs) (reg lane : Nat) (v : BitVec 32) : Regs :=
  { r with v := BMap.set r.v (32 * reg + lane) v }

/-- A 64-bit value of an even/odd pair, low half in the even register (R14). -/
def Regs.getV64 (r : Regs) (reg lane : Nat) : BitVec 64 :=
  r.getV (reg + 1) lane ++ r.getV reg lane

def Regs.setV64 (r : Regs) (reg lane : Nat) (v : BitVec 64) : Regs :=
  (r.setV reg lane (v.extractLsb' 0 32)).setV (reg + 1) lane (v.extractLsb' 32 32)

def Regs.getTok (r : Regs) (i : Nat) : Nat := (BMap.get r.tok i).toNat

def Regs.setTok (r : Regs) (i n : Nat) : Regs :=
  { r with tok := BMap.set r.tok i (BitVec.ofNat 4 n) }

def Regs.getLc (r : Regs) (i : Nat) : BitVec 32 := BMap.get r.lc i

def Regs.setLc (r : Regs) (i : Nat) (v : BitVec 32) : Regs := { r with lc := BMap.set r.lc i v }

/-! ### Program counters (R11, R13) -/

def Regs.getPcv (r : Regs) (lane : Nat) : BitVec 64 := BMap.get r.pcv lane

def Regs.setPcv (r : Regs) (lane : Nat) (v : BitVec 64) : Regs :=
  { r with pcv := BMap.set r.pcv lane v }

/-- Whether a lane has executed EXIT. -/
def Regs.exited (r : Regs) (lane : Nat) : Bool := (r.getPcv lane).getLsbD 63

/-- The address in a lane's pcv. -/
def Regs.pc (r : Regs) (lane : Nat) : Nat := (r.getPcv lane).toNat % 2 ^ 57

def Regs.setPc (r : Regs) (lane a : Nat) : Regs := r.setPcv lane (BitVec.ofNat 64 (a % 2 ^ 57))

def Regs.live (r : Regs) : List Nat := lanes.filter fun l => !r.exited l

/-- The least of a list of numbers. -/
def leastOf : List Nat → Option Nat
  | [] => none
  | a :: t => match leastOf t with
    | none => some a
    | some b => some (min a b)

/-- The issue address: the least program counter of the live lanes (R11). -/
def Regs.issueAddr (r : Regs) : Option Nat := leastOf (r.live.map r.pc)

/-- The lanes that take part in the next issue (R11). -/
def Regs.taking (r : Regs) : List Nat :=
  match r.issueAddr with
  | none => []
  | some a => r.live.filter fun l => r.pc l == a

/-- R66: whether a lane's guard is true: G[54:52] names kP and G[55] inverts it. -/
def Regs.guard (r : Regs) (g : BitVec 4) (lane : Nat) : Bool :=
  (r.getK (g.toNat % 8)).getLsbD lane != g.getLsbD 3

/-- The active lanes (R11, R66), ascending. -/
def Regs.active (r : Regs) (g : BitVec 4) : List Nat := r.taking.filter (r.guard g)

/-- Advances the lanes given to an address. -/
def Regs.moveTo (r : Regs) (ls : List Nat) (a : Nat) : Regs :=
  ls.foldl (fun r l => r.setPc l a) r

/-- Advances every taking-part lane to the successor (R11, R64). -/
def Regs.advance (r : Regs) (len : Nat) : Regs :=
  match r.issueAddr with
  | none => r
  | some a => r.moveTo r.taking (a + len)

/-! ### Values in registers (R38) -/

/-- Whether a type's vector fields are pairs (R92, R117). -/
def wideTy (t : Nat) : Bool := t == 6 || t == 7 || t == 11 || t == 14

/-- Bits of an element type in a register; A stands for A64. -/
def tyWidth (t : Nat) : Nat :=
  match t with
  | 0 | 1 | 12 => 8
  | 2 | 3 | 8 | 9 => 16
  | 13 => 6
  | 6 | 7 | 11 | 14 => 64
  | _ => 32

/-- R38: a value of `n` bits extended to `w` bits, sign-extended for I types. -/
def extendTo (w t c : Nat) : Nat :=
  let n := tyWidth t
  let c := c % 2 ^ n
  if (t == 0 || t == 2 || t == 4 || t == 6) && decide (2 ^ (n - 1) ≤ c) && decide (n < w)
  then c + (2 ^ w - 2 ^ n) else c

/-- A lane's element of a type, as its low bits (R38). -/
def Regs.elem (r : Regs) (t reg lane : Nat) : Nat :=
  if wideTy t then (r.getV64 reg lane).toNat else (r.getV reg lane).toNat % 2 ^ tyWidth t

/-- Writes a lane's element, extended to 32 bits when it is narrower (R38). -/
def Regs.setElem (r : Regs) (t reg lane c : Nat) : Regs :=
  if wideTy t then r.setV64 reg lane (BitVec.ofNat 64 c)
  else r.setV reg lane (BitVec.ofNat 32 (extendTo 32 t c))

/-- Writes elements to the lanes given. -/
def Regs.setElems (r : Regs) (t reg : Nat) (l : List (Nat × Nat)) : Regs :=
  l.foldl (fun r x => r.setElem t reg x.1 x.2) r

/-- Sets one bit of a predicate register; k0 keeps its value. -/
def Regs.setKBit (r : Regs) (i lane : Nat) (b : Bool) : Regs :=
  let m : BitVec 32 := BitVec.ofNat 32 (2 ^ lane)
  r.setK i (if b then r.getK i ||| m else r.getK i &&& ~~~m)

def Regs.setKBits (r : Regs) (i : Nat) (l : List (Nat × Bool)) : Regs :=
  l.foldl (fun r x => r.setKBit i x.1 x.2) r

/-- The mask of a list of lanes. -/
def maskOf (l : List Nat) : Nat := l.foldl (fun m x => m ||| 2 ^ x) 0

/-! ### Groups, blocks and contexts -/

/-- Changes the focus group's registers. -/
def State.mapR (s : State) (f : Regs → Regs) : State := { s with g := { s.g with r := f s.g.r } }

/-- Applies a change to the group of a name, in focus or not. -/
def State.updGroup (s : State) (who : GRef) (f : Group → Group) : State :=
  if s.g.p.id = who ∧ s.g.present then { s with g := f s.g }
  else { s with others := s.others.map fun x => if x.p.id = who then f x else x }

/-- The group of a name. -/
def State.findGroup (s : State) (who : GRef) : Option Group :=
  if s.g.p.id = who ∧ s.g.present then some s.g else s.others.find? fun x => x.p.id == who

/-- Every resident group. -/
def State.groups (s : State) : List Group := if s.g.present then s.g :: s.others else s.others

def State.setStall (s : State) (r : Stall) : State := { s with g := { s.g with stall := r } }

def State.findBlock (s : State) (launch block : Nat) : Option Block :=
  s.blocks.find? fun b => b.launch == launch && b.block == block

def State.updBlock (s : State) (launch block : Nat) (f : Block → Block) : State :=
  { s with blocks := s.blocks.map fun b =>
      if b.launch == launch && b.block == block then f b else b }

/-- The scratchpad of the focus group's block (R314). -/
def State.scratch (s : State) : BMap 8 :=
  match s.findBlock s.g.p.id.launch s.g.p.id.block with
  | some b => b.scratch
  | none => []

/-- The marks of poison in it (R408). -/
def State.scratchPoison (s : State) : BMap 1 :=
  match s.findBlock s.g.p.id.launch s.g.p.id.block with
  | some b => b.poison
  | none => []

/-- A block whose scratchpad holds a number at an offset; what is written is not poisoned. -/
def Block.put (b : Block) (at_ n v : Nat) : Block :=
  { b with scratch := BMap.writeNat b.scratch at_ n v, poison := SMap.dropRange b.poison at_ n }

def State.putScratch (s : State) (at_ n v : Nat) : State :=
  s.updBlock s.g.p.id.launch s.g.p.id.block fun b => b.put at_ n v

def State.ownerOf (s : State) (granule : Nat) : Owner :=
  match s.findBlock s.g.p.id.launch s.g.p.id.block with
  | some b => SMap.get .t b.owner granule
  | none => .t

def State.findCtx (s : State) (id : Nat) : Option Ctx := s.ctxs.find? fun c => c.id == id

def State.updCtx (s : State) (id : Nat) (f : Ctx → Ctx) : State :=
  { s with ctxs := s.ctxs.map fun c => if c.id == id then f c else c }

/-- Adds a step of another agent to the end of the agenda. -/
def State.later (s : State) (i : Instr) : State := { s with agenda := s.agenda ++ [i] }

/-- A fresh free value (log entry 12). -/
def State.fresh (s : State) : BitVec 64 × State :=
  (Config.freeWord s.free, { s with free := s.free + 1 })

end Sys2Proof.Machine
end

