-- ==== Sys2Proof/Machine/Alu.lean ====
section
/-! DEFINITION. Integer arithmetic on codes of N bits (R40, R97 to R101), shared by the scalar, vector,
immediate and lane forms. -/

namespace Sys2Proof.Machine
open Sys2Proof.Num

/-- R98 Shift. `b` is the whole unsigned amount. -/
inductive Shift where
  | shl | shr | sar | rot
  deriving DecidableEq, Repr

def shiftCode (op : Shift) (a b n : Nat) : Nat :=
  match op with
  | .shl => if n ≤ b then 0 else a * 2 ^ b % 2 ^ n
  | .shr => if n ≤ b then 0 else a / 2 ^ b
  | .sar => codeOf (signed a n / 2 ^ (min b (n - 1))) n
  | .rot => a * 2 ^ (b % n) % 2 ^ n + a / 2 ^ (n - b % n)

/-- The two-operand integer operations of R97 and R105. -/
inductive Alu where
  | add | sub | mul | mulh | div | rem | and | or | xor | andn | min | max
  | shift (op : Shift)
  deriving DecidableEq, Repr

/-- R40: the quotient of a division. -/
def divInt (a b : Int) : Int := if b = 0 then -1 else a.tdiv b

/-- R40: the remainder of a division. -/
def remInt (a b : Int) : Int := if b = 0 then a else a.tmod b

/-- The N-bit result code of an operation of an integer type on the operands' codes; only a shift's
amount may be wider than N bits. -/
def aluCode (op : Alu) (t a b : Nat) : Nat :=
  let n := tyBits t
  let a' := a % 2 ^ n
  let b' := b % 2 ^ n
  let x := intVal t a
  let y := intVal t b
  match op with
  | .add => codeOf (x + y) n
  | .sub => codeOf (x - y) n
  | .mul => codeOf (x * y) n
  | .mulh => codeOf (x * y / 2 ^ n) n
  | .div => codeOf (divInt x y) n
  | .rem => codeOf (remInt x y) n
  | .and => a' &&& b'
  | .or => a' ||| b'
  | .xor => a' ^^^ b'
  | .andn => a' &&& (2 ^ n - 1 - b')
  | .min => codeOf (if x < y then x else y) n
  | .max => codeOf (if x < y then y else x) n
  | .shift s => shiftCode s a' b n

/-- R101 BitField. -/
def bfxCode (t a pos w : Nat) : Nat :=
  let n := tyBits t
  if w = 0 ∨ n ≤ pos then 0
  else
    let w := min w (n - pos)
    let f := a % 2 ^ n / 2 ^ pos % 2 ^ w
    if tySigned t then codeOf (signed f w) n else f

def bfiCode (t d a pos w : Nat) : Nat :=
  let n := tyBits t
  if w = 0 ∨ n ≤ pos then d % 2 ^ n
  else
    let w := min w (n - pos)
    let m := (2 ^ w - 1) * 2 ^ pos
    (d % 2 ^ n &&& (2 ^ n - 1 - m)) + a % 2 ^ w * 2 ^ pos

/-- Leading zeros of an N-bit code; N for 0 (R100). -/
def clzCode (n a : Nat) : Nat := n - bitLen (a % 2 ^ n)

def ctzFrom (a : Nat) : Nat → Nat → Nat
  | 0, i => i
  | k + 1, i => if a.testBit i then i else ctzFrom a k (i + 1)

/-- Trailing zeros of an N-bit code; N for 0 (R100). -/
def ctzCode (n a : Nat) : Nat := ctzFrom a n 0

def popCode (n a : Nat) : Nat := ((List.range n).filter fun i => a.testBit i).length

/-- R143 New: the word of `size` bytes that an operation leaves from the old word and the operand. -/
def newWord (opc size w x : Nat) : Nat :=
  let n := 8 * size
  let w := w % 2 ^ n
  let x := x % 2 ^ n
  match opc with
  | 0 => (w + x) % 2 ^ n
  | 1 => w &&& x
  | 2 => w ||| x
  | 3 => w ^^^ x
  | 4 => if signed x n < signed w n then x else w
  | 5 => if signed w n < signed x n then x else w
  | 6 => if x < w then x else w
  | 7 => if w < x then x else w
  | _ => x

/-- R91 Result: an N-bit code extended to 64 bits. -/
def result64 (t c : Nat) : BitVec 64 := BitVec.ofNat 64 (extendTo 64 t c)

/-- Sign extension of a field. -/
def sext {w : Nat} (b : BitVec w) : Int := b.toInt

end Sys2Proof.Machine
end

