-- ==== Sys2Proof/Machine/Mem.lean ====
section
/-! DEFINITION. Memory: page tables and walks (R325 to R331), the windows (R26, R28), the checks of an
access and their order (R133), reading and writing, and the shelf's wakes (R152, R337). -/

namespace Sys2Proof.Machine

/-! ### Page tables -/

/-- First physical address of the translation stacks, of the unpopulated part and of host memory
(R312). -/
def paStacks : Nat := 0x8C00000000
def paUnpop : Nat := 0x9000000000
def paHost : Nat := 0x8000000000000

def Mem.read64 (m : BMap 8) (a : Nat) : BitVec 64 := BitVec.ofNat 64 (BMap.readNat m a 8)

/-- FRAME × 2^12 of an entry (R326). -/
def pteAddr (e : BitVec 64) : Nat := (e.extractLsb' 12 40).toNat * 4096

/-- The 9-bit index of level l (R325). -/
def vaIndex (va l : Nat) : Nat := va / 2 ^ (12 + 9 * (l - 1)) % 512

/-- Bytes that a leaf of level l maps (R325). -/
def leafSize (l : Nat) : Nat := 2 ^ (12 + 9 * (l - 1))

/-- A leaf that a walk found: the address of its entry, the entry, and its level. -/
structure Leaf where
  at_ : Nat
  e : BitVec 64
  level : Nat
  deriving DecidableEq, Repr

/-- R327 Walk, from the table at `t` of level l. -/
def walkFrom (m : BMap 8) (va : Nat) : Nat → Nat → Except Cause Leaf
  | 0, _ => .error .page
  | l + 1, t =>
    let a := t + 8 * vaIndex va (l + 1)
    let e := Mem.read64 m a
    if !e.getLsbD 0 then .error .page
    else if e.extractLsb' 52 7 ≠ 0#7 ∨ e.getLsbD 11 then .error .rsvd
    else if !e.getLsbD 1 then (if l = 0 then .error .rsvd else walkFrom m va l (pteAddr e))
    else if l + 1 > 3 then .error .rsvd
    else if pteAddr e % leafSize (l + 1) ≠ 0 then .error .rsvd
    else
      let ty := (e.extractLsb' 8 3).toNat
      if ty > 2 then .error .rsvd
      else if (ty = 2) ≠ (paHost ≤ pteAddr e) then .error .rsvd
      else .ok { at_ := a, e := e, level := l + 1 }

/-- What an access may do on a leaf: write, fetch for translation, and whether TYPE 2 accepts it. -/
structure Use where
  write : Bool := false
  fetch : Bool := false
  host : Bool := true
  deriving DecidableEq, Repr

/-- The checks after a walk (R327, R331, R312): PAGE, then PROT with its reason. -/
def leafCheck (u : Use) (f : Leaf) : Except (Cause × Nat) Unit :=
  let pa := pteAddr f.e
  if paUnpop ≤ pa ∧ pa < paHost then .error (.page, 0)
  else if paStacks ≤ pa ∧ pa < paUnpop then .error (.prot, 1)
  else if u.write ∧ !f.e.getLsbD 2 then .error (.prot, 1)
  else if u.fetch ∧ !f.e.getLsbD 3 then .error (.prot, 1)
  else if (f.e.extractLsb' 8 3).toNat = 2 ∧ !u.host then .error (.prot, 0x0B)
  else .ok ()

/-- First address of the binding range (R282): it and the windows reach no walk (R325). -/
def bindBase : Nat := 0x1FD * 2 ^ 48

/-- Local addresses below the binding range, in pages (R282). -/
def privPages : Nat := 0x1FD * 2 ^ 36

/-- The local address of the structure that a capability names (R406). -/
def capAddr (id : Nat) : Nat := Config.capTarget id % privPages * 4096

/-- Context frames (R312). -/
def contextFrames : Nat := 0x8C00000

/-- Whether a page belongs to the frame map of R406, whose pages the runtime places when they are first read. -/
def inFrameMap (page : Nat) : Bool :=
  decide (capAddr 6 ≤ 4096 * page) && decide (4096 * page < capAddr 6 + contextFrames)

/-- Whether the runtime serves a page of a context unseen: it holds the page elsewhere (R328), or the page is one of
the frame map (R406). -/
def State.pageAway (s : State) (ctx page : Nat) : Bool :=
  match s.findCtx ctx with
  | some c => c.nonresident.contains page || (c.live && inFrameMap page)
  | none => false

/-- Walk and checks of one local address in a context (R327); the leaf or the cause and reason. -/
def State.leafOf (s : State) (ctx : Nat) (u : Use) (va : Nat) : Except (Cause × Nat) Leaf :=
  match s.findCtx ctx with
  | none => .error (.page, 0)
  | some c =>
    match (if c.live && decide (va < bindBase) then c.root else none) with
    | none => .error (.page, 0)
    | some root =>
      match walkFrom s.mem va 5 root with
      | .error k => .error (k, 0)
      | .ok f =>
        match leafCheck u f with
        | .error x => .error x
        | .ok () => .ok f

def Leaf.pa (f : Leaf) (va : Nat) : Nat := pteAddr f.e + va % leafSize f.level

/-- R329: whether the 16 leaves at `base` merge. -/
def mergedSet (m : BMap 8) (base level : Nat) : Bool :=
  let e0 := Mem.read64 m base
  let keep (e : BitVec 64) : BitVec 64 := e &&& 0x800000000000073F#64
  pteAddr e0 % (16 * leafSize level) == 0 &&
  (List.range 16).all fun i =>
    let e := Mem.read64 m (base + 8 * i)
    e.getLsbD 0 && e.getLsbD 1 && e.getLsbD 5 && keep e == keep e0 &&
      pteAddr e == pteAddr e0 + i * leafSize level

/-- Sets A, and D for a write, in one entry (R330). -/
def setAD (m : BMap 8) (a : Nat) (dirty : Bool) : BMap 8 :=
  let e := Mem.read64 m a
  BMap.writeNat m a 8 (e ||| (if dirty then 0xC0#64 else 0x40#64)).toNat

/-- R330: an access through a leaf sets A and D, in all 16 entries of a merged set. -/
def markUsed (m : BMap 8) (f : Leaf) (dirty : Bool) : BMap 8 :=
  let base := f.at_ - f.at_ % 128
  if f.e.getLsbD 5 && mergedSet m base f.level then
    (List.range 16).foldl (fun m i => setAD m (base + 8 * i) dirty) m
  else setAD m f.at_ dirty

/-! ### The shelf's wakes -/

/-- The compare of a WAITC code on words of `size` bytes (R151). -/
def waitHolds (code size w c : Nat) : Bool :=
  let n := 8 * size
  let sg (x : Nat) : Int := if x < 2 ^ (n - 1) then (x : Int) else (x : Int) - 2 ^ n
  match code with
  | 0 => w == c
  | 1 => w != c
  | 2 => decide (sg c ≤ sg w)
  | 3 => decide (sg w < sg c)
  | 4 => decide (c ≤ w)
  | 5 => decide (w < c)
  | _ => w &&& c != 0

/-- Whether a write to [pa, pa + n) wakes an entry (R152, R337). -/
def ShelfEntry.woken (e : ShelfEntry) (m : BMap 8) (pa n : Nat) : Bool :=
  decide (e.pa < pa + n) && decide (pa < e.pa + e.size) &&
  (e.who.isNone || waitHolds e.code e.size (BMap.readNat m e.pa e.size) e.comparand)

def State.dieSt (s : State) (d : Nat) : DieSt := SMap.get default s.dies d

/-- R360: a write that a shelf entry waits for wakes the slice's die. -/
def State.wakeSlice (s : State) (slice : Nat) : State :=
  if (s.dieSt (slice / 48)).power = 3 then s.later (.powerWake (.die (slice / 48))) else s

/-- Wakes an entry's waiter: its group with status 1, or its desk. -/
def State.wakeOne (s : State) (e : ShelfEntry) : State :=
  match e.who, e.wake with
  | some who, _ => (s.wakeSlice e.slice).updGroup who fun g => { g with pend := .shelf (some true) }
  | none, some i => (s.wakeSlice e.slice).later i
  | none, none => s

/-- The wakes of a write to [pa, pa + n). -/
def State.wakes (s : State) (pa n : Nat) : State :=
  if s.shelf.isEmpty then s
  else
    (s.shelf.filter fun e => e.woken s.mem pa n).foldl State.wakeOne
      { s with shelf := s.shelf.filter fun e => !e.woken s.mem pa n }

/-! ### Spans and accesses -/

/-- The bytes that a span lies in, for the focus group. -/
def State.spaceOf (s : State) (p : Span) : BMap 8 :=
  if p.priv then s.g.priv else if p.scratch then s.scratch else s.mem

/-- The marks of poison on the bytes that a span lies in. -/
def State.marksOf (s : State) (p : Span) : BMap 1 :=
  if p.priv then s.g.privPoison else if p.scratch then s.scratchPoison else s.poison

/-- Reads the bytes of spans, in order, as a little-endian number (R2). -/
def State.readSpans (s : State) : List Span → Nat
  | [] => 0
  | p :: ps => BMap.readNat (s.spaceOf p) p.at_ p.len + 256 ^ p.len * s.readSpans ps

/-- A physical write: the bytes written hold no poison (R408), and what waits for them wakes. -/
def State.writeMem (s : State) (pa n v : Nat) : State :=
  State.wakes { s with mem := BMap.writeNat s.mem pa n v, poison := SMap.dropRange s.poison pa n } pa n

/-- The first marked byte of [at_, at_ + n), counted from at_. -/
def markedAt (m : BMap 1) (at_ n : Nat) : Option Nat :=
  (List.find? (fun x => decide (at_ ≤ x.1) && decide (x.1 < at_ + n)) m).map fun x => x.1 - at_

/-- R408: the first byte of spans that holds poison, counted along them. -/
def State.poisonedAt (s : State) : List Span → Option Nat
  | [] => none
  | p :: ps =>
    match markedAt (s.marksOf p) p.at_ p.len with
    | some i => some i
    | none => (s.poisonedAt ps).map fun i => p.len + i

/-- The marks of poison at spans, as offsets along them, with the scratchpad of a group's block. -/
def State.marksAs (s : State) (who : GRef) : List Span → List Nat
  | [] => []
  | p :: ps =>
    let m := if p.scratch then ((s.findBlock who.launch who.block).map Block.poison).getD [] else s.poison
    ((m.filter fun x => decide (p.at_ ≤ x.1) && decide (x.1 < p.at_ + p.len)).map fun x => x.1 - p.at_) ++
      (s.marksAs who ps).map fun i => p.len + i

/-- R408: poison travels with the data that a copy moves: marks the bytes at offsets along spans. -/
def State.putMarks (s : State) (who : GRef) (marks : List Nat) : List Span → State
  | [] => s
  | p :: ps =>
    let put (m : BMap 1) : BMap 1 :=
      (marks.filter fun i => decide (i < p.len)).foldl (fun m i => BMap.set m (p.at_ + i) 1) m
    let s' := if p.scratch then s.updBlock who.launch who.block fun b => { b with poison := put b.poison }
      else { s with poison := put s.poison }
    State.putMarks s' who ((marks.filter fun i => decide (p.len ≤ i)).map fun i => i - p.len) ps

/-- A write of private bytes: they hold no poison (R408). -/
def State.putPriv (s : State) (at_ n v : Nat) : State :=
  { s with g := { s.g with priv := BMap.writeNat s.g.priv at_ n v
                           privPoison := SMap.dropRange s.g.privPoison at_ n } }

/-- Writes a number to spans, in order. -/
def State.writeSpans (s : State) : List Span → Nat → State
  | [], _ => s
  | p :: ps, v =>
    let s' :=
      if p.priv then s.putPriv p.at_ p.len v
      else if p.scratch then s.putScratch p.at_ p.len v else s.writeMem p.at_ p.len v
    State.writeSpans s' ps (v / 256 ^ p.len)

/-- Physical bytes as one span. -/
def memSpan (pa n : Nat) : List Span := [{ scratch := false, at_ := pa, len := n }]

/-- Adds to a counter of the RELCOUNT block (R409). -/
def State.countRel (s : State) (i n : Nat) : State :=
  if s.relcount = 0 then s
  else
    let span : List Span := memSpan (s.relcount + 8 * i) 8
    s.writeSpans span ((s.readSpans span + n) % 2 ^ 64)

/-- Which windows a form accepts (R130). -/
inductive Win where
  /-- loads and stores: every place -/
  | all
  /-- ACP, FAO, RED, CAS, ring buffers: not the private window -/
  | noPrivate
  /-- STF, FAOR, ENQ, DEQ, WAITC: global memory only -/
  | globalOnly
  /-- BARI, BARA, BARW: the scratchpad window only -/
  | scratchOnly
  deriving DecidableEq, Repr

/-- One access of one lane. `addr` is its 72-bit address (R23), or none where R24 gives CANON with
the address in `bad`. -/
structure Acc where
  lane : Nat
  addr : Option Nat
  bad : Nat := 0
  size : Nat
  align : Nat
  read : Bool := false
  write : Bool := false
  win : Win := .all
  host : Bool := true
  thread : Bool := true
  cls : Nat := 0
  fetch : Bool := false
  /-- R408: whether what is read goes to a register, to an atomic's arithmetic, or to a conversion -/
  eats : Bool := true
  /-- R386: whether a watchpoint may match it at this check -/
  watch : Bool := true
  /-- R31: an access of class 15 that %xctx does not allow -/
  deny : Bool := false
  ctx : Nat
  deriving DecidableEq, Repr

/-- R133, R386: the checks of items 4 to 8 alone: a watchpoint and poison rank behind the structure checks of item 9. -/
def Acc.early (a : Acc) : Acc := { a with eats := false, watch := false }

/-- A fault with its place in the order of R133. -/
structure Ranked where
  rank : Nat
  trap : Trap
  lane : Nat
  deriving DecidableEq, Repr

/-- %faultaux of R133 without LOCHI. -/
def memAux (reason done : Nat) (rmt wr : Bool) (lane : Nat) : Nat :=
  reason * 2 ^ 48 + done * 2 ^ 16 + (if rmt then 2 ^ 15 else 0) + (if wr then 2 ^ 14 else 0) + lane

def Acc.err (a : Acc) (rank : Nat) (c : Cause) (va : Nat) (reason : Nat) (rmt : Bool := false) :
    Ranked :=
  { rank := rank, lane := a.lane,
    trap := { cause := c, va := va, aux := memAux reason 0 rmt a.write a.lane
              ctx := if a.fetch then some a.ctx else none } }

/-- Location field and local part of a 72-bit address (R23). -/
def locOf (a : Nat) : Nat := a / 2 ^ 57
def localOf (a : Nat) : Nat := a % 2 ^ 57

/-- R25: whether an address is performed on this device. -/
def State.isLocal (s : State) (addr : Nat) : Bool :=
  locOf addr < 2 ^ 14 || locOf addr == s.devloc.toNat

def winPrivate : Nat := 0x1FE * 2 ^ 48
def winScratch : Nat := 0x1FF * 2 ^ 48

/-- The place of R133 of a walk's cause. -/
def walkRank : Cause → Nat
  | .rsvd => 8
  | .page => 9
  | _ => 10

/-- Translation of the pages of [va, va + n): the spans, and of the faults the one of highest
precedence at its lowest byte. `fuel` bounds the pages. -/
def State.pageSpans (s : State) (ctx : Nat) (u : Use) : Nat → Nat → Nat →
    List Span × Option (Nat × Cause × Nat × Nat)
  | 0, _, _ => ([], none)
  | fuel + 1, va, n =>
    if n = 0 then ([], none)
    else
      let k := min n (4096 - va % 4096)
      let rest := s.pageSpans ctx u fuel (va + k) (n - k)
      match s.leafOf ctx u va with
      | .ok f => ({ scratch := false, at_ := f.pa va, len := k } :: rest.1, rest.2)
      | .error (c, reason) =>
        let mine := (walkRank c, c, reason, va)
        match rest.2 with
        | some other => (rest.1, some (if other.1 < mine.1 then other else mine))
        | none => (rest.1, some mine)

/-- R28: the region byte of private-window byte o of a lane. -/
def privByte (pbase lane o : Nat) : Nat := pbase + (o / 4) * 128 + lane * 4 + o % 4

/-- The spans of [o, o + n) of a lane's private memory, in runs of at most 4 bytes; the region's pages must be mapped
(R29). -/
def State.privSpans (s : State) (a : Acc) : Nat → Nat → Nat → Except (Cause × Nat × Nat) (List Span)
  | 0, _, _ => .ok []
  | fuel + 1, o, n =>
    if n = 0 then .ok []
    else
      let k := min n (4 - o % 4)
      let va := privByte s.g.u.pbase a.lane o
      match s.leafOf s.g.p.ctx { write := a.write } va with
      | .error (c, r) =>
        match s.privSpans a fuel (o + k) (n - k) with
        | .error e => if walkRank e.1 < walkRank c then .error e else .error (c, r, o)
        | .ok _ => .error (c, r, o)
      | .ok _ =>
        match s.privSpans a fuel (o + k) (n - k) with
        | .error e => .error e
        | .ok l => .ok ({ scratch := false, at_ := privByte 0 a.lane o, len := k, priv := true } :: l)

/-- R131: the first granule of [off, off + n) that is not in state T. -/
def State.ownerFault (s : State) (off n : Nat) : Option Nat :=
  (List.range ((off + n - 1) / 4096 + 1 - off / 4096)).findSome? fun i =>
    let g := off / 4096 + i
    match s.ownerOf g with
    | .t => none
    | _ => some (max off (g * 4096))

/-- R386: whether an access matches a watchpoint of the focus group, and its lowest byte that does. -/
def State.watchHit (s : State) (a : Acc) (addr : Nat) : Option Nat :=
  (List.range 4).findSome? fun w =>
    let c := BMap.get s.g.dbg.wpCtl w
    let start := (BMap.get s.g.dbg.wpStart w).toNat % 2 ^ 57
    let loc := (c.extractLsb' 30 15).toNat
    let len := c.toNat % 2 ^ 30
    let same := loc == locOf addr || (loc == s.devloc.toNat && s.isLocal addr) ||
      (loc < 2 ^ 14 && s.isLocal addr)
    let lo := max start (localOf addr)
    if c.getLsbD 63 && ((a.read && c.getLsbD 62) || (a.write && c.getLsbD 61)) &&
        c.getLsbD (45 + a.cls) && same &&
        decide (lo < start + len) && decide (lo < localOf addr + a.size)
    then some (locOf addr * 2 ^ 57 + lo) else none

/-- R408: an access that reads poison raises MCHK at the poisoned byte, after every other check of R133. -/
def State.clean (s : State) (a : Acc) (addr : Nat) (l : List Span) : Except Ranked Where :=
  if a.read && a.eats then
    match s.poisonedAt l with
    | some i => .error (a.err 15 .mchk (addr + i) 0)
    | none => .ok (.here l)
  else .ok (.here l)

/-- The checks of one access (R133 items 4 to 8 and 12, and WATCH of R386). -/
def State.check (s : State) (a : Acc) : Except Ranked Where :=
  match a.addr with
  | none => .error (a.err 4 .canon a.bad 0 (!s.isLocal a.bad))
  | some addr =>
    let va := localOf addr
    let inWin := decide (winPrivate < va + a.size)
    if !s.isLocal addr then
      if inWin then .error (a.err 4 .canon addr 0 true)
      else if va % a.align ≠ 0 then .error (a.err 5 .align addr 0 true)
      else if a.win = .scratchOnly then .error (a.err 6 .prot addr 5 true)
      else if a.deny then .error (a.err 10 .prot addr 1 true)
      else if a.thread && a.watch then
        match s.watchHit a addr with
        | some w => .error (a.err 12 .watch w 0 true)
        | none => .ok (.away addr)
      else .ok (.away addr)
    else
      let watched (l : List Span) : Except Ranked Where :=
        if a.deny then .error (a.err 10 .prot addr 1)
        else if a.thread && a.watch then
          match s.watchHit a addr with
          | some x => .error (a.err 12 .watch x 0)
          | none => s.clean a addr l
        else s.clean a addr l
      if va % a.align ≠ 0 then .error (a.err 5 .align addr 0)
      else if !inWin then
        if a.win = .scratchOnly then .error (a.err 6 .prot addr 5)
        else
          match s.pageSpans a.ctx { write := a.write, fetch := a.fetch, host := a.host }
              (a.size / 4096 + 2) va a.size with
          | (_, some (rank, c, reason, x)) =>
            .error (a.err rank c (locOf addr * 2 ^ 57 + x) reason)
          | (l, none) => watched l
      else if va < winPrivate ∨ (va < winScratch ∧ winScratch < va + a.size) ∨
          2 ^ 57 < va + a.size then .error (a.err 6 .prot addr 4)
      else if winScratch ≤ va then
        if a.win = .globalOnly then .error (a.err 6 .prot addr 5)
        else if s.g.u.scratch < va - winScratch + a.size then
          .error (a.err 6 .prot (max addr (addr - va + winScratch + s.g.u.scratch)) 2)
        else if a.thread then
          match s.ownerFault (va - winScratch) a.size with
          | some o => .error (a.err 7 .owner (addr - va + winScratch + o) 0)
          | none => watched [{ scratch := true, at_ := va - winScratch, len := a.size }]
        else watched [{ scratch := true, at_ := va - winScratch, len := a.size }]
      else if a.win ≠ .all then .error (a.err 6 .prot addr 5)
      else if 2 ^ 24 < va - winPrivate + a.size then
        .error (a.err 6 .prot (max addr (addr - va + winPrivate + 2 ^ 24)) 3)
      else
        match s.privSpans a (a.size + 1) (va - winPrivate) a.size with
        | .error (c, reason, o) => .error (a.err (walkRank c) c (addr - va + winPrivate + o) reason)
        | .ok l => watched l

/-- The fault that R133 reports of several: highest precedence, then lowest lane, then lowest address. -/
def worst : List Ranked → Option Ranked
  | [] => none
  | x :: t =>
    match worst t with
    | none => some x
    | some y =>
      if y.rank < x.rank ∨ (y.rank = x.rank ∧
          (y.lane < x.lane ∨ (y.lane = x.lane ∧ y.trap.va < x.trap.va))) then some y
      else some x

/-- Checks several accesses, not those of an instruction that has begun: all their places, or the fault to report. -/
def State.checkNew (s : State) (l : List Acc) : Except Ranked (List Where) :=
  match worst (l.filterMap fun a => match s.check a with | .error r => some r | .ok _ => none) with
  | some r => .error r
  | none => .ok (l.filterMap fun a => match s.check a with | .ok w => some w | .error _ => none)

/-- The checks of an instruction's accesses, made once: an instruction that has begun and waits keeps the places that it
was given (R131, R334). -/
def State.checkAll (s : State) (l : List Acc) : Except Ranked (List Where) :=
  match s.g.kept with
  | some ws => .ok ws
  | none => s.checkNew l

/-- The place of the n-th access of an instruction that checks one access after another (R131, R334). -/
def State.checkNth (s : State) (n : Nat) (a : Acc) : Except Ranked Where :=
  match s.g.kept.bind fun ws => ws[n]? with
  | some w => .ok w
  | none => s.check a

/-- R152, R330: setting A and D is a write at the entry's home slice: the WAITCs parked there compare again. -/
def State.compareAfter (s : State) (pa n : Nat) : State :=
  { s with agenda := s.agenda ++ (s.shelf.filter fun e => e.who.isSome && e.woken s.mem pa n).map fun e =>
      .homeSliceOperation (.compare e.pa) }

/-- R329: a walk that meets a hint whose set does not merge counts a mismatch. -/
def State.countHint (s : State) (ctx : Nat) (f : Leaf) : State :=
  if f.e.getLsbD 5 && !mergedSet s.mem (f.at_ - f.at_ % 128) f.level then
    s.updCtx ctx fun c => { c with hintMismatch := c.hintMismatch + 1 }
  else s

/-- Sets the A and D bits of the pages of a local access (R330). -/
def State.touchPages (s : State) (ctx : Nat) (write : Bool) : Nat → Nat → Nat → State
  | 0, _, _ => s
  | fuel + 1, va, n =>
    if n = 0 then s
    else
      let k := min n (4096 - va % 4096)
      let s' := match s.leafOf ctx {} va with
        | .ok f => ({ s with mem := markUsed s.mem f write } : State).compareAfter (f.at_ - f.at_ % 128) 128
        | .error _ => s
      State.touchPages s' ctx write fuel (va + k) (n - k)

/-- A and D of an access's pages; a private access marks the region's pages. -/
def State.mark (s : State) (a : Acc) : State :=
  match a.addr with
  | none => s
  | some addr =>
    let va := localOf addr
    if !s.isLocal addr ∨ winScratch ≤ va then s
    else if winPrivate ≤ va then
      (List.range ((a.size + 3) / 4)).foldl
        (fun s i => s.touchPages s.g.p.ctx a.write 2
          (privByte s.g.u.pbase a.lane (va - winPrivate + 4 * i)) 1) s
    else s.touchPages a.ctx a.write (a.size / 4096 + 2) va a.size

/-- The pages that an access walks to, each once: its own, or those of its private region. -/
def State.walked (s : State) (a : Acc) : List (Nat × Nat) :=
  match a.addr with
  | none => []
  | some addr =>
    let va := localOf addr
    if !s.isLocal addr ∨ winScratch ≤ va then []
    else if winPrivate ≤ va then
      ((List.range ((a.size + 3) / 4)).map fun i =>
        (s.g.p.ctx, privByte s.g.u.pbase a.lane (va - winPrivate + 4 * i) / 4096)).eraseDups
    else (List.range ((va % 4096 + a.size + 4095) / 4096)).map fun i => (a.ctx, va / 4096 + i)

/-- R329, R332: the mismatches of hints over the pages that some accesses share walks to. -/
def State.countHints (s : State) (pages : List (Nat × Nat)) : State :=
  pages.eraseDups.foldl (fun s p => match s.leafOf p.1 {} (4096 * p.2) with
    | .ok f => s.countHint p.1 f
    | .error _ => s) s

/-- What the walks of an access leave: A and D, and the mismatches of hints. -/
def State.touch (s : State) (a : Acc) : State := (s.mark a).countHints (s.walked a)

/-- What the walks of an instruction's accesses leave; a page is walked to once (R332). -/
def State.touchAll (s : State) (l : List Acc) : State := (l.foldl State.mark s).countHints (l.flatMap s.walked)

end Sys2Proof.Machine
end

