-- ==== Sys2Proof/Machine/Log.lean ====
section
/-! DEFINITION. The replay log of a block (R396). Entry i occupies the 16 bytes at the log's base
+ 16·i, in the context's memory. -/

namespace Sys2Proof.Machine

/-- The log of the focus group's block. -/
def State.rlog (s : State) : Option RLog :=
  match s.findBlock s.g.p.id.launch s.g.p.id.block with
  | some b => b.log
  | none => none

/-- The most entries that one instruction logs. -/
def logNeed : Nat := 96

/-- Whether the focus group logs. -/
def State.logging (s : State) : Bool :=
  match s.rlog with
  | some l => !l.off && !l.replay
  | none => false

/-- Whether the focus group replays. -/
def State.replaying (s : State) : Bool :=
  match s.rlog with
  | some l => l.replay
  | none => false

/-- Groups of the focus group's block whose instruction has begun and may still log. -/
def State.begun (s : State) : Nat :=
  (s.groups.filter fun g => g.p.id.launch == s.g.p.id.launch && g.p.id.block == s.g.p.id.block &&
    g.kept.isSome && g.pend != .idle).length

/-- Whether a logging group finds its log full, with room kept for the instructions that have begun. One that has begun
itself goes on. -/
def State.logFull (s : State) : Bool :=
  match s.rlog with
  | some l => !l.off && !l.replay && s.g.kept.isNone && decide (l.cap < l.used + logNeed * (1 + s.begun))
  | none => false

/-- Bytes 8–15 of an entry (R396). -/
def logTag (kind group lane index : Nat) : Nat :=
  kind * 2 ^ 60 + group % 32 * 2 ^ 55 + lane % 32 * 2 ^ 50 + index % 2 ^ 50

/-- The spans of an entry. -/
def State.logSpans (s : State) (l : RLog) (i : Nat) (write : Bool) : List Span :=
  (s.pageSpans s.g.p.ctx { write := write } 2 (l.base + 16 * i) 16).1

/-- Appends one entry for the group's current logged instruction. -/
def State.logOne (s : State) (kind lane value : Nat) : State :=
  match s.rlog with
  | none => s
  | some l =>
    if l.off || l.replay then s
    else
      let w := value % 2 ^ 64 + 2 ^ 64 * logTag kind s.g.p.id.group lane s.g.logged
      (s.writeSpans (s.logSpans l l.used true) w).updBlock s.g.p.id.launch s.g.p.id.block fun b =>
        { b with log := some { l with used := l.used + 1 } }

/-- A group that logs, with a count of logged instructions. -/
def State.logFrom (s : State) (n : Nat) : State :=
  if s.logging then { s with g := { s.g with logged := n } } else s

/-- Logs the values of one instruction and counts it. -/
def State.logAll (s : State) (es : List (Nat × Nat × Nat)) : State :=
  if s.logging then
    let s1 := es.foldl (fun s e => s.logOne e.1 e.2.1 e.2.2) s
    { s1 with g := { s1.g with logged := s1.g.logged + 1 } }
  else s

/-- The entries of a value of up to 16 bytes per lane: low kind, and high kind for SZ 4. -/
def logLanes (kind size : Nat) (vals : List (Nat × Nat)) : List (Nat × Nat × Nat) :=
  vals.map (fun x => (kind, x.1, x.2)) ++
    (if size = 16 then vals.map fun x => (kind + 1, x.1, x.2 / 2 ^ 64) else [])

/-- The value that the log holds for the group's current logged instruction. -/
def State.logFind (s : State) (kind lane : Nat) : Option Nat :=
  match s.rlog with
  | none => none
  | some l =>
    if !l.replay then none
    else (List.range l.used).findSome? fun i =>
      let w := s.readSpans (s.logSpans l i false)
      if w / 2 ^ 64 == logTag kind s.g.p.id.group lane s.g.logged then some (w % 2 ^ 64) else none

/-- A replayed value of up to 16 bytes of a lane. -/
def State.logLane (s : State) (kind size lane : Nat) : Option Nat :=
  match s.logFind kind lane with
  | none => none
  | some lo =>
    if size = 16 then some (lo + 2 ^ 64 * (s.logFind (kind + 1) lane).getD 0) else some lo

/-- In replay, a logged instruction is counted without its effects. -/
def State.logSkip (s : State) : State := { s with g := { s.g with logged := s.g.logged + 1 } }

end Sys2Proof.Machine
end

