-- ==== Sys2Proof/Machine/Trace.lean ====
section
/-! DEFINITION. Trace records (R392, R393): creating a record under the profiler's masks, numbering it,
and dropping it when the hub's buffer is full. -/

namespace Sys2Proof.Machine

/-- Records that the hub's buffer holds (R393). -/
def traceCap : Nat := 4096

/-- What the profiler holds for a context; nothing is enabled until it is asked for. -/
def State.profOf (s : State) (ctx : Nat) : ProfCfg :=
  SMap.get { period := 0, types := 0, filter := 0xFFFFFFFF, port := false } s.trace.cfg ctx

/-- Whether a record of a type is created for a launch of a context (R394). -/
def ProfCfg.wants (c : ProfCfg) (type launch : Nat) : Bool :=
  c.port && c.types.testBit type && (c.filter == 0xFFFFFFFF || c.filter == launch)

/-- Whether DROP records are created: a context that the port serves has them enabled (R394). -/
def State.dropOn (s : State) : Bool := s.trace.cfg.any fun x => x.2.port && x.2.types.testBit 0x0C

/-- The DROP record for what has been lost (R392). -/
def Trace.dropRec (tr : Trace) (now : Nat) : TraceRec :=
  { type := 0x0C, core := 0xFF, part := 0, slot := 0, group := 0, block := 0, seq := NMap.get tr.seqs 0xFF % 2 ^ 14
    time := now, payload := tr.lost % 2 ^ 64 + tr.lostAt % 2 ^ 64 * 2 ^ 64 }

/-- R393: once there is room, a DROP record stands for the records that were lost. -/
def State.flushDrop (s : State) : State :=
  if s.trace.lost = 0 ∨ traceCap ≤ s.trace.buf.length ∨ s.dropOn = false then s
  else
    { s with trace := { s.trace with
        buf := s.trace.buf ++ [s.trace.dropRec s.gtime], seqs := NMap.bump s.trace.seqs 0xFF, lost := 0 } }

/-- Numbers a record and puts it into the hub's buffer, or counts its loss (R392, R393). After a loss
a DROP record goes first. -/
def State.putRecord (s : State) (r : TraceRec) : State :=
  let seq := NMap.get s.trace.seqs r.core % 2 ^ 14
  let tr : Trace := { s.trace with seqs := NMap.bump s.trace.seqs r.core }
  let drops := decide (tr.lost ≠ 0) && s.dropOn
  if tr.buf.length + (if drops then 2 else 1) ≤ traceCap then
    let s1 := State.flushDrop { s with trace := tr }
    { s1 with trace := { s1.trace with buf := s1.trace.buf ++ [{ r with seq := seq, time := s.gtime }] } }
  else
    { s with trace := { tr with
        lost := tr.lost + 1, lostAt := if tr.lost = 0 then s.gtime else tr.lostAt } }

/-- A record of a core about a group, by the group's place. -/
def State.emitAt (s : State) (p : Place) (core type payload : Nat) : State :=
  if (s.profOf p.ctx).wants type p.id.launch then
    s.putRecord { type := type, core := core, part := p.part, slot := p.slot,
                  group := p.id.group, block := p.id.block, seq := 0, time := 0,
                  payload := payload % 2 ^ 128 }
  else s

/-- A record of a group. -/
def State.emitFor (s : State) (g : Group) (type payload : Nat) : State := s.emitAt g.p g.p.core type payload

/-- A record of the focus group. -/
def State.emit (s : State) (type payload : Nat) : State := s.emitFor s.g type payload

/-- A record of the hub, for a launch of a context (R392: CORE is 0xFF). -/
def State.emitHub (s : State) (ctx launch type payload : Nat) : State :=
  if (s.profOf ctx).wants type launch then
    s.putRecord { type := type, core := 0xFF, part := 0, slot := 0, group := 0, block := 0,
                  seq := 0, time := 0, payload := payload % 2 ^ 128 }
  else s

/-! ### Array cycles (R395) -/

/-- Bundle of the instruction at an address (R395): its row's commit bundle in an installed translation. -/
def State.nbaOf (s : State) (ctx pc : Nat) : Nat :=
  (s.xlats.findSome? fun t =>
    if t.ctx = ctx then (t.rows.find? fun r => r.vpc == pc).map fun r => t.nba + r.boff else none).getD 0

/-- The payload of an ARRAY record: COMPUTE, WLOAD, AWAITACT, DRAINBLK and NOCMD. -/
def arrayPayload (last : Bool) (nba : Nat) (counts : List Nat) : Nat :=
  counts.foldl (fun v c => v * 2 ^ 19 + c % 2 ^ 19) 0 + nba % 2 ^ 29 * 2 ^ 95 + (if last then 2 ^ 124 else 0)

/-- The records of counts, closed before any count reaches 2^19. `fuel` bounds them. -/
def State.arrayRecords (s : State) (p : Place) (core nba : Nat) (counts : List Nat) : Nat → State
  | 0 => s
  | fuel + 1 =>
    let part := counts.map fun c => min c (2 ^ 19 - 1)
    let rest := (counts.zip part).map fun x => x.1 - x.2
    let last := rest.all fun c => c == 0
    let s1 := s.emitAt p core 0x0B (arrayPayload last nba part)
    if last then s1 else s1.arrayRecords p core nba rest fuel

/-- Adds to a core's totals. -/
def addTotals (m : NMap) (core : Nat) (counts : List Nat) : NMap :=
  counts.zipIdx.foldl (fun m (c, i) => NMap.set m (5 * core + i) ((NMap.get m (5 * core + i) + c) % 2 ^ 64)) m

/-- The array clk of a core that no command and no closed span accounts for yet. -/
def State.arrayOpen (s : State) (core : Nat) : Nat := s.clk - NMap.get s.trace.arrayEnd core

/-- Adds the open clk to the totals by class; nothing is open any more. -/
def State.account (s : State) (core : Nat) (counts : List Nat) : State :=
  { s with trace := { s.trace with
      totals := addTotals s.trace.totals core counts, arrayEnd := NMap.set s.trace.arrayEnd core s.clk } }

/-- R395: a NOCMD span ends as a group's command starts; it is charged to the last command's group and bundle. -/
def State.closeIdle (s : State) (p : Place) (core : Nat) : State :=
  let idle := s.arrayOpen core
  if idle = 0 then s
  else (s.arrayRecords ((SMap.find? s.trace.arrayBy core).getD p) core (NMap.get s.trace.arrayNba core)
    [0, 0, 0, 0, idle] (idle / (2 ^ 19 - 1) + 1)).account core [0, 0, 0, 0, idle]

/-- How the clk of a child with some array commands divide among COMPUTE, WLOAD, AWAITACT and DRAINBLK, command by
command: each takes what it takes, and what is left at the last one is COMPUTE. -/
def arraySplit (id : Nat) : Nat → Nat → List (List Nat)
  | 0, _ => []
  | n + 1, left =>
    let take (left i : Nat) : Nat := min left (Config.arrayClk (64 * id + n) i)
    let b := take left 1
    let c := take (left - b) 2
    let d := take (left - b - c) 3
    let a := if n = 0 then left - b - c - d else take (left - b - c - d) 0
    [a, b, c, d] :: arraySplit id n (left - a - b - c - d)

/-- The sums of a split by class. -/
def splitSums (l : List (List Nat)) : List Nat :=
  (List.range 4).map fun i => l.foldl (fun n x => n + x.getD i 0) 0

/-- R395: the commands of a child end on a core's array: a record closes each. -/
def State.closeCommands (s : State) (p : Place) (core nba : Nat) (cmds : List (List Nat)) : State :=
  let s1 := cmds.foldl (fun s c => s.arrayRecords p core nba (c ++ [0]) (c.foldl (· + ·) 0 / (2 ^ 19 - 1) + 1)) s
  let s2 := s1.account core (splitSums cmds ++ [0])
  { s2 with trace := { s2.trace with
      arrayNba := NMap.set s2.trace.arrayNba core nba, arrayBy := SMap.insert s2.trace.arrayBy core p } }

/-- R395: a save-image scan-out or restore of a core's array moved accumulator contents in some of the open clk. -/
def State.scanArray (s : State) (core : Nat) : State :=
  let d := min (s.arrayOpen core) (Config.arrayClk s.free 3)
  { s with
    free := s.free + 1
    trace := { s.trace with
      totals := addTotals s.trace.totals core [0, 0, 0, d]
      arrayEnd := NMap.set s.trace.arrayEnd core (NMap.get s.trace.arrayEnd core + d) } }

end Sys2Proof.Machine
end

