-- ==== Sys2Proof/Machine/Ops.lean ====
section
/-! DEFINITION. The shared operations: issuing an instruction under its guard (R11, R66), reading
source operands with the queue registers (R16), taking a fault (R169 to R172) and returning from the
user trap handler (R173). -/

namespace Sys2Proof.Machine

abbrev Out := Host.Outcome State Fault Refusal

/-- Why an instruction does not complete at this issue. -/
inductive Stop where
  /-- it faults -/
  | trap (t : Trap)
  /-- it faults after some lanes' accesses were performed and their results written (R133) -/
  | trapIn (s : State) (t : Trap)
  /-- it waits, with nothing changed but the stall reason -/
  | wait (r : Stall)
  /-- it waits for what it has begun -/
  | hold (s : State) (r : Stall)

abbrev Eff := Except Stop State

/-- The instruction has begun: it keeps the places that its accesses were given while it waits (R131, R334). -/
def Stop.keep (ws : List Where) : Stop → Stop
  | .hold s r => .hold { s with g := { s.g with kept := some ws } } r
  | e => e

/-- The cause codes of R170. -/
def causeCode : Cause → Nat
  | .illop => 0x01 | .priv => 0x02 | .align => 0x03 | .page => 0x04 | .prot => 0x05 | .rsvd => 0x06
  | .canon => 0x07 | .owner => 0x08 | .detv => 0x09 | .tile => 0x0A | .faort => 0x0B
  | .fabric => 0x0C | .check => 0x0D | .mchk => 0x0E | .trapi => 0x0F | .bkpt => 0x10
  | .watch => 0x11 | .img => 0x12 | .xlat => 0x13 | .qbad => 0x14

/-- A fault that names no address: DESIGN CHOICE (log entry 60), %faultva and %faultaux of ILLOP, QBAD, CHECK and of the
MCHK of a register are 0 (R94 and R169 state no value). -/
def plainTrap (c : Cause) : Trap := { cause := c, va := 0, aux := 0 }

/-! ### Taking a fault (R169 to R172) -/

/-- R169: the fault registers. %faultaux[63:56] holds bits [71:64] of the address (R20). -/
def Regs.setFault (r : Regs) (t : Trap) (pc : Nat) : Regs :=
  { r with
    faultcause := BitVec.ofNat 64 (causeCode t.cause)
    faultva := BitVec.ofNat 64 t.va
    faultpc := BitVec.ofNat 64 pc
    faultaux := BitVec.ofNat 64 (t.va / 2 ^ 64 % 256 * 2 ^ 56 + t.aux % 2 ^ 56) }

/-- Offset of the trap frame in private memory (R171). -/
def frameOff : Nat := 0xFFFFC0

/-- The 64 bytes of a lane's trap frame as a number (R172). -/
def Regs.frame (r : Regs) (lane : Nat) : Nat :=
  (r.getPcv lane).toNat + 2 ^ 64 * r.faultcause.toNat + 2 ^ 128 * r.faultva.toNat +
    2 ^ 192 * r.faultpc.toNat + 2 ^ 256 * r.faultaux.toNat

/-- A write or read of a lane's trap frame; no watchpoint matches it (R386). -/
def State.frameAcc (s : State) (write : Bool) (size lane : Nat) : Acc :=
  { lane := lane, addr := some (winPrivate + frameOff), size := size, align := 8, read := !write,
    write := write, thread := false, ctx := s.g.p.ctx }

/-- Writes one lane's frame, when its pages are mapped. -/
def State.writeFrame (s : State) (lane : Nat) : State :=
  match s.check (s.frameAcc true 64 lane) with
  | .ok (.here l) => (s.touch (s.frameAcc true 64 lane)).writeSpans l (s.g.r.frame lane)
  | _ => s

/-- The first fault among the frame writes of the live lanes. -/
def State.frameFault (s : State) : Option Ranked :=
  worst (s.g.r.live.filterMap fun l =>
    match s.check (s.frameAcc true 64 l) with | .error r => some r | .ok _ => none)

/-- The resident runtime receives the fault and ends the process with a core dump (R169, R397). -/
def State.endProcess (s : State) : State :=
  let s1 := { s with g := { s.g with pend := .idle, kept := none, stall := .fault } }.updCtx s.g.p.ctx fun c =>
    { c with dumpBy := if c.dumpBy.isSome then c.dumpBy else some s.g.p.id }
  s1.later (.coreDump s.g.p.ctx)

/-- R171: delivery to the user trap handler, once the frames can be written. -/
def State.enterHandler (s : State) (t : Trap) (pc : Nat) (refused : Bool) : State :=
  match s.g.u.trapEntry with
  | none => s.endProcess
  | some h =>
    match s.frameFault with
    | none =>
      let s1 := s.g.r.live.foldl State.writeFrame s
      { s1 with g := { s1.g with
          r := s1.g.r.moveTo s1.g.r.live h, inHandler := true, pend := .idle, kept := none, stall := .none } }
    | some f =>
      if f.trap.cause = .page ∧ !refused then
        { s with g := { s.g with pend := .deliver t pc false, stall := .fault } }
      else s.endProcess

/-- Whether the user trap handler receives a cause (R169). -/
def Cause.toHandler : Cause → Bool
  | .mchk => false
  | .img => false
  | .xlat => false
  | _ => true

/-- Whether a debugger is attached to the group's process (R384). -/
def State.debugged (s : State) : Bool :=
  match s.findCtx s.g.p.ctx with
  | some c => c.debugged
  | none => false

/-- R409: MCHK and CHECK faults are counted. -/
def State.countFault (s : State) (c : Cause) : State :=
  match c with
  | .mchk => s.countRel 3 1
  | .check => s.countRel 5 1
  | _ => s

/-- R169: a fault of the focus group at the instruction at `pc`: the fault registers, then the first
receiver that applies. -/
def State.takeTrap (s : State) (t : Trap) (pc : Nat) : State :=
  let s0 := (s.emit 0x0A (causeCode t.cause + (pc / 2 % 2 ^ 56) * 2 ^ 8 + t.va % 2 ^ 64 * 2 ^ 64)).countFault t.cause
  let s1 := { s0 with g := { s0.g with r := s0.g.r.setFault t pc, pend := .idle, kept := none, stall := .none } }
  if s.debugged then
    { s1 with g := { s1.g with
        stall := .debug, dbg := { s1.g.dbg with stopped := true, cause := causeCode t.cause } } }
  else if s.g.u.trapEntry.isSome && !s.g.inHandler && Cause.toHandler t.cause then
    s1.enterHandler t pc false
  else s1.endProcess

/-- The address of the current instruction's word 0. -/
def State.pc (s : State) : Nat := s.g.r.issueAddr.getD 0

/-- Whether the resident runtime first serves a PAGE fault unseen by the program: private growth
(R29), a page that the runtime itself made non-resident (R328), or a page of the frame map (R406). -/
def State.served (s : State) (t : Trap) : Bool :=
  t.cause == .page && !(t.aux / 2 ^ 15 % 2 == 1) &&
  (match s.g.pend with | .service _ (some true) => false | _ => true) &&
  ((decide (winPrivate ≤ localOf t.va) && decide (localOf t.va < winScratch)) ||
   s.pageAway (t.ctx.getD s.g.p.ctx) (localOf t.va / 4096))

/-- A page of the frame map is placed without a decision of the runtime (R406). -/
def State.askMap (s : State) (who : GRef) (page : Nat) : State :=
  if inFrameMap page then s.later (.nonresidentPageService who true [] []) else s

/-- A fault at the current instruction: served unseen where R29 or R328 say so, taken otherwise. -/
def State.faultHere (s : State) (t : Trap) : State :=
  if s.served t then
    ({ s with g := { s.g with pend := .service t none, kept := none, stall := .fault } } : State).askMap
      s.g.p.id (localOf t.va / 4096)
  else s.takeTrap t s.pc

/-- What becomes of the machine when an instruction does not complete. -/
def State.stopWith (s : State) : Stop → State
  | .trap t => s.faultHere t
  | .trapIn s' t => s'.takeTrap t s.pc
  | .wait r => s.setStall r
  | .hold s' r => s'.setStall r

/-! ### Source operands (R16) -/

/-- Whether a 12-bit s field names a queue register (R16). -/
def isQ (r : Nat) : Bool := decide (4088 ≤ r)

/-- The head of the queue bound to a queue register: QBAD when unbound, a wait when empty. In replay
the log gives the value (R396). -/
def State.peekQ (s : State) (r : Nat) : Except Stop (BitVec 64) :=
  match s.logFind 8 (r - 4088) with
  | some v => .ok (BitVec.ofNat 64 v)
  | none =>
  match NMap.get s.g.qbind (r - 4088) with
  | 0 => .error (.trap (plainTrap .qbad))
  | q + 1 =>
    match (SMap.get default s.rxq q).entries with
    | [] => .error (.wait .queue)
    | v :: _ => .ok v

/-- Whether some source names an unbound queue register. -/
def State.unbound (s : State) (srcs : List Nat) : Bool :=
  srcs.any fun r => isQ r && NMap.get s.g.qbind (r - 4088) == 0

/-- The values of the queue registers that an instruction names: QBAD comes before any wait. -/
def State.peekAll (s : State) (srcs : List Nat) : Except Stop (List (Nat × BitVec 64)) :=
  let qs := (srcs.filter isQ).eraseDups
  if s.unbound srcs then .error (.trap (plainTrap .qbad))
  else if !qs.isEmpty && s.logFull then
    .error (.hold { s with g := { s.g with pend := .log false } } .fault)
  else qs.mapM fun r => (s.peekQ r).map fun v => (r, v)

/-- Pops one entry from the queue bound to a queue register. -/
def State.popQ (s : State) (r : Nat) : State :=
  match NMap.get s.g.qbind (r - 4088) with
  | 0 => s
  | q + 1 =>
    let e := SMap.get default s.rxq q
    { s with rxq := SMap.set default s.rxq q { e with entries := e.entries.tail } }

/-- Pops every queue register that an instruction named, once, and logs the values (R16, R396): with what else it has
logged, under the count `n` that stood before it. -/
def State.popAll (s : State) (n : Nat) (qv : List (Nat × BitVec 64)) : State :=
  if qv.isEmpty then s
  else if s.replaying then State.logSkip { s with g := { s.g with logged := n } }
  else ((qv.foldl (fun s x => s.popQ x.1) s).logFrom n).logAll (qv.map fun x => (8, x.1 - 4088, x.2.toNat))

/-- A source of class s, with the values peeked for the queue registers. -/
def State.srcS (s : State) (qv : List (Nat × BitVec 64)) (r : Nat) : BitVec 64 :=
  match qv.find? fun x => x.1 == r with
  | some x => x.2
  | none => s.g.r.getS r

/-! ### Issue (R11, R66) -/

/-- The state after an instruction's own effect: the queues it named are popped, the group waits
for nothing, and every lane that took part has advanced by `len`. -/
def State.complete (s0 s : State) (qv : List (Nat × BitVec 64)) (len : Nat) : State :=
  let s1 := s.popAll s0.g.logged qv
  { s1 with g := { s1.g with
      pend := .idle, kept := none, stall := .none,
      r := match s0.g.r.issueAddr with
        | none => s1.g.r
        | some a => s1.g.r.moveTo s0.g.r.taking (a + len) } }

/-- Issues an instruction of `len` bytes under guard `g`, with the s fields it reads and its effect,
which gets the active lanes and the reader of s sources. With no active lane it only advances. -/
def State.issue (s : State) (g : BitVec 4) (len : Nat) (srcs : List Nat)
    (body : List Nat → (Nat → BitVec 64) → State → Eff) : State :=
  let act := s.g.r.active g
  if act.isEmpty then State.complete s s [] len
  else
    match s.peekAll srcs with
    | .error e => s.stopWith e
    | .ok qv =>
      match body act (s.srcS qv) s with
      | .error e => s.stopWith e
      | .ok s' => State.complete s s' qv len

/-- An instruction whose effect changes only the focus group's registers and cannot fail. -/
def State.issueRegs (s : State) (g : BitVec 4) (srcs : List Nat)
    (f : List Nat → (Nat → BitVec 64) → Regs → Regs) : State :=
  s.issue g 8 srcs fun act rd s => .ok (s.mapR (f act rd))

/-- Issues a control transfer: the effect gives the registers after the transfer, with every lane
that took part already moved. -/
def State.issueJump (s : State) (g : BitVec 4) (srcs : List Nat)
    (body : List Nat → (Nat → BitVec 64) → Regs → Except Trap Regs) : State :=
  let act := s.g.r.active g
  if act.isEmpty then State.complete s s [] 8
  else
    match s.peekAll srcs with
    | .error e => s.stopWith e
    | .ok qv =>
      match body act (s.srcS qv) s.g.r with
      | .error t => s.stopWith (.trap t)
      | .ok r =>
        let s1 := s.popAll s.g.logged qv
        { s1 with g := { s1.g with r := r, pend := .idle, kept := none, stall := .none } }

/-! ### Return from the handler (R173) -/

/-- The saved pcv in a live lane's frame. -/
def State.savedPcv (s : State) (lane : Nat) : Except Ranked (BitVec 64) :=
  match s.check (s.frameAcc false 8 lane) with
  | .ok (.here l) => .ok (BitVec.ofNat 64 (s.readSpans l))
  | .ok (.away _) => .ok 0
  | .error r => .error r

/-- R13: whether a pcv that TRET installs keeps its reserved and low bits clear and names an address
that the context may execute. -/
def pcvOk (canRun : Nat → Bool) (v : BitVec 64) : Bool :=
  v.extractLsb' 57 6 == 0#6 && v.extractLsb' 0 3 == 0#3 && canRun (v.toNat % 2 ^ 57)

/-- Installs the saved program counters of the live lanes and leaves the handler. -/
def State.leaveHandler (s : State) (l : List (Nat × BitVec 64)) : State :=
  { s with g := { s.g with
      r := l.foldl (fun r x => r.setPcv x.1 x.2) s.g.r
      inHandler := false, pend := .idle, kept := none, stall := .none } }

end Sys2Proof.Machine
end

