-- ==== Sys2Proof/Machine/Operands.lean ====
section
/-! DEFINITION. Operand forms of memory instructions: effective addresses (R24, R71), data registers
(R128), and the requests that lanes send to other devices (R364 to R367). -/

namespace Sys2Proof.Machine

/-- Bytes of an access (R71). -/
def szBytes (sz : BitVec 3) : Nat := 2 ^ sz.toNat

/-- R24: the address at a location with an exact sum; none with what %faultva gets under CANON. -/
def joinAddr (loc : BitVec 15) (base : BitVec 64) (extra : Int) : Option Nat × Nat :=
  let sum : Int := base.toNat + extra
  if 2 ^ 57 ≤ base.toNat ∨ sum < 0 ∨ 2 ^ 57 ≤ sum then (none, Config.canonAddr loc.toNat sum % 2 ^ 72)
  else
    let a := loc.toNat * 2 ^ 57 + sum.toNat
    if loc.toNat < 2 ^ 14 ∧ loc.toNat ≠ 0 then (none, a) else (some a, a)

/-- The scale of an index (R71). -/
def scaleOf (sc : BitVec 1) (size : Nat) : Int := if sc = 1#1 then size else 1

/-- The scaled index of an s-index form; X = 0 is no index (R71). -/
def sIndex (f : FM) (size : Nat) (rd : Nat → BitVec 64) : Int :=
  if f.x = 0#12 then 0 else (rd f.x.toNat).toInt * scaleOf f.sc size

/-- The scaled index of a v-index form in a lane; X = 0 is no index (R71). -/
def vIndex (f : FM) (size : Nat) (r : Regs) (lane : Nat) : Int :=
  if f.x = 0#12 then 0 else (r.getV f.x.toNat lane).toInt * scaleOf f.sc size

/-- The offset of an FMI form (R71). -/
def offOf (f : FM) (size : Nat) : Int := f.x.toInt * scaleOf f.sc size

/-- One lane's access at a location, base and offset. -/
def mkAcc (s : State) (lane : Nat) (loc : BitVec 15) (base : BitVec 64) (extra : Int) (size : Nat)
    (read write : Bool) (cls : Nat) : Acc :=
  { lane := lane, addr := (joinAddr loc base extra).1, bad := (joinAddr loc base extra).2,
    size := size, align := size, read := read, write := write, cls := cls, ctx := s.g.p.ctx,
    deny := cls == 15 && s.g.r.xctx != 0 }

/-- R31: the plain loads of class 15 read the executable pages of context %xctx. -/
def Acc.viaXctx (a : Acc) (s : State) : Acc :=
  if a.deny then { a with deny := false, fetch := true, ctx := s.g.r.xctx.toNat } else a

/-! ### Data registers (R128) -/

/-- The value of an s or sp data field. -/
def dataS (sz : BitVec 3) (d : BitVec 12) (rd : Nat → BitVec 64) : Nat :=
  if sz = 4#3 then (rd d.toNat).toNat + 2 ^ 64 * (rd (d.toNat + 1)).toNat
  else (rd d.toNat).toNat % 256 ^ szBytes sz

/-- The s fields that a data field reads. -/
def dataSrc (sz : BitVec 3) (d : BitVec 12) : List Nat :=
  if sz = 4#3 then [] else [d.toNat]

def Regs.loadS (r : Regs) (sz : BitVec 3) (d : BitVec 12) (v : Nat) : Regs :=
  if sz = 4#3 then
    (r.setS d.toNat (BitVec.ofNat 64 v)).setS (d.toNat + 1) (BitVec.ofNat 64 (v / 2 ^ 64))
  else r.setS d.toNat (BitVec.ofNat 64 v)

/-- The value of a v, vp or vq data field in a lane. -/
def Regs.dataV (r : Regs) (sz : BitVec 3) (d : BitVec 12) (lane : Nat) : Nat :=
  match sz.toNat with
  | 3 => (r.getV64 d.toNat lane).toNat
  | 4 => (r.getV64 d.toNat lane).toNat + 2 ^ 64 * (r.getV64 (d.toNat + 2) lane).toNat
  | _ => (r.getV d.toNat lane).toNat % 256 ^ szBytes sz

def Regs.loadV (r : Regs) (sz : BitVec 3) (d : BitVec 12) (lane v : Nat) : Regs :=
  match sz.toNat with
  | 3 => r.setV64 d.toNat lane (BitVec.ofNat 64 v)
  | 4 => (r.setV64 d.toNat lane (BitVec.ofNat 64 v)).setV64 (d.toNat + 2) lane
      (BitVec.ofNat 64 (v / 2 ^ 64))
  | _ => r.setV d.toNat lane (BitVec.ofNat 32 v)

def Regs.loadVs (r : Regs) (sz : BitVec 3) (d : BitVec 12) (l : List (Nat × Nat)) : Regs :=
  l.foldl (fun r x => r.loadV sz d x.1 x.2) r

/-! ### Requests to other devices -/

/-- What a lane asks of another device. -/
structure RemOp where
  lane : Nat
  addr : Nat
  v1 : Nat := 0
  v2 : Nat := 0
  deriving DecidableEq, Repr

/-- The head of the requests of one instruction (R365). -/
structure Head where
  type : Nat
  cls : Nat
  scope : Nat
  ord : Nat
  sz : Nat
  opc : Nat := 0
  kind : Nat := 0
  /-- one request for each word, not for each line -/
  byWord : Bool := false
  /-- the lanes of one word leave as one operand (FAO and RED, R365) -/
  combine : Bool := false
  count : Nat := 0
  limit : Nat := 200000
  /-- of a CHECK whose accesses are to follow: the instruction's number and 1, and 0 for another CHECK (log entry 59) -/
  mark : Nat := 0

/-- R240. -/
def State.lrid (s : State) (lane : Nat) : Nat :=
  s.devloc.toNat * 2 ^ 34 + s.g.p.id.block * 2 ^ 10 + s.g.p.id.group * 2 ^ 5 + lane

/-- Splits operations into those of one request each: one line of a device, or one word. -/
def groupOps (byWord : Bool) : Nat → List RemOp → List (List RemOp)
  | 0, _ => []
  | _, [] => []
  | n + 1, o :: os =>
    let same (x : RemOp) : Bool := if byWord then x.addr == o.addr else x.addr / 128 == o.addr / 128
    (o :: os.filter same) :: groupOps byWord n (os.filter fun x => !same x)

/-- The request message for some operations of one line or word (R365). -/
def State.mkMsg (s : State) (h : Head) (tag : Nat) (ops : List RemOp) : Msg :=
  let a := (ops.head?.map RemOp.addr).getD 0
  { type := h.type, dst := locOf a, src := s.devloc.toNat, ctx := s.g.p.ctx, addr := localOf a,
    cls := h.cls, scope := h.scope, ord := h.ord, sz := h.sz, opc := h.opc, kind := h.kind,
    rtag := { combined := false, hop := 0, entry := 0, stag := tag },
    lrid := s.lrid ((ops.head?.map RemOp.lane).getD 0), depth := 0, path := [],
    operand := if h.combine then
        ops.tail.foldl (fun x o => newWord h.opc (2 ^ h.sz) x o.v1) ((ops.head?.map RemOp.v1).getD 0)
      else h.mark,
    count := h.count,
    ops := ops.map fun o => (o.lane, localOf o.addr, o.v1 + o.v2 * 2 ^ 128),
    acks := if h.type = 0x0B ∧ h.kind = 1 then [(s.devloc.toNat, tag)] else [],
    trap := none, who := s.g.p.id, tile := none, here := none, routed := false }

/-- The far pointers that the current instruction has read from other devices (R139). -/
def Pend.stash : Pend → List (Nat × Nat)
  | .pointers v => v
  | .remote _ _ d => d
  | _ => []

/-- Sends one request for each group of operations and waits for the answers. -/
def State.sendReqs (s : State) (checking : Bool) (h : Head) (gs : List (List RemOp)) : State :=
  let reqs : List ReqOut := gs.zipIdx.map fun (ops, i) =>
    let tag := (s.fab.tag + i) % 2 ^ 20
    { tag := tag, msg := s.mkMsg h tag ops, lanes := ops.map RemOp.lane,
      deadline := s.gtime + h.limit, answer := none }
  { s with
    fab := { s.fab with tag := (s.fab.tag + gs.length) % 2 ^ 20,
                        out := s.fab.out ++ reqs.map ReqOut.msg }
    g := { s.g with pend := .remote checking reqs s.g.pend.stash } }

/-- The place of R133 of a fault that a target reports. -/
def trapRank (t : Trap) : Nat :=
  match t.cause with
  | .detv => 3 | .canon => 4 | .align => 5 | .owner => 7 | .rsvd => 8 | .page => 9
  | .watch => 12 | .faort => 13 | .fabric => 14 | .mchk => 15
  | .prot => match t.aux / 2 ^ 48 % 256 with
    | 1 => 10 | 0x0B => 10 | 6 => 11 | 7 => 11 | 8 => 11 | 9 => 11 | _ => 6
  | _ => 2

/-- FABRIC for the lowest lane whose answer was lost, with the lanes known done (R133, R367). -/
def fabricTrap (ops : List RemOp) (write : Bool) (lost done : List Nat) : Trap :=
  match ops.find? fun o => lost.contains o.lane with
  | some o => { cause := .fabric, va := o.addr, aux := memAux 0 (maskOf done) true write o.lane }
  | none => { cause := .fabric, va := 0, aux := 0 }

/-- The faults among the answers of requests for some operations: those of the targets, and FABRIC for the requests that
had no reply (R133, R367). -/
def reqFaults (ops : List RemOp) (write : Bool) (reqs : List ReqOut) : List Ranked :=
  reqs.filterMap fun q => match q.answer with
    | some (.fault t _) => some { rank := trapRank t, trap := t, lane := t.aux % 32 }
    | some .timeout =>
      let t := fabricTrap ops write q.lanes []
      some { rank := 14, trap := t, lane := t.aux % 32 }
    | _ => none

/-- A fault that comes after some lanes' accesses were performed, with those lanes in DONE (R133). -/
def withDone (t : Trap) (done : List Nat) : Trap :=
  { t with aux := t.aux - t.aux / 2 ^ 16 % 2 ^ 32 * 2 ^ 16 + maskOf done * 2 ^ 16 }

/-- Each lane's answer: a value, or none where no reply came. -/
def reqValues (reqs : List ReqOut) : List (Nat × Option Nat) :=
  reqs.flatMap fun q => q.lanes.map fun l =>
    (l, match q.answer with
      | some (.values vs) => some (((vs.find? fun x => x.1 == l).map Prod.snd).getD 0)
      | some (.fault _ vs) => (vs.find? fun x => x.1 == l).map Prod.snd
      | _ => none)

end Sys2Proof.Machine

namespace Sys2Proof

/-- The reply to a request (R364, R371): it retraces the request's path. -/
def Msg.reply (m : Msg) (src type : Nat) (ops : List (Nat × Nat × Nat)) (t : Option Trap) : Msg :=
  { (default : Msg) with
    type := type, dst := m.src, src := src, ctx := m.ctx, addr := m.addr, cls := m.cls, opc := m.opc,
    kind := m.kind, sz := m.sz, rtag := m.rtag, lrid := m.lrid, depth := m.depth, path := m.path,
    ops := ops, trap := t, who := m.who, here := m.here }

/-- The FAULT reply to a request; that to a SEND names it (R362, R367). -/
def Msg.faulted (m : Msg) (src : Nat) (t : Trap) : Msg :=
  if m.type = 0x20 then { m.reply src 0x1B [] (some t) with kind := 16, operand := m.count }
  else m.reply src 0x1B [] (some t)

end Sys2Proof

namespace Sys2Proof.Machine

/-- Gives a message to the fabric. -/
def State.post (s : State) (m : Msg) : State := { s with fab := { s.fab with out := s.fab.out ++ [m] } }

/-- The requests that waited only for one that is over are served (R366). -/
def State.afterWait (s : State) (x : PageWait) : State :=
  let mine (y : PageWait) : Bool := y.behind && y.msg.src == x.msg.src && y.msg.cls == x.msg.cls
  (s.pageWaits.filter mine).foldl (fun s y => s.later y.req) { s with pageWaits := s.pageWaits.filter fun y => !mine y }

/-- The head of the CHECK that precedes a request (R333): a read, or a write. -/
def Head.asCheck (h : Head) : Head :=
  { h with type := 0x0E, byWord := false, combine := false, limit := 200000,
           kind := if h.type = 8 then 0 else 1, opc := h.type, count := 0, mark := 0 }

/-- R334: a CHECK whose accesses are performed under the translation that it is given: the target holds their pages
until then. -/
def State.holdCheck (s : State) (h : Head) : Head := { h.asCheck with mark := s.tick + 1 }

/-- What other devices have answered: the values of the lanes that were served, and the fault that is left of those that
may come after accesses were performed (R133). -/
structure FarAnswer where
  vals : List (Nat × Nat)
  left : Option Trap

/-- The answers to an instruction's requests: a fault that leaves no lane performed, or what was served. -/
def farAnswer (ops : List RemOp) (write : Bool) (reqs : List ReqOut) : Except Stop FarAnswer :=
  let vals := (reqValues reqs).filterMap fun x => x.2.map fun v => (x.1, v)
  match worst (reqFaults ops write reqs) with
  | none => .ok { vals := vals, left := none }
  | some r => if r.rank < 13 then .error (.trap r.trap) else .ok { vals := vals, left := some r.trap }

/-- The exchange with other devices for one instruction. `twoPhase` checks every access at its
target before any is performed, so that a fault leaves no lane performed (R133). -/
def State.remote (s : State) (h : Head) (ops : List RemOp) (twoPhase : Bool) : Except Stop FarAnswer :=
  let gs := groupOps h.byWord ops.length ops
  match s.g.pend with
  | .remote checking reqs _ =>
    if reqs.any fun q => q.answer.isNone then .error (.wait .memory)
    else if checking then
      match worst (reqFaults ops (h.type != 8) reqs) with
      | some r => .error (.trap r.trap)
      | none => .error (.hold (s.sendReqs false h gs) .memory)
    else farAnswer ops (h.type != 8) reqs
  | _ =>
    if twoPhase then
      .error (.hold (s.sendReqs true (s.holdCheck h) (groupOps false ops.length ops)) .memory)
    else .error (.hold (s.sendReqs false h gs) .memory)

/-- The accesses that their targets on other devices check, whatever this device finds behind item 7 (R133, R386). -/
def State.farOps (s : State) (l : List Acc) : List RemOp :=
  l.filterMap fun a => match s.check { a.early with deny := false } with
    | .ok (.away x) => some { lane := a.lane, addr := x, v1 := a.size }
    | _ => none

/-- Checks the accesses of an instruction (R133). A fault of this device that one of another device could outrank waits
for the checks of the accesses that lie there, and then the one of highest precedence is reported. -/
def State.checkFar (s : State) (h : Head) (l : List Acc) : Except Stop (List Where) :=
  match s.checkAll l with
  | .ok ws => .ok ws
  | .error r =>
    let ops := s.farOps l
    if ops.isEmpty || r.rank < 8 then .error (.trap r.trap)
    else
      match s.g.pend with
      | .remote _ reqs _ =>
        if reqs.any fun q => q.answer.isNone then .error (.wait .memory)
        else
          match worst (r :: reqFaults ops (h.type != 8) reqs) with
          | some x => .error (.trap x.trap)
          | none => .error (.trap r.trap)
      | _ => .error (.hold (s.sendReqs true h.asCheck (groupOps false ops.length ops)) .memory)

/-- R133: a fault that is found here for an access on another device is reported unless the target's check of that
access finds one of higher precedence. -/
def State.orFarFault (s : State) (h : Head) (op : RemOp) (t : Trap) : Stop :=
  match s.g.pend with
  | .remote true reqs _ =>
    if reqs.any fun q => q.answer.isNone then .wait .memory
    else
      match worst ({ rank := trapRank t, trap := t, lane := op.lane } :: reqFaults [op] (h.type != 8) reqs) with
      | some x => .trap x.trap
      | none => .trap t
  | _ => .hold (s.sendReqs true h.asCheck [[op]]) .memory

end Sys2Proof.Machine
end

