-- ==== Sys2Proof/Machine/MemOps.lean ====
section
/-! DEFINITION. Loads, stores, cache forms, far-pointer forms and STF (R136 to R140). -/

namespace Sys2Proof.Machine

/-! ### Performing accesses -/

/-- The accesses that lie on this device, with their spans. -/
def herePart : List (Acc × Where) → List (Acc × List Span)
  | [] => []
  | (a, .here l) :: t => (a, l) :: herePart t
  | (_, .away _) :: t => herePart t

/-- The accesses that lie on other devices. -/
def awayPart : List (Acc × Where) → List (Acc × Nat)
  | [] => []
  | (_, .here _) :: t => awayPart t
  | (a, .away x) :: t => (a, x) :: awayPart t

/-- The result of reading: the lanes' values, the fault that is left when replies were lost, and
the state with A bits set. -/
structure Loaded where
  vals : List (Nat × Nat)
  lost : Option Trap
  st : State

/-- Reads accesses at their places. -/
def State.loadAt (s : State) (h : Head) (l : List (Acc × Where)) : Except Stop Loaded :=
  let here := herePart l
  let away := awayPart l
  let local_ := here.map fun x => (x.1.lane, s.readSpans x.2)
  let s' := s.touchAll (here.map Prod.fst)
  if away.isEmpty then .ok { vals := local_, lost := none, st := s' }
  else
    let ops : List RemOp := away.map fun x => { lane := x.1.lane, addr := x.2, v1 := x.1.size }
    match s.remote h ops false with
    | .error e => .error e
    | .ok a =>
      let vals := local_ ++ a.vals
      .ok { vals := vals, st := s', lost := a.left.map fun t => withDone t (vals.map Prod.fst) }

/-- Reads every access, or none (R133, R136). -/
def State.loadAll (s : State) (h : Head) (accs : List Acc) : Except Stop Loaded :=
  match s.checkFar h accs with
  | .error e => .error e
  | .ok ws =>
    match s.loadAt h (accs.zip ws) with
    | .error e => .error (e.keep ws)
    | .ok l => .ok l

/-- Writes accesses at their places: ascending lanes, so the highest lane's byte remains (R132). -/
def State.storeAt (s : State) (h : Head) (l : List ((Acc × Nat) × Where)) : Eff :=
  let here := l.filterMap fun x => match x.2 with | .here l => some (x.1, l) | .away _ => none
  let ops : List RemOp := l.filterMap fun x => match x.2 with
    | .away a => some { lane := x.1.1.lane, addr := a, v1 := x.1.2, v2 := x.1.1.size }
    | .here _ => none
  let put (s : State) : State := here.foldl (fun s x => (s.touch x.1.1).writeSpans x.2 x.1.2) s
  if ops.isEmpty then .ok (put s)
  else
    match s.remote h ops (!(here.isEmpty && (groupOps h.byWord ops.length ops).length == 1)) with
    | .error e => .error e
    | .ok a =>
      match a.left with
      | none => .ok (put s)
      | some t => .error (.trapIn (put s) (withDone t ((here.map fun x => x.1.1.lane) ++ a.vals.map Prod.fst)))

/-- Writes every access, or none (R133, R136). -/
def State.storeAll (s : State) (h : Head) (accs : List (Acc × Nat)) : Eff :=
  match s.checkFar h (accs.map Prod.fst) with
  | .error e => .error e
  | .ok ws =>
    match s.storeAt h (accs.zip ws) with
    | .error e => .error (e.keep ws)
    | .ok t => .ok t

/-- Finishes a load: the lanes that have values write them, and a lost reply faults after that. -/
def finishLoad (l : Loaded) (f : List (Nat × Nat) → Regs → Regs) : Eff :=
  match l.lost with
  | none => .ok (l.st.mapR (f l.vals))
  | some t => .error (.trapIn (l.st.mapR (f l.vals)) t)

/-- The head of a read or write request (R364). -/
def plainHead (write : Bool) (c : BitVec 4) (sz : BitVec 3) (scope ord : Nat) : Head :=
  { type := if write then 9 else 8, cls := c.toNat, scope := scope, ord := ord, sz := sz.toNat }

/-- The lowest of the active lanes, at which a single-effect form is performed (R132). -/
def lowest (act : List Nat) : Nat := act.head?.getD 0

/-- A scalar load at an offset from the base (LD, LDI, LDO). -/
def State.loadScalar (s : State) (f : FM) (len : Nat) (srcs : List Nat) (xorg : Bool)
    (scope ord : Nat) (off : (Nat → BitVec 64) → Int) : State :=
  s.issue f.g len ([f.a.toNat] ++ srcs) fun act rd s =>
    let n := szBytes f.sz
    let a := mkAcc s (lowest act) (s.g.r.getN f.n.toNat) (rd f.a.toNat) (off rd) n true false f.c.toNat
    match s.loadAll (plainHead false f.c f.sz scope ord) [if xorg then a.viaXctx s else a] with
    | .error e => .error e
    | .ok l => finishLoad l fun vals r =>
        match vals with
        | (_, v) :: _ => r.loadS f.sz f.d v
        | [] => r

/-- A scalar store at an offset from the base (ST, STI, STO). -/
def State.storeScalar (s : State) (f : FM) (len : Nat) (srcs : List Nat) (scope ord : Nat)
    (off : (Nat → BitVec 64) → Int) : State :=
  s.issue f.g len ([f.a.toNat] ++ srcs ++ dataSrc f.sz f.d) fun act rd s =>
    let n := szBytes f.sz
    let a := mkAcc s (lowest act) (s.g.r.getN f.n.toNat) (rd f.a.toNat) (off rd) n false true f.c.toNat
    s.storeAll (plainHead true f.c f.sz scope ord) [(a, dataS f.sz f.d rd)]

/-- A vector load, one access per active lane (VLD, VLDI, VLDC, VLDO). -/
def State.loadVector (s : State) (f : FM) (len : Nat) (srcs : List Nat) (xorg : Bool)
    (scope ord : Nat) (off : (Nat → BitVec 64) → Nat → Int) : State :=
  s.issue f.g len ([f.a.toNat] ++ srcs) fun act rd s =>
    let n := szBytes f.sz
    let accs := act.map fun l =>
      let a := mkAcc s l (s.g.r.getN f.n.toNat) (rd f.a.toNat) (off rd l) n true false f.c.toNat
      if xorg then a.viaXctx s else a
    match s.loadAll (plainHead false f.c f.sz scope ord) accs with
    | .error e => .error e
    | .ok l => finishLoad l fun vals r => r.loadVs f.sz f.d vals

/-- A vector store, one access per active lane (VST, VSTI, VSTC, VSTO). -/
def State.storeVector (s : State) (f : FM) (len : Nat) (srcs : List Nat) (scope ord : Nat)
    (off : (Nat → BitVec 64) → Nat → Int) : State :=
  s.issue f.g len ([f.a.toNat] ++ srcs) fun act rd s =>
    let n := szBytes f.sz
    let accs := act.map fun l =>
      (mkAcc s l (s.g.r.getN f.n.toNat) (rd f.a.toNat) (off rd l) n false true f.c.toNat,
       s.g.r.dataV f.sz f.d l)
    s.storeAll (plainHead true f.c f.sz scope ord) accs

/-- The s index field of a form, when it has an index. -/
def xSrc (f : FM) : List Nat := if f.x = 0#12 then [] else [f.x.toNat]

/-! ### Plain forms (R136) -/

def execLd (f : FM) (s : State) : Out :=
  .next (s.loadScalar f 8 (xSrc f) true 0 0 fun rd => sIndex f (szBytes f.sz) rd)
def execLdi (f : FM) (s : State) : Out :=
  .next (s.loadScalar f 8 [] true 0 0 fun _ => offOf f (szBytes f.sz))
def execSt (f : FM) (s : State) : Out :=
  .next (s.storeScalar f 8 (xSrc f) 0 0 fun rd => sIndex f (szBytes f.sz) rd)
def execSti (f : FM) (s : State) : Out :=
  .next (s.storeScalar f 8 [] 0 0 fun _ => offOf f (szBytes f.sz))
def execVld (f : FM) (s : State) : Out :=
  .next (s.loadVector f 8 [] true 0 0 fun _ l => vIndex f (szBytes f.sz) s.g.r l)
def execVldi (f : FM) (s : State) : Out :=
  .next (s.loadVector f 8 [] true 0 0 fun _ _ => offOf f (szBytes f.sz))
def execVst (f : FM) (s : State) : Out :=
  .next (s.storeVector f 8 [] 0 0 fun _ l => vIndex f (szBytes f.sz) s.g.r l)
def execVsti (f : FM) (s : State) : Out :=
  .next (s.storeVector f 8 [] 0 0 fun _ _ => offOf f (szBytes f.sz))
def execVldc (f : FM) (s : State) : Out :=
  .next (s.loadVector f 8 (xSrc f) true 0 0 fun rd l =>
    sIndex f (szBytes f.sz) rd + l * szBytes f.sz)
def execVstc (f : FM) (s : State) : Out :=
  .next (s.storeVector f 8 (xSrc f) 0 0 fun rd l =>
    sIndex f (szBytes f.sz) rd + l * szBytes f.sz)

/-- R137: no value changes but that the walks of the addresses set A (R330); an address that cannot be translated is
skipped, and one in a window has no effect (R130). The queue registers that the form names are popped. -/
def State.cacheForm (s : State) (f : FM) (srcs : List Nat) (index : (Nat → BitVec 64) → Nat → Int) : State :=
  s.issue f.g 8 ([f.a.toNat] ++ srcs) fun act rd s =>
    .ok (s.touchAll ((act.map fun l =>
      mkAcc s l (s.g.r.getN f.n.toNat) (rd f.a.toNat) (index rd l) 1 true false f.c.toNat).filter fun a =>
        match a.addr with | some x => decide (localOf x < winPrivate) | none => false))

def execPld (f : FM) (s : State) : Out := .next (s.cacheForm f [] fun _ l => vIndex f 1 s.g.r l)
def execCwb (f : FM) (s : State) : Out := .next (s.cacheForm f (xSrc f) fun rd _ => sIndex f 1 rd)
def execCinv (f : FM) (s : State) : Out := .next (s.cacheForm f (xSrc f) fun rd _ => sIndex f 1 rd)

/-! ### Scoped forms (R138) -/

def execLdo (f : FM) (w : W1) (s : State) : Out :=
  .next (s.loadScalar f 16 (xSrc f) false w.scope.toNat w.ord.toNat fun rd =>
    sIndex f (szBytes f.sz) rd + w.imm.toInt)
def execSto (f : FM) (w : W1) (s : State) : Out :=
  .next (s.storeScalar f 16 (xSrc f) w.scope.toNat w.ord.toNat fun rd =>
    sIndex f (szBytes f.sz) rd + w.imm.toInt)
def execVldo (f : FM) (w : W1) (s : State) : Out :=
  .next (s.loadVector f 16 [] false w.scope.toNat w.ord.toNat fun _ l =>
    vIndex f (szBytes f.sz) s.g.r l + w.imm.toInt)
def execVsto (f : FM) (w : W1) (s : State) : Out :=
  .next (s.storeVector f 16 [] w.scope.toNat w.ord.toNat fun _ l =>
    vIndex f (szBytes f.sz) s.g.r l + w.imm.toInt)

/-! ### Far pointers (R27, R139) -/

/-- R27: the location and local address of a far pointer, when every must-be-zero bit is clear. -/
def farPtr (v : Nat) : Option (BitVec 15 × BitVec 64) :=
  if 2 ^ 79 ≤ v ∨ 2 ^ 57 ≤ v % 2 ^ 64 then none
  else some (BitVec.ofNat 15 (v / 2 ^ 64), BitVec.ofNat 64 v)

/-- The pointer reads of the active lanes. -/
def farAccs (s : State) (f : FM) (w : W1) (act : List Nat) (rd : Nat → BitVec 64) : List Acc :=
  act.map fun l =>
    mkAcc s l (s.g.r.getN f.n.toNat) (rd f.a.toNat)
      ((if f.x = 0#12 then 0
        else (s.g.r.getV f.x.toNat l).toInt * (if f.sc = 1#1 then 16 else 1)) + w.imm.toInt)
      16 true false f.c.toNat

/-- The target access of a lane through its far pointer `v`; CANON at the pointer's own address when
the pointer breaks R27. -/
def targetAcc (s : State) (f : FM) (w : W1) (write : Bool) (p : Acc) (v : Nat) : Acc :=
  let off : Int := if w.e1 = 0#12 then 0 else (s.g.r.getV w.e1.toNat p.lane).toInt
  match farPtr v with
  | some (loc, base) => mkAcc s p.lane loc base off (szBytes f.sz) (!write) write f.c.toNat
  | none => { mkAcc s p.lane 0 0 0 (szBytes f.sz) (!write) write f.c.toNat with
      addr := none, bad := p.addr.getD 0 }

/-- What stands before the far pointers that an instruction keeps: a lane number that no lane has. -/
def ptrMark : Nat × Nat := (32, 0)

/-- The places of accesses, or their faults, from those that an instruction has kept on. -/
def State.placesFrom (s : State) (from_ : Nat) (l : List Acc) : List (Acc × Except Ranked Where) :=
  l.zipIdx.map fun (a, i) => (a, s.checkNth (from_ + i) a)

/-- The accesses that passed their checks, and the faults of the others. -/
def passed (l : List (Acc × Except Ranked Where)) : List (Acc × Where) :=
  l.filterMap fun x => match x.2 with | .ok w => some (x.1, w) | .error _ => none

def failed (l : List (Acc × Except Ranked Where)) : List Ranked :=
  l.filterMap fun x => match x.2 with | .error r => some r | .ok _ => none

/-- The places to keep, when every access has one. -/
def keptOf (l : List (Acc × Except Ranked Where)) (e : Stop) : Stop :=
  if (failed l).isEmpty then e.keep ((passed l).map Prod.snd) else e

/-- The pointers' values by lane. Pointers on other devices are fetched first; values that the instruction has kept are
not read again. -/
def State.farVals (s : State) (f : FM) (w : W1) (ps : List (Acc × Except Ranked Where)) :
    Except Stop (List (Nat × Nat)) :=
  let oks := passed ps
  let local_ := (herePart oks).map fun x => (x.1.lane, s.readSpans x.2)
  let ops : List RemOp := (awayPart oks).map fun x => { lane := x.1.lane, addr := x.2, v1 := 16 }
  if !s.g.pend.stash.isEmpty then .ok s.g.pend.stash
  else if ops.isEmpty then .ok local_
  else
    match s.g.pend with
    | .remote _ reqs _ =>
      if reqs.any fun q => q.answer.isNone then .error (.wait .memory)
      else
        let got := ptrMark :: local_ ++ (reqValues reqs).filterMap fun x => x.2.map fun v => (x.1, v)
        let bad := reqs.filter fun q => match q.answer with | some (.values _) => false | _ => true
        .error (.hold { s with g := { s.g with
          pend := if bad.isEmpty then .pointers got else .remote true bad got } } .memory)
    | _ => .error (.hold (s.sendReqs false (plainHead false f.c 4#3 w.scope.toNat w.ord.toNat)
        (groupOps false ops.length ops)) .memory)

/-- The faults that other devices have answered, and FABRIC for a pointer read or a check that none answered (R133,
R367); those of the target accesses themselves are taken where they are made. -/
def Pend.farFaults (ops : List RemOp) (write : Bool) : Pend → List Ranked
  | .remote true reqs _ => reqs.flatMap fun q =>
      if q.msg.type == 8 then reqFaults (q.msg.ops.map fun o =>
        { lane := o.1, addr := q.msg.dst * 2 ^ 57 + o.2.1 }) false [q]
      else reqFaults ops write [q]
  | _ => []

/-- Whether the targets on other devices have been asked, by their checks or by the accesses themselves. -/
def Pend.farAsked : Pend → Bool
  | .remote c reqs _ => !c || reqs.any fun q => q.msg.type == 0x0E
  | _ => false

/-- Keeps the pointers' values while the targets are accessed. -/
def State.keepPtrs (s : State) (vals : List (Nat × Nat)) : State :=
  if s.g.pend.stash.isEmpty then { s with g := { s.g with pend := .pointers (ptrMark :: vals) } } else s

/-- The target accesses of the lanes, or the fault that R133 reports over both accesses of all lanes, on this device and
on others. -/
def State.farTargets (s : State) (f : FM) (w : W1) (write : Bool) (accs : List Acc) :
    Except Stop (State × List (Acc × Where) × List (Acc × Where)) :=
  let ps := s.placesFrom 0 accs
  match s.farVals f w ps with
  | .error e => .error (keptOf ps e)
  | .ok vals =>
    let ts := s.placesFrom accs.length (accs.filterMap fun p =>
      (vals.find? fun x => x.1 == p.lane).map fun x => targetAcc s f w write p x.2)
    let ops := s.farOps (ts.map Prod.fst)
    match worst (failed ps ++ failed ts ++ s.g.pend.farFaults ops write) with
    | none => .ok (if ops.isEmpty then s else s.keepPtrs vals, passed ps, passed ts)
    | some r =>
      let reqs := match s.g.pend with | .remote _ reqs _ => reqs | _ => []
      if reqs.any fun q => q.answer.isNone then .error (.wait .memory)
      else if s.g.pend.farAsked || ops.isEmpty || r.rank < 8 then .error (.trap r.trap)
      else
        let h := plainHead write f.c f.sz w.scope.toNat w.ord.toNat
        let s1 := (s.keepPtrs vals).sendReqs true h.asCheck (groupOps false ops.length ops)
        .error (keptOf ps (.hold { s1 with g := { s1.g with pend := match s1.g.pend with
          | .remote c l d => .remote c (reqs ++ l) d
          | p => p } } .memory))

def execNld (f : FM) (w : W1) (s : State) : Out :=
  .next (s.issue f.g 16 [f.a.toNat] fun act rd s =>
    let ps := farAccs s f w act rd
    match s.farTargets f w false ps with
    | .error e => .error e
    | .ok (s, pl, tl) =>
      match s.loadAt (plainHead false f.c f.sz w.scope.toNat w.ord.toNat) tl with
      | .error e => .error (e.keep ((pl ++ tl).map Prod.snd))
      | .ok l => finishLoad { l with st := l.st.touchAll ps } fun vals r => r.loadVs f.sz f.d vals)

def execNst (f : FM) (w : W1) (s : State) : Out :=
  .next (s.issue f.g 16 [f.a.toNat] fun act rd s =>
    let ps := farAccs s f w act rd
    match s.farTargets f w true ps with
    | .error e => .error e
    | .ok (s, pl, tl) =>
      match (s.touchAll ps).storeAt (plainHead true f.c f.sz w.scope.toNat w.ord.toNat)
          (tl.map fun x => ((x.1, s.g.r.dataV f.sz f.d x.1.lane), x.2)) with
      | .error e => .error (e.keep ((pl ++ tl).map Prod.snd))
      | .ok t => .ok t)

/-! ### STF (R140, R368) -/

/-- Adds 1 to a flag at its home slice (R140). -/
def State.bumpFlag (s : State) (l : List Span) : State := s.writeSpans l (s.readSpans l + 1)

/-- The flag access, at location nN and reported as the lowest active lane's. -/
def flagAcc (s : State) (f : FM) (act : List Nat) (v : BitVec 64) : Acc :=
  { mkAcc s (lowest act) (s.g.r.getN f.n.toNat) v 0 8 true true f.c.toNat with
      win := .globalOnly, host := false }

def execStf (f : FM) (w : W1) (s : State) : Out :=
  .next (s.issue f.g 16 [f.a.toNat, w.e1.toNat] fun act rd s =>
    let n := szBytes f.sz
    let accs := act.map fun l =>
      ({ mkAcc s l (s.g.r.getN f.n.toNat) (rd f.a.toNat)
          (vIndex f n s.g.r l + w.imm.toInt) n false true f.c.toNat with
            win := .globalOnly, host := false },
       s.g.r.dataV f.sz f.d l)
    let flag := flagAcc s f act (rd w.e1.toNat)
    let h : Head := { type := 0x0A, cls := f.c.toNat, scope := w.scope.toNat, ord := w.ord.toNat, sz := f.sz.toNat }
    match s.checkFar h (accs.map Prod.fst ++ [flag]) with
    | .error e => .error e
    | .ok ws =>
      let here := (accs.zip ws).filterMap fun x => match x.2 with
        | .here l => some (x.1, l) | .away _ => none
      match ws.getLast? with
      | some (.here l) =>
        .ok (((here.foldl (fun s x => (s.touch x.1.1).writeSpans x.2 x.1.2) s).touch flag).bumpFlag l)
      | _ =>
        -- one STF message carries every lane's store and the flag's address
        let ops : List RemOp := accs.map fun x =>
          { lane := x.1.lane, addr := x.1.addr.getD 0, v1 := x.2, v2 := n }
        match s.g.pend with
        | .remote _ reqs _ =>
          if reqs.any fun q => q.answer.isNone then .error (.wait .memory)
          else
            match worst (reqFaults ops true reqs) with
            | some r => .error (.trap r.trap)
            | none => .ok s
        | _ =>
          let fa : RemOp := { lane := lowest act, addr := flag.addr.getD 0 }
          .error (Stop.keep ws (.hold (s.sendReqs false h [fa :: ops]) .memory)))

end Sys2Proof.Machine
end

