-- ==== Sys2Proof/Machine/Atomics.lean ====
section
/-! DEFINITION. The atomics (R143 to R148), the waves of DET (R33) and the ordered sets of FAOR (R146,
R147). -/

namespace Sys2Proof.Machine
open Sys2Proof.Num

/-- A group waits while its log is extended (R396). -/
def State.logWait (s : State) : Stop :=
  .hold { s with g := { s.g with pend := .log false } } .fault

/-- Performs one lane's atomic: the old word, and the state after it (R145). -/
def State.atomic (s : State) (o : AtomicOp) : Nat × State :=
  let w := s.readSpans o.spans
  match o.cmp with
  | none => (w, s.writeSpans o.spans (newWord o.opc o.size w o.x))
  | some c => (w, if w = c then s.writeSpans o.spans o.x else s)

/-- Performs atomics one after another: the lanes' old words, and the state. -/
def State.atomics (s : State) : List AtomicOp → List (Nat × Nat) × State
  | [] => ([], s)
  | o :: os =>
    let r := s.atomic o
    let rest := r.2.atomics os
    ((o.lane, r.1) :: rest.1, rest.2)

/-! ### Waves (R33) -/

/-- What stands before the results of a wave's operations on this device while those on other devices are under way: a
lane number that no lane has, and the wave. -/
def waveMark (k : Nat) : Nat × Nat := (33, k)

/-- The wave whose operations on other devices a group has under way. -/
def Pend.farWave : Pend → Option Nat
  | .remote false _ ((33, k) :: _) => some k
  | _ => none

/-- Whether another group of the block lets wave k go: it has issued its k-th wave atomic, has ended,
or waits in BARW. -/
def Group.letsWave (g : Group) (k : Nat) : Bool :=
  g.ended || g.stall == .barrier || decide (k ≤ g.det.count) ||
  (match g.pend with
   | .wave j _ _ => decide (k ≤ j)
   | p => match p.farWave with | some j => decide (k ≤ j) | none => false)

/-- Whether a group has been released in wave k and has not completed in it. -/
def Group.inTurn (g : Group) (k : Nat) : Bool :=
  (match g.pend with | .wave j _ (some _) => j == k | p => p.farWave == some k) && decide (g.det.count < k)

/-- Performs the operations of one group's wave and keeps their results for it. -/
def State.applyWave (s : State) (who : GRef) (k : Nat) : State :=
  match s.findGroup who with
  | none => s
  | some g =>
    match g.pend with
    | .wave j ops none =>
      if j = k then
        let r := s.atomics ops
        r.2.updGroup who fun g => { g with pend := .wave k ops (some r.1) }
      else s
    | _ => s

/-- The groups of the focus group's block, in ascending index. -/
def State.blockGroups (s : State) : List Group :=
  sortBy (fun a b => decide (a.p.id.group ≤ b.p.id.group)) (s.groups.filter fun g =>
    g.p.id.launch == s.g.p.id.launch && g.p.id.block == s.g.p.id.block)

/-- Releases wave k of the focus group's block when every other group lets it (R33). -/
def State.releaseWave (s : State) (k : Nat) : State :=
  if s.blockGroups.all fun g => g.p.id == s.g.p.id || g.letsWave k then
    (s.blockGroups.map fun g => g.p.id).foldl (fun s who => s.applyWave who k) s
  else s

/-- Counts the focus group's wave atomic as executed (R33). -/
def State.countWave (s : State) (k : Nat) : State := { s with g := { s.g with det := { s.g.det with count := k } } }

/-- Waits for the focus group's next wave, and then gives the results of its operations there. -/
def State.waveResults (s : State) (ops : List AtomicOp) : Except Stop (List (Nat × Nat) × State) :=
  let k := s.g.det.count + 1
  let s1 := match s.g.pend with
    | .wave _ _ _ => s
    | _ => { s with g := { s.g with pend := .wave k ops none } }
  let s2 := match s1.g.pend with
    | .wave _ _ (some _) => s1
    | _ => s1.releaseWave k
  match s2.g.pend with
  | .wave _ _ (some r) =>
    .ok (r, s2)
  | _ => .error (.hold s2 .detwave)

/-- Serves the operations of a block-scope value-returning atomic under DET, in its wave. -/
def State.inWave (s : State) (ops : List AtomicOp) : Except Stop (List (Nat × Nat) × State) :=
  match s.waveResults ops with
  | .error e => .error e
  | .ok (r, t) => .ok (r, t.countWave (s.g.det.count + 1))

/-- R33 over devices: the operations of a wave on this device are performed at its release, in group order; those on other
devices follow, one group after another in that order. Every access has been checked at its target first. -/
def State.inWaveFar (s : State) (h : Head) (rops : List RemOp) (ops : List AtomicOp) :
    Except Stop (FarAnswer × State) :=
  let k := s.g.det.count + 1
  let join (s : State) : Except Stop (FarAnswer × State) :=
    match s.waveResults ops with
    | .error e => .error e
    | .ok (r, s) =>
      if s.blockGroups.any fun g => decide (g.p.id.group < s.g.p.id.group) && g.inTurn k then
        .error (.hold { s with g := { s.g with pend := .wave k ops (some r) } } .detwave)
      else
        let s1 := s.sendReqs false h (groupOps h.byWord rops.length rops)
        .error (.hold { s1 with g := { s1.g with pend := match s1.g.pend with
          | .remote c l _ => .remote c l (waveMark k :: r)
          | p => p } } .memory)
  match s.g.pend with
  | .wave _ _ _ => join s
  | .remote true reqs _ =>
    if reqs.any fun q => q.answer.isNone then .error (.wait .memory)
    else match worst (reqFaults rops true reqs) with
      | some r => .error (.trap r.trap)
      | none => join s
  | .remote false reqs ((33, _) :: near) =>
    if reqs.any fun q => q.answer.isNone then .error (.wait .memory)
    else match farAnswer rops true reqs with
      | .error e => .error e
      | .ok a => .ok ({ a with vals := near ++ a.vals }, s.countWave k)
  | _ => .error (.hold (s.sendReqs true (s.holdCheck h) (groupOps false rops.length rops)) .memory)

/-! ### FAO, RED and CAS (R145, R148) -/

/-- What an atomic form asks of each lane. -/
structure AtomicForm where
  returns : Bool
  kind : Nat
  opc : Nat
  logKind : Nat
  x : Nat → Nat
  cmp : Nat → Option Nat

/-- The access of a lane of an atomic form. -/
def atomicAcc (s : State) (f : FM) (w : W1) (base : BitVec 64) (lane : Nat) : Acc :=
  { mkAcc s lane (s.g.r.getN f.n.toNat) base (vIndex f (szBytes f.sz) s.g.r lane + w.imm.toInt)
      (szBytes f.sz) true true f.c.toNat with win := .noPrivate, host := false }

/-- Writes the old words of a value-returning form, and logs them. -/
def State.giveOld (s : State) (f : FM) (form : AtomicForm) (vals : List (Nat × Nat)) : State :=
  if form.returns then
    (s.mapR fun r => r.loadVs f.sz f.d vals).logAll (logLanes form.logKind (szBytes f.sz) vals)
  else s

/-- The effect of FAO, RED and CAS on the active lanes. -/
def State.atomicForm (s : State) (f : FM) (w : W1) (form : AtomicForm) (base : BitVec 64)
    (act : List Nat) : Eff :=
  let accs := act.map fun l => atomicAcc s f w base l
  if form.returns && s.g.u.det && decide (2 ≤ w.scope.toNat) then
    let va := match accs with | a :: _ => a.addr.getD a.bad | [] => 0
    .error (.trap { cause := .detv, va := va, aux := memAux 0 0 (!s.isLocal va) true (lowest act) })
  else
    let h : Head := {
      type := 0x0B, cls := f.c.toNat, scope := w.scope.toNat,
      ord := w.ord.toNat, sz := f.sz.toNat, opc := form.opc, kind := form.kind,
      byWord := true, combine := form.kind != 2 }
    match s.checkFar h accs with
    | .error e => .error e
    | .ok ws =>
      if form.returns && s.logFull then .error s.logWait
      else if form.returns && s.replaying then
        .ok ((s.mapR fun r => r.loadVs f.sz f.d (act.filterMap fun l =>
          (s.logLane form.logKind (szBytes f.sz) l).map fun v => (l, v))).logSkip)
      else
        let here := herePart (accs.zip ws)
        let away := awayPart (accs.zip ws)
        let ops : List AtomicOp := here.map fun x =>
          { lane := x.1.lane, spans := x.2, size := szBytes f.sz, opc := form.opc,
            x := form.x x.1.lane, cmp := form.cmp x.1.lane }
        let touched := s.touchAll (here.map Prod.fst)
        let wave := form.returns && s.g.u.det
        if away.isEmpty then
          if wave then
            match touched.inWave ops with
            | .error e => .error (e.keep ws)
            | .ok (vals, s') => .ok (s'.giveOld f form vals)
          else let r := touched.atomics ops; .ok (r.2.giveOld f form r.1)
        else
          let rops : List RemOp := away.map fun x =>
            { lane := x.1.lane, addr := x.2, v1 := form.x x.1.lane,
              v2 := (form.cmp x.1.lane).getD 0 }
          let one := here.isEmpty && (groupOps true rops.length rops).length == 1
          let done : Except Stop (FarAnswer × State) :=
            if wave then touched.inWaveFar h rops ops
            else match s.remote h rops (!one) with
              | .error e => .error e
              | .ok a => let r := touched.atomics ops; .ok ({ a with vals := r.1 ++ a.vals }, r.2)
          match done with
          | .error e => .error (e.keep ws)
          | .ok (a, s') =>
            match a.left with
            | none => .ok (s'.giveOld f form a.vals)
            | some t => .error (.trapIn (s'.giveOld f form a.vals) (withDone t (a.vals.map Prod.fst)))

def execFao (f : FM) (w : W1) (s : State) : Out :=
  .next (s.issue f.g 16 [f.a.toNat] fun act rd s =>
    s.atomicForm f w
      { returns := true, kind := 0, opc := w.e2.toNat % 16, logKind := 0,
        x := fun l => s.g.r.dataV f.sz w.e1 l, cmp := fun _ => none } (rd f.a.toNat) act)

/-- R145: the operand of a RED; STY F32 converts by Anchor. -/
def redOperand (f : FM) (w : W1) (anchor : Int) (r : Regs) (l : Nat) : Nat :=
  if w.e2.toNat / 16 = 10 then
    let bits := 8 * szBytes f.sz
    codeOf (anchorInt .rne (decodeTy 10 0 32 (r.getV w.e1.toNat l).toNat) anchor bits) bits
  else r.dataV f.sz w.e1 l

def execRed (f : FM) (w : W1) (s : State) : Out :=
  .next (s.issue f.g 16 ([f.a.toNat] ++ (if w.e2.toNat / 16 = 10 then [f.d.toNat] else []))
    fun act rd s =>
      let anchor := anchorOf16 (rd f.d.toNat)
      s.atomicForm f w
        { returns := false, kind := 1, opc := w.e2.toNat % 16, logKind := 0,
          x := redOperand f w anchor s.g.r, cmp := fun _ => none } (rd f.a.toNat) act)
where
  /-- Signed16 of bits [15:0] (R145). -/
  anchorOf16 (b : BitVec 64) : Int := (b.extractLsb' 0 16).toInt

def execCas (f : FM) (w : W1) (s : State) : Out :=
  .next (s.issue f.g 16 [f.a.toNat] fun act rd s =>
    s.atomicForm f w
      { returns := true, kind := 2, opc := 0, logKind := 2,
        x := fun l => s.g.r.dataV f.sz w.e2 l,
        cmp := fun l => some (s.g.r.dataV f.sz w.e1 l) } (rd f.a.toNat) act)

/-! ### Ordered sets (R146, R147) -/

/-- The HBM4 stack of a physical address (R313). -/
def stackOf (pa : Nat) : Nat := Config.stackOfFrame (pa / 4096) % 12

/-- The die of a physical address (R313). -/
def dieOfPa (pa : Nat) : Nat := stackOf pa / 3

/-- The die that homes a line of device memory; the hub serves a line of host memory, and never sleeps (R322). -/
def homeDie (pa : Nat) : Option Nat := if paHost ≤ pa then none else some (dieOfPa pa)

/-- The home slice of a physical address (R322): of the 48 of its die, or the hub, after the 192 of the dies. -/
def sliceOf (pa : Nat) : Nat :=
  match homeDie pa with
  | some d => 48 * d + Config.sliceHash (pa / 128) % 48
  | none => 192

/-- A device queue. -/
def State.queueOf (s : State) (q : Nat) : DQueue := SMap.get default s.queues q

/-- The physical address of a queue's control block (R335). -/
def State.cbAt (s : State) (q : Nat) : Nat := s.queueTable + 64 * q

/-- R337: the control-block lines of a slice that wait for the watch of their desk. -/
def State.cbLines (s : State) (slice : Nat) : Nat :=
  ((List.range 32).filter fun i =>
    ((s.queueOf (2 * i)).enable || (s.queueOf (2 * i + 1)).enable) && sliceOf (s.cbAt (2 * i)) == slice &&
      !(s.shelf.any fun e => e.wake == some (.deviceQueueWake (2 * i)))).length

/-- The reply to an FAOR request of another device, once every member has its result (R372): VALUE, or
FAULT with the prefixes of the members that were served (R147). -/
def State.faorReply (s : State) (x : FaorIn) : State :=
  if x.results.length < x.msg.ops.length then s
  else
    let s1 := { s with faorIn := s.faorIn.filter fun y =>
                  !(y.msg.src == x.msg.src && y.msg.rtag == x.msg.rtag) }
    let served : List (Nat × Nat × Nat) := x.results.filterMap fun r => r.2.map fun v => (r.1, v, 0)
    if x.results.all fun r => r.2.isSome then s1.post (x.msg.reply s.devloc.toNat 0x1A served none)
    else s1.post (x.msg.reply s.devloc.toNat 0x1B served
      (some { cause := .faort, va := s.devloc.toNat * 2 ^ 57 + x.msg.addr, aux := 2 ^ 15 + 2 ^ 14 }))

/-- Gives a member its result: the old word, or none for FAORT. -/
def State.faorGive (s : State) (m : SetMember) (res : Option Nat) : State :=
  match m.msg with
  | none => s.updGroup m.who fun g =>
      match g.pend with
      | .faor l => { g with pend := .faor (l.map fun x => if x.1 = m.lane then (x.1, some res) else x) }
      | _ => g
  | some q =>
    match s.faorIn.find? fun x => x.msg.src == q.src && x.msg.rtag == q.rtag with
    | none => s
    | some x =>
      let y := { x with results := x.results ++ [(m.lane, res)] }
      ({ s with faorIn := s.faorIn.map fun z =>
          if z.msg.src = q.src ∧ z.msg.rtag = q.rtag then y else z } : State).faorReply y

/-- The word that each member of a set is given, in the order of service, and the word after all of them. -/
def servedWords (opc size : Nat) : Nat → List SetMember → List (SetMember × Nat) × Nat
  | w, [] => ([], w)
  | w, m :: ms =>
    let rest := servedWords opc size (newWord opc size w m.operand) ms
    ((m, w) :: rest.1, rest.2)

/-- Serves a full set in ascending LRID, as one indivisible step: one write of the word (R146). -/
def State.serveSet (s : State) (o : OrderedSet) : State :=
  let ms := sortBy (fun a b => decide (a.lrid ≤ b.lrid)) o.members
  let spans := memSpan o.pa o.size
  let r := servedWords o.opc o.size (s.readSpans spans) ms
  r.1.foldl (fun s x => s.faorGive x.1 (some x.2)) (s.writeSpans spans r.2)

/-- One attempt to join: false when the member must wait (R146, R147). -/
def State.tryJoin (s : State) (j : SetJoin) : Bool × State :=
  match s.sets.find? fun o => o.pa == j.pa with
  | none =>
    if 64 ≤ (s.sets.filter fun o => o.slice == sliceOf j.pa).length then (false, s)
    else
      let o : OrderedSet := {
        slice := sliceOf j.pa, pa := j.pa, size := j.size, opc := j.opc,
        p := j.p, members := [j.member], deadline := j.since + 1000000 }
      if j.p = 1 then (true, s.serveSet o) else (true, { s with sets := s.sets ++ [o] })
  | some o =>
    if o.opc ≠ j.opc ∨ o.size ≠ j.size ∨ o.p ≠ j.p then (true, s.faorGive j.member none)
    else if o.members.any fun m => m.lrid == j.member.lrid then (false, s)
    else
      let o' := { o with members := o.members ++ [j.member] }
      if o'.members.length = o.p then
        (true, State.serveSet { s with sets := s.sets.filter fun x => x.pa != o.pa } o')
      else (true, { s with sets := s.sets.map fun x => if x.pa == o.pa then o' else x })

/-- A member joins its set, or stands behind those that wait. -/
def State.joinOrWait (s : State) (j : SetJoin) : State :=
  let r := s.tryJoin j
  if r.1 then r.2 else { r.2 with joins := r.2.joins ++ [j] }

/-- The members that wait try again, in order, those past 1 ms raise FAORT (R147), and again as long as one of them has
joined: a set that it filled has given its record back. -/
def State.retryFrom : Nat → State → State
  | 0, s => s
  | n + 1, s =>
    let t := s.joins.foldl (fun s j =>
      if j.since + 1000000 ≤ s.gtime then s.faorGive j.member none else s.joinOrWait j) { s with joins := [] }
    if t.joins.length < s.joins.length then State.retryFrom n t else t

def State.retryJoins (s : State) : State := State.retryFrom s.joins.length s

/-- A member joins its set, or waits; when its set is served, those that wait go before any later request (R146). -/
def State.joinSet (s : State) (j : SetJoin) : State :=
  let t := s.joinOrWait j
  if t.sets.length ≤ s.sets.length then t.retryJoins else t

/-- PROT of a ring, barrier or set (R133 item 9). -/
def structTrap (addr reason : Nat) (rmt wr : Bool) (lane : Nat) : Trap :=
  { cause := .prot, va := addr, aux := memAux reason 0 rmt wr lane }

/-- The access of a FAOR, uniform for the instruction. -/
def faorAcc (s : State) (f : FM) (w : W1) (base : BitVec 64) (lane : Nat) : Acc :=
  { mkAcc s lane (s.g.r.getN f.n.toNat) base w.imm.toInt (szBytes f.sz) true true f.c.toNat with
      win := .globalOnly, host := false }

/-- FAORT after the lanes that were served received their prefixes (R133, R147). -/
def faortTrap (addr : Nat) (rmt : Bool) (act : List Nat) (done : List (Nat × Nat)) : Trap :=
  let served := done.map Prod.fst
  { cause := .faort, va := addr,
    aux := memAux 0 (maskOf served) rmt true ((act.find? fun l => !served.contains l).getD 0) }

def execFaor (f : FM) (w : W1) (s : State) : Out :=
  .next (s.issue f.g 16 [f.a.toNat, f.x.toNat] fun act rd s =>
    let size := szBytes f.sz
    let acc := faorAcc s f w (rd f.a.toNat) (lowest act)
    let p := (rd f.x.toNat).toNat
    let opc := w.e2.toNat % 16
    let form : AtomicForm := { returns := true, kind := 0, opc := opc, logKind := 0,
                               x := fun l => s.g.r.dataV f.sz w.e1 l, cmp := fun _ => none }
    -- a watchpoint and a poisoned word rank behind the count (R133, R386)
    match s.checkNth 0 acc.early with
    | .error r => .error (.trap r.trap)
    | .ok pl =>
      let addr := acc.addr.getD 0
      let away := match pl with | .away _ => true | .here _ => false
      if p = 0 ∨ 2 ^ 20 < p then
        let t := structTrap addr 8 away true (lowest act)
        if away then
          .error (s.orFarFault
            { type := 0x0C, cls := f.c.toNat, scope := w.scope.toNat, ord := w.ord.toNat, sz := f.sz.toNat }
            { lane := lowest act, addr := addr } t)
        else .error (.trap t)
      else
      match s.checkNth 0 acc with
      | .error r => .error (.trap r.trap)
      | .ok _ =>
      if s.logFull then .error s.logWait
      else if s.replaying then
        .ok ((s.mapR fun r => r.loadVs f.sz f.d (act.filterMap fun l =>
          (s.logLane 0 size l).map fun v => (l, v))).logSkip)
      else
        match pl with
        | .here l =>
          match s.g.pend with
          | .faor res =>
            if res.any fun x => x.2.isNone then .error (.hold s.retryJoins .memory)
            else
              let done := res.filterMap fun x => (x.2.bind id).map fun v => (x.1, v)
              let s' := s.giveOld f form done
              if done.length = res.length then .ok s'
              else .error (.trapIn s' (faortTrap addr false act done))
          | _ =>
            let s1 := { s.touch acc with g := { s.g with pend := .faor (act.map fun l => (l, none)) } }
            let pa := (l.head?.map Span.at_).getD 0
            .error (Stop.keep [pl] (.hold (act.foldl (fun s' l => s'.joinSet
              { pa := pa, size := size, opc := opc, p := p, since := s.gtime,
                member := { lrid := s.lrid l, operand := s.g.r.dataV f.sz w.e1 l,
                            who := s.g.p.id, lane := l, msg := none } }) s1) .memory))
        | .away a =>
          let ops : List RemOp := act.map fun l =>
            { lane := l, addr := a, v1 := s.g.r.dataV f.sz w.e1 l }
          let h : Head := {
            type := 0x0C, cls := f.c.toNat, scope := w.scope.toNat,
            ord := w.ord.toNat, sz := f.sz.toNat, opc := opc, byWord := true, count := p,
            limit := 1200000 }
          match s.g.pend with
          | .remote _ reqs _ =>
            if reqs.any fun q => q.answer.isNone then .error (.wait .memory)
            else
              match farAnswer ops true reqs with
              | .error e => .error e
              | .ok x =>
                let s' := s.giveOld f form x.vals
                match x.left with
                | none => .ok s'
                | some t => .error (.trapIn s' (if t.cause = .faort then faortTrap addr true act x.vals
                    else withDone t (x.vals.map Prod.fst)))
          | _ => .error (Stop.keep [pl] (.hold (s.sendReqs false h [ops]) .memory)))

end Sys2Proof.Machine
end

