-- ==== Sys2Proof/WellFormed.lean ====
section
/-! DEFINITION. The checks at issue (R67): register classes (R68), unused fields (R69), sizes (R71),
word 1 (R72), minors, types and values of each form. A word whose reading fails them is no
instruction (R78): the decoder answers UNASSIGNED_ENCODING for it. -/

namespace Sys2Proof.Wf

/-- R68: a destination of class s is not a queue name. -/
def sDst (r : BitVec 12) : Bool := r.toNat < 4088

/-- R68: class vp names the even register. -/
def even (r : BitVec 12) : Bool := r.toNat % 2 == 0

/-- R68: class sp. -/
def sPair (r : BitVec 12) : Bool := even r && 2 ≤ r.toNat && r.toNat ≤ 4086

/-- R128: class vq. -/
def vQuad (r : BitVec 12) : Bool := r.toNat % 4 == 0

def below (r : BitVec 12) (n : Nat) : Bool := r.toNat < n

/-- R91: the scalar integer types. -/
def sTy (t : BitVec 4) : Bool := 4 ≤ t.toNat && t.toNat ≤ 7

/-- R105: the integer types. -/
def iTy (t : BitVec 4) : Bool := t.toNat ≤ 7

/-- R111: the IEEE types. -/
def fTy (t : BitVec 4) : Bool := 8 ≤ t.toNat && t.toNat ≤ 11

/-- R115: the types of the approximation forms. -/
def fTy32 (t : BitVec 4) : Bool := 8 ≤ t.toNat && t.toNat ≤ 10

/-- R93: the copy types. -/
def cTy (t : BitVec 4) : Bool := sTy t || t == 10#4 || t == 11#4

/-- R92, R117: the 64-bit types. -/
def is64 (t : BitVec 4) : Bool := t == 6#4 || t == 7#4 || t == 11#4 || t == 14#4

/-- R92: a field marked vp is an even register under a 64-bit type. -/
def vp (t : BitVec 4) (r : BitVec 12) : Bool := !is64 t || even r

/-- R128: the data register of a scalar access; `dst` when it is written. -/
def sData (sz : BitVec 3) (dst : Bool) (r : BitVec 12) : Bool :=
  if sz == 4#3 then sPair r else !dst || sDst r

/-- R128: the data register of a vector access. -/
def vData (sz : BitVec 3) (r : BitVec 12) : Bool :=
  if sz == 4#3 then vQuad r else if sz == 3#3 then even r else true

def rmOk (m : BitVec 8) : Bool := m.toNat % 8 ≤ 5

/-- A three-register scalar form (R97). -/
def scalar3 (f : FR) : Bool := sDst f.d && sTy f.ty && f.min == 0#8

/-- A bit count of a scalar (R100) with minor `m`. -/
def count (f : FR) (m : BitVec 8) : Bool := sDst f.d && sTy f.ty && f.min == m && f.b == 0#12

/-- A vector form D, A, B of class vp with types `t` (R105, R111). -/
def vec3 (t : BitVec 4 → Bool) (f : FR) : Bool :=
  t f.ty && vp f.ty f.d && vp f.ty f.a && vp f.ty f.b

def vec2 (t : BitVec 4 → Bool) (f : FR) : Bool :=
  t f.ty && vp f.ty f.d && vp f.ty f.a && f.b == 0#12

def vecShift (f : FR) : Bool := sTy f.ty && vp f.ty f.d && vp f.ty f.a && f.min == 0#8

def approx (f : FR) : Bool := fTy32 f.ty && f.b == 0#12 && f.min == 0#8

/-- R117. -/
def vcvtOk (f : FR) : Bool :=
  let src := f.min.extractLsb' 4 4
  f.ty.toNat ≤ 14 && src.toNat ≤ 14 && src != f.ty && !f.min.getLsbD 3 && rmOk f.min &&
  vp f.ty f.d && vp src f.a && (f.ty == 14#4 || src == 14#4 || f.b == 0#12)

def narrow8 (t : BitVec 4) : Bool := t == 0#4 || t == 1#4 || t == 12#4 || t == 13#4
def narrow16 (t : BitVec 4) : Bool := t == 2#4 || t == 3#4 || t == 8#4 || t == 9#4

/-- R118. -/
def vpackOk (f : FR) : Bool :=
  let src := f.min.extractLsb' 4 4
  (narrow8 f.ty || (narrow16 f.ty && !f.min.getLsbD 3)) && rmOk f.min &&
  (src.toNat ≤ 5 || fTy32 src || src == 12#4 || src == 13#4)

/-- R119. -/
def vunpackOk (f : FR) : Bool :=
  let src := f.min.extractLsb' 4 4
  let j := (f.min.extractLsb' 2 2).toNat
  f.b == 0#12 && f.min.toNat % 4 == 0 && (narrow8 src || (narrow16 src && j ≤ 1)) &&
  (f.ty == 10#4 ||
   (f.ty == 4#4 && src.toNat ≤ 3) ||
   (f.ty == 5#4 && (src == 1#4 || src == 3#4)) ||
   ((f.ty == 8#4 || f.ty == 9#4) && narrow8 src))

/-- R124, R125. -/
def vredOk (f : FR) : Bool :=
  ((iTy f.ty && f.min.toNat ≤ 5) || (fTy32 f.ty && f.min.toNat ≤ 2)) &&
  vp f.ty f.d && vp f.ty f.a && f.b == 0#12

/-- An FI form with no D, no A, no minor and no type. -/
def fiBare (f : FI) : Bool := f.d == 0#12 && f.a == 0#12 && f.min4 == 0#4 && f.ty == 0#4

/-- An FR form with no D, B, minor or type. -/
def frBare (f : FR) : Bool :=
  f.d == 0#12 && f.b == 0#12 && f.min == 0#8 && f.ty == 0#4

/-- R20: the scalar selectors. -/
def scalarSel (n : Nat) : Bool :=
  (1 ≤ n && n ≤ 7) || n == 0x10 || n == 0x11 || (0x20 ≤ n && n ≤ 0x24) || n == 0x30 ||
  (0x40 ≤ n && n ≤ 0x43) || n == 0x50 || n == 0x52 || (0x60 ≤ n && n ≤ 0x67) || n == 0x70 || n == 0x80

/-- R20: the selectors that SWR writes. -/
def writableSel (n : Nat) : Bool := (0x20 ≤ n && n ≤ 0x24) || n == 0x30 || n == 0x80

def srdOk (f : FI) : Bool :=
  f.a == 0#12 && f.min4 == 0#4 && f.ty == 0#4 &&
  (if f.imm.toNat == 0 then true
   else if f.imm.toNat == 0x51 then even f.d
   else scalarSel f.imm.toNat && sDst f.d)

/-- R174: SVC whose number satisfies `p`. -/
def svc (p : Nat → Bool) (f : FI) : Bool := fiBare f && f.imm.toNat < 0x10000 && p f.imm.toNat

/-- R72: SCOPE 6 and 7 raise ILLOP. -/
def scopeOk (w : W1) : Bool := w.scope.toNat ≤ 5

def ordIn (w : W1) (l : List Nat) : Bool := l.contains w.ord.toNat

/-- R138. -/
def longPlain (f : FM) (w : W1) (ords : List Nat) : Bool :=
  f.sz.toNat ≤ 4 && scopeOk w && ordIn w ords && w.e1 == 0#12 && w.e2 == 0#12

/-- R143: FAO and FAOR. FAOR has no index; R69 does not say that its SC bit is 0, and both values are accepted (DESIGN
CHOICE, log entry 58). -/
def fetchOp (f : FM) (w : W1) : Bool :=
  2 ≤ f.sz.toNat && f.sz.toNat ≤ 4 && scopeOk w && vData f.sz f.d && vData f.sz w.e1 &&
  w.e2.toNat ≤ 8 && (f.sz != 4#3 || w.e2 == 0#12)

/-- R143: RED. -/
def redOk (f : FM) (w : W1) : Bool :=
  let sty := (w.e2.extractLsb' 4 4).toNat
  let opc := w.e2.toNat % 16
  2 ≤ f.sz.toNat && f.sz.toNat ≤ 4 && scopeOk w && ordIn w [0, 2] && w.e2.toNat < 256 &&
  (if sty == 10 then 3 ≤ f.sz.toNat && opc == 0
   else sty == 0 && f.d == 0#12 && vData f.sz w.e1 && opc ≤ 8 && (f.sz != 4#3 || opc == 0))

/-- R150. -/
def ringOk (f : FM) (w : W1) : Bool :=
  sDst f.d && f.x == 0#12 && f.sz == 0#3 && f.sc == 0#1 && w.e2 == 0#12 && scopeOk w

/-- R155. -/
def barrier (f : FM) (w : W1) : Bool :=
  f.sz == 4#3 && f.x == 0#12 && f.sc == 0#1 && w.ord == 0#2 && w.scope == 1#3 && w.e2 == 0#12

/-- R189: what every tile form keeps at 0. -/
def tileBase (f : FR) (w : W1) : Bool := f.ty == 0#4 && w.ord == 0#2 && w.e2 == 0#12

/-- R189, R190: an async tile form without (19 bits with) an accumulator origin. -/
def tileAsync (f : FR) (w : W1) (origin : Bool) : Bool :=
  tileBase f w && scopeOk w && f.d != 0#12 && w.imm.toNat < (if origin then 524288 else 16)

def tileSys (f : FR) (w : W1) : Bool :=
  tileBase f w && w.scope == 0#3 && w.e1 == 0#12 && w.imm.toNat < 16 && f.b == 0#12

/-- R189: TEW. -/
def tewOk (f : FR) (w : W1) : Bool :=
  tileAsync f w false && f.min.toNat ≤ 5 &&
  (if f.min.toNat ≤ 2 then f.b != 0#12 else f.b == 0#12) && (f.min == 3#8 || w.e1 == 0#12)

/-- R142. -/
def bpfOk (f : FM) (w : W1) : Bool :=
  f.d == 0#12 && f.sz == 0#3 && f.sc == 0#1 && w.scope == 0#3 && w.ord == 0#2 &&
  (if w.e2.getLsbD 11 then w.e2.toNat == 2048 else w.e1 == 0#12 && w.e2.toNat < 16)

/-- R141. -/
def acpOk (f : FM) (w : W1) : Bool :=
  f.sz.toNat ≤ 5 && f.sc == 0#1 && w.ord == 0#2 && scopeOk w && below w.e1 16 && w.e2.toNat < 16

/-- R75: the header's own checks; the vector word's are the decoder's. -/
def pairHead (p : PairHead) (v : BitVec 64) : Bool :=
  p.z == 0#3 && p.sop.toNat ≤ 0x10 && sTy p.ty && sDst p.d &&
  0x18 ≤ (v.extractLsb' 56 8).toNat && (v.extractLsb' 56 8).toNat ≤ 0x4F &&
  v.extractLsb' 52 4 == 0#4

end Sys2Proof.Wf

namespace Sys2Proof
open Wf

/-- The checks of R67 on an instruction's fields. Steps of other agents carry no fields that an
issue checks. -/
def Instr.wellFormed : Instr → Bool
  | .add f | .sub f | .mul f | .mulh f | .div f | .rem f | .and f | .or f | .xor f | .andn f
  | .shl f | .shr f | .sar f | .rot f | .min f | .max f => scalar3 f
  | .set f => sDst f.d && sTy f.ty && f.min.toNat ≤ 5
  | .clz f => count f 0#8
  | .ctz f => count f 1#8
  | .popc f => count f 2#8
  | .bfx f | .bfi f | .sel f => sDst f.d && sTy f.ty
  | .addi f => sDst f.d && sTy f.ty && f.min4 == 0#4
  | .logi f => sDst f.d && sTy f.ty && f.min4.toNat ≤ 2
  | .shi f => sDst f.d && sTy f.ty && 4 ≤ f.min4.toNat && f.min4.toNat ≤ 7 &&
      f.imm.toNat < (if is64 f.ty then 64 else 32)
  | .lih f => sDst f.d && f.a == 0#12 && f.min4 == 0#4 && f.ty == 0#4
  | .addpc f => sDst f.d && f.a == 0#12 && f.min4 == 1#4 && f.ty == 0#4
  | .nset f => below f.d 16 && f.min4 == 2#4 && f.ty == 0#4
  | .nget f => sDst f.d && below f.a 16 && f.imm == 0#20 && f.min4 == 3#4 && f.ty == 0#4
  | .vadd f | .vsub f | .vmul f | .vmulh f | .vmin f | .vmax f => vec3 iTy f && f.min == 0#8
  | .vabs f => vec2 (fun t => t == 0#4 || t == 2#4 || t == 4#4 || t == 6#4) f && f.min == 0#8
  | .vand f | .vor f | .vxor f => vec3 sTy f && f.min == 0#8
  | .vnot f => vec2 sTy f && f.min == 0#8
  | .vshl f | .vshr f | .vsar f => vecShift f
  | .vmad f => iTy f.ty && vp f.ty f.d && vp f.ty f.a && vp f.ty f.b && vp f.ty f.c
  | .vbfx f | .vbfi f => sTy f.ty && vp f.ty f.d && vp f.ty f.a
  | .vclz f => sTy f.ty && vp f.ty f.a && f.b == 0#12 && f.min == 0#8
  | .vpopc f => sTy f.ty && vp f.ty f.a && f.b == 0#12 && f.min == 1#8
  | .vcmp f => iTy f.ty && below f.d 8 && vp f.ty f.a && vp f.ty f.b && f.min.toNat ≤ 5
  | .vsel f => cTy f.ty && vp f.ty f.d && vp f.ty f.a && vp f.ty f.b && below f.c 8
  | .vmov f => vec2 cTy f && f.min == 0#8
  | .vbcast f => cTy f.ty && vp f.ty f.d && f.b == 0#12 && f.min == 1#8
  | .viota f => (f.ty == 4#4 || f.ty == 5#4) && f.min == 2#8
  | .vdot4 f => f.ty.toNat ≤ 1
  | .kop f => f.ty == 0#4 && below f.d 8 && below f.a 8 && below f.b 8 && f.min.toNat ≤ 4 &&
      (f.min != 4#8 || f.b == 0#12)
  | .kmovTos f => f.ty == 0#4 && sDst f.d && below f.a 8 && f.b == 0#12 && f.min == 0#8
  | .kmovFroms f => f.ty == 0#4 && below f.d 8 && f.b == 0#12 && f.min == 1#8
  | .vfadd f | .vfsub f | .vfmul f | .vfdiv f => vec3 fTy f && f.min == 0#8
  | .vfma f => fTy f.ty && vp f.ty f.d && vp f.ty f.a && vp f.ty f.b && vp f.ty f.c
  | .vfmin f | .vfmax f => vec3 fTy f && f.min.toNat ≤ 1
  | .vfcmp f => fTy f.ty && below f.d 8 && vp f.ty f.a && vp f.ty f.b && f.min.toNat ≤ 7
  | .vfsqrt f => vec2 fTy f && f.min == 0#8
  | .vrcp f | .vrsq f | .vexp2 f | .vlog2 f | .vsin f | .vcos f | .vtanh f => approx f
  | .vround f => vec2 fTy f && f.min.toNat ≤ 5
  | .vcvt f => vcvtOk f
  | .vpack f => vpackOk f
  | .vunpack f => vunpackOk f
  | .vscale f => fTy f.ty && vp f.ty f.d && vp f.ty f.a && f.min == 0#8
  | .vperm f => cTy f.ty && vp f.ty f.d && vp f.ty f.a && f.min == 0#8
  | .vshfl f => cTy f.ty && vp f.ty f.d && vp f.ty f.a && f.min.toNat ≤ 2
  | .vred f | .vscan f => vredOk f
  | .vvote f => sDst f.d && f.ty == 0#4 && f.b == 0#12 && f.min.toNat ≤ 3 &&
      (f.min == 3#8 || below f.a 8)
  | .vpart f => sDst f.b && f.ty == 0#4 && f.min.toNat ≤ 7
  | .ld f | .ldi f => f.sz.toNat ≤ 4 && sData f.sz true f.d
  | .st f | .sti f => f.sz.toNat ≤ 4 && sData f.sz false f.d
  | .vld f | .vldi f | .vst f | .vsti f | .vldc f | .vstc f => f.sz.toNat ≤ 4 && vData f.sz f.d
  | .pld f | .cwb f | .cinv f => f.d == 0#12 && f.sz == 0#3 && f.sc == 0#1
  | .ldo f w => longPlain f w [0, 1] && sData f.sz true f.d
  | .sto f w => longPlain f w [0, 2] && sData f.sz false f.d
  | .vldo f w => longPlain f w [0, 1] && vData f.sz f.d
  | .vsto f w => longPlain f w [0, 2] && vData f.sz f.d
  | .stf f w => f.sz.toNat ≤ 4 && vData f.sz f.d && scopeOk w && ordIn w [0, 2] && w.e2 == 0#12
  | .acp f w => acpOk f w
  | .bpf f w => bpfOk f w
  | .nld f w => f.sz.toNat ≤ 4 && vData f.sz f.d && scopeOk w && ordIn w [0, 1] && w.e2 == 0#12
  | .nst f w => f.sz.toNat ≤ 4 && vData f.sz f.d && scopeOk w && ordIn w [0, 2] && w.e2 == 0#12
  | .fao f w | .faor f w => fetchOp f w
  | .red f w => redOk f w
  | .cas f w => 2 ≤ f.sz.toNat && f.sz.toNat ≤ 4 && scopeOk w && vData f.sz f.d &&
      vData f.sz w.e1 && vData f.sz w.e2
  | .enq f w | .deq f w => ringOk f w
  | .waitc f w => below f.d 8 && (f.sz == 2#3 || f.sz == 3#3) && f.sc == 0#1 && scopeOk w &&
      ordIn w [0, 1] && w.e2.toNat ≤ 6
  | .fence f w => frBare f && f.a == 0#12 && f.la == 0#4 && scopeOk w && ordIn w [0, 1, 2] &&
      w.e1 == 0#12 && w.e2 == 0#12 && 0 < w.imm.toNat && w.imm.toNat < 65536
  | .bari f w => barrier f w && w.e1 == 0#12
  | .bara f w => barrier f w && w.e1 == 0#12 && sDst f.d
  | .barw f w => barrier f w && f.d == 0#12
  | .br f => f.a == 0#12 && f.min == 0#8
  | .brc f => f.min.toNat ≤ 3
  | .brk f => below f.a 8 && f.min.toNat ≤ 1
  | .jmpi f => f.d == 0#12 && f.b == 0#12 && f.ty == 0#4 && (f.min == 0#8 || (f.min == 1#8 && even f.a))
  | .call f => even f.a && f.min == 0#8
  | .calli f => even f.d && f.b == 0#12 && f.ty == 0#4 && (f.min == 0#8 || (f.min == 1#8 && even f.a))
  | .ret f => frBare f && even f.a
  | .exit f | .yield f | .nop f | .tret f | .synci f => frBare f && f.a == 0#12
  | .loop f | .lbrk f => below f.a 4 && f.min == 0#8
  | .waitt f => fiBare f
  | .srd f => srdOk f
  | .swr f => f.d == 0#12 && f.min4 == 0#4 && f.ty == 0#4 && writableSel f.imm.toNat
  | .trap f | .bkpt f => fiBare f
  | .svcVersion f => svc (· == 0) f
  | .svcAbort f => svc (· == 1) f
  | .svcPrivsize f => svc (· == 2) f
  | .svcDebugged f => svc (· == 3) f
  | .svcSleep f => svc (· == 4) f
  | .svcUnknown f => svc (fun n => 5 ≤ n && n < 0x8000) f
  | .svcHelper f => svc (0x8000 ≤ ·) f
  | .icinv f => f.d == 0#12 && f.min == 0#8 && f.ty == 0#4
  | .send f => f.d == 0#12 && f.ty == 0#4 && f.la == 0#4 && below f.b 16 && f.min.toNat < 64
  | .qbind f => below f.d 8 && f.a == 0#12 && f.ty == 0#4 && f.min4 == 0#4 && f.imm.toNat < 64
  | .qbindUn f => below f.d 8 && f.a == 0#12 && f.ty == 0#4 && f.min4 == 1#4 && f.imm == 0#20
  | .pmark f => f.d == 0#12 && f.min4 == 0#4 && f.ty == 0#4
  | .hpf _ | .hbr _ => true
  | .hhot op _ => 0xE2 ≤ op.toNat && op.toNat ≤ 0xEF
  | .pair p v => pairHead p v
  | .unassignedEncoding _ _ => true
  | .tld f w | .tst f w | .wbld f w =>
      tileAsync f w false && f.a == 0#12 && f.b == 0#12 && f.min == 0#8 && w.e1 == 0#12
  | .tcp f w => tileAsync f w false && f.a != 0#12 && f.b == 0#12 && f.min.toNat ≤ 1 && w.e1 == 0#12
  | .tmma f w => tileAsync f w true && f.a != 0#12 && f.b == 0#12 && f.min.toNat ≤ 1 && w.e1 == 0#12
  | .tscan f w => tileAsync f w true && f.a != 0#12 && f.min.toNat ≤ 3 && w.e1 == 0#12
  | .tzero f w => tileAsync f w true && f.a == 0#12 && f.b == 0#12 && f.min.toNat ≤ 3 && w.e1 == 0#12
  | .tacrd f w | .tacwr f w =>
      tileAsync f w true && f.a == 0#12 && f.b == 0#12 && f.min.toNat ≤ 2 && w.e1 == 0#12
  | .tred f w => tileAsync f w false && f.a != 0#12 && f.b == 0#12 && f.min.toNat < 8 &&
      f.min.toNat % 4 != 3 && w.e1 == 0#12
  | .tew f w => tewOk f w
  | .tfmt f w => tileSys f w && f.d == 0#12 && w.imm == 0#35 && f.min.toNat % 64 ≤ 16
  | .tlease f w => tileSys f w && f.d == 0#12 && f.a == 0#12 && f.min == 0#8 && w.imm == 0#35
  | .tfree f w => tileSys f w && f.d == 0#12 && f.a == 0#12 && f.min.toNat ≤ 1 && w.imm == 0#35
  | .tbmap f w => tileSys f w && sDst f.d && f.a == 0#12 && f.min.toNat ≤ 4
  | .trsm f w => tileSys f w && f.d == 0#12 && f.a == 0#12 && f.min == 0#8
  | .ibset g r imm => g.toNat < 16 && r.toNat % 512 < 4 && imm.toNat < 1024
  | .xcmp _ _ _ _ => true
  | .bundleIssue | .resultArrival _ _ | .breakpointHit _ | .homeSliceOperation _
  | .waitcTimeout _ | .shelfEntryError _ | .faorSetTimeout _ | .remoteCheckReturn _ _
  | .engineOperationComplete _ | .tileChildComplete _ _ _ | .tileChildFault _ _ _ _
  | .leaseTenureEnd _ | .icinvComplete _ | .translationStubCall _ _ | .xlatTimeout _
  | .hotRetranslation _ | .translatorKernelStart | .bind _ _ | .loadRequest _ | .unloadRequest _
  | .privateGrowth _ _ _ _ | .nonresidentPageService _ _ _ _ | .mappingChange _ _ _
  | .contextEnd _ | .coreDump _ | .replayLogExtend _ _ | .deviceQueueWake _ | .counterWatchWake _
  | .blockPlacement _ | .placementWaitExpiry _ | .priorityStarvationExpiry _
  | .runtimePreemptRequest _ _ _ | .drainBoundExpiry _ _ | .preemptSave _ _ | .preemptFlush _ _
  | .blockResume _ _ | .launchComplete _ | .completionActionRetry _ | .pL1Entry _ | .pL2Entry _
  | .pL3Entry _ | .pL4Entry | .powerWake _ | .hostApertureEnqueue _ _ _ | .hostMemWrite _ _
  | .hostMemRead _ _ | .pcapWrite _ | .resetWrite _ | .mgmtRegisterWrite _ _ | .getVersion
  | .getCapabilities | .negotiateAlgorithms _ | .getDigests | .getCertificate _ | .challenge _ _
  | .getMeasurements _ | .keyExchange _ | .finish _ | .keyUpdate _ _ | .endSession _
  | .trustDomainLoad _ _ | .powerOnReset | .bootStage1 _ _ | .bootStage2Complete _ _ _
  | .scrub _ _ _ | .dieStateError _ | .thermalShutdown | .dbgStop _ | .dbgResume _ | .dbgStep _
  | .setbp _ | .setwp _ | .dbgRead _ | .dbgWrite _ | .detach _ | .profSample _ | .profTypes _
  | .profFilter _ | .arraytot _ | .arrayclr _ | .profPort _ | .pcSample _ _ | .tracePortSend
  | .flitReceive _ _ | .lnak _ _ | .linkRetrain _ _ | .requestForward _ _ _ | .replyRetrace _ _
  | .waitBufferTimeout _ _ _ | .rd _ | .wr _ | .stfMessage _ | .atom _ | .faorMessage _ | .ring _
  | .checkMessage _ | .tileMessage _ | .xpkg _ | .data _ | .done _ | .value _ | .faultReply _
  | .wake _ | .sack _ | .sendMessage _ | .sendRetry _ _ | .sendTimeout _ _
  | .fabricReplyTimeout _ | .mgmt _ | .null _ _ | .svcSleepExpiry _ | .translationInstall _
  | .wakeComplete _ | .junctionTemperatureChange _ _ | .queueAllotment _ _ _ _ _
  | .replayLogEnable _ _ _ | .replay _ _ => true

end Sys2Proof
end

