-- ==== Sys2Proof/Decode.lean ====
section
/-! DEFINITION. The decoder and the encoder of the virtual set (R64 to R79). `decode` is total on any
bytes: it answers an instruction or an error by name. A word that is no instruction (R78) and a word
that fails a check of R67 decode to UNASSIGNED_ENCODING. -/

namespace Sys2Proof

/-- OP (R66). -/
def opOf (w : Word64) : BitVec 8 := w.extractLsb' 56 8

/-- R64: whether OP names a long instruction. -/
def longOp (op : BitVec 8) : Bool :=
  (0x80 ≤ op.toNat && op.toNat ≤ 0xDF) || 0xF8 ≤ op.toNat

def FR.ofWord (w : Word64) : FR :=
  { g := w.extractLsb' 52 4, d := w.extractLsb' 40 12, a := w.extractLsb' 28 12,
    b := w.extractLsb' 16 12, min := w.extractLsb' 8 8, ty := w.extractLsb' 4 4,
    la := w.extractLsb' 0 4 }

def FQ.ofWord (w : Word64) : FQ :=
  { g := w.extractLsb' 52 4, d := w.extractLsb' 40 12, a := w.extractLsb' 28 12,
    b := w.extractLsb' 16 12, c := w.extractLsb' 4 12, ty := w.extractLsb' 0 4 }

def FI.ofWord (w : Word64) : FI :=
  { g := w.extractLsb' 52 4, d := w.extractLsb' 40 12, a := w.extractLsb' 28 12,
    imm := w.extractLsb' 8 20, min4 := w.extractLsb' 4 4, ty := w.extractLsb' 0 4 }

def FB.ofWord (w : Word64) : FB :=
  { g := w.extractLsb' 52 4, a := w.extractLsb' 40 12, off := w.extractLsb' 8 32,
    min := w.extractLsb' 0 8 }

def FM.ofWord (w : Word64) : FM :=
  { g := w.extractLsb' 52 4, d := w.extractLsb' 40 12, a := w.extractLsb' 28 12,
    x := w.extractLsb' 16 12, n := w.extractLsb' 12 4, c := w.extractLsb' 8 4,
    la := w.extractLsb' 4 4, sz := w.extractLsb' 1 3, sc := w.extractLsb' 0 1 }

def W1.ofWord (w : Word64) : W1 :=
  { scope := w.extractLsb' 61 3, ord := w.extractLsb' 59 2, e1 := w.extractLsb' 47 12,
    e2 := w.extractLsb' 35 12, imm := w.extractLsb' 0 35 }

def PairHead.ofWord (w : Word64) : PairHead :=
  { g := w.extractLsb' 52 4, d := w.extractLsb' 40 12, a := w.extractLsb' 28 12,
    b := w.extractLsb' 16 12, sop := w.extractLsb' 8 8, ty := w.extractLsb' 4 4,
    i := w.extractLsb' 3 1, z := w.extractLsb' 0 3 }

def FR.toWord (op : BitVec 8) (f : FR) : Word64 :=
  op ++ f.g ++ f.d ++ f.a ++ f.b ++ f.min ++ f.ty ++ f.la

def FQ.toWord (op : BitVec 8) (f : FQ) : Word64 :=
  op ++ f.g ++ f.d ++ f.a ++ f.b ++ f.c ++ f.ty

def FI.toWord (op : BitVec 8) (f : FI) : Word64 :=
  op ++ f.g ++ f.d ++ f.a ++ f.imm ++ f.min4 ++ f.ty

def FB.toWord (op : BitVec 8) (f : FB) : Word64 :=
  op ++ f.g ++ f.a ++ f.off ++ f.min

def FM.toWord (op : BitVec 8) (f : FM) : Word64 :=
  op ++ f.g ++ f.d ++ f.a ++ f.x ++ f.n ++ f.c ++ f.la ++ f.sz ++ f.sc

def W1.toWord (f : W1) : Word64 := f.scope ++ f.ord ++ f.e1 ++ f.e2 ++ f.imm

def PairHead.toWord (f : PairHead) : Word64 :=
  0xF8#8 ++ f.g ++ f.d ++ f.a ++ f.b ++ f.sop ++ f.ty ++ f.i ++ f.z

/-- Row 0x0_ of R76. -/
def decodeRow0 (lo : Nat) (w : Word64) : Option Instr :=
  let f := FR.ofWord w
  match lo with
  | 0 => some (.add f) | 1 => some (.sub f) | 2 => some (.mul f) | 3 => some (.mulh f)
  | 4 => some (.div f) | 5 => some (.rem f) | 6 => some (.and f) | 7 => some (.or f)
  | 8 => some (.xor f) | 9 => some (.andn f) | 10 => some (.shl f) | 11 => some (.shr f)
  | 12 => some (.sar f) | 13 => some (.rot f) | 14 => some (.min f) | 15 => some (.max f)
  | _ => none

/-- Row 0x1_ of R76, with the minors of R100 and R103. -/
def decodeRow1 (lo : Nat) (w : Word64) : Option Instr :=
  let f := FR.ofWord w
  let q := FQ.ofWord w
  let i := FI.ofWord w
  match lo with
  | 0 => some (.set f)
  | 1 => match f.min.toNat with
    | 0 => some (.clz f) | 1 => some (.ctz f) | 2 => some (.popc f) | _ => none
  | 2 => some (.bfx q) | 3 => some (.bfi q) | 4 => some (.sel q) | 5 => some (.addi i)
  | 6 => if i.min4.toNat ≤ 2 then some (.logi i) else some (.shi i)
  | 7 => match i.min4.toNat with
    | 0 => some (.lih i) | 1 => some (.addpc i) | 2 => some (.nset i) | 3 => some (.nget i)
    | _ => none
  | 8 => some (.vadd f) | 9 => some (.vsub f) | 10 => some (.vmul f) | 11 => some (.vmulh f)
  | 12 => some (.vmad q) | 13 => some (.vmin f) | 14 => some (.vmax f) | 15 => some (.vabs f)
  | _ => none

/-- Row 0x2_ of R76, with the minors of R108, R109 and R110. -/
def decodeRow2 (lo : Nat) (w : Word64) : Option Instr :=
  let f := FR.ofWord w
  let q := FQ.ofWord w
  match lo with
  | 0 => some (.vand f) | 1 => some (.vor f) | 2 => some (.vxor f) | 3 => some (.vnot f)
  | 4 => some (.vshl f) | 5 => some (.vshr f) | 6 => some (.vsar f) | 7 => some (.vbfx q)
  | 8 => some (.vbfi q)
  | 9 => match f.min.toNat with
    | 0 => some (.vclz f) | 1 => some (.vpopc f) | _ => none
  | 10 => some (.vcmp f) | 11 => some (.vsel q)
  | 12 => match f.min.toNat with
    | 0 => some (.vmov f) | 1 => some (.vbcast f) | 2 => some (.viota f) | _ => none
  | 13 => some (.vdot4 q) | 14 => some (.kop f)
  | 15 => match f.min.toNat with
    | 0 => some (.kmovTos f) | 1 => some (.kmovFroms f) | _ => none
  | _ => none

/-- Row 0x3_ of R76. -/
def decodeRow3 (lo : Nat) (w : Word64) : Option Instr :=
  let f := FR.ofWord w
  match lo with
  | 0 => some (.vfadd f) | 1 => some (.vfsub f) | 2 => some (.vfmul f)
  | 3 => some (.vfma (FQ.ofWord w)) | 4 => some (.vfmin f) | 5 => some (.vfmax f)
  | 6 => some (.vfcmp f) | 7 => some (.vfdiv f) | 8 => some (.vfsqrt f) | 9 => some (.vrcp f)
  | 10 => some (.vrsq f) | 11 => some (.vexp2 f) | 12 => some (.vlog2 f) | 13 => some (.vsin f)
  | 14 => some (.vcos f) | 15 => some (.vtanh f)
  | _ => none

/-- Row 0x4_ of R76. -/
def decodeRow4 (lo : Nat) (w : Word64) : Option Instr :=
  let f := FR.ofWord w
  match lo with
  | 0 => some (.vround f) | 1 => some (.vcvt f) | 2 => some (.vpack f) | 3 => some (.vunpack f)
  | 4 => some (.vscale f) | 8 => some (.vperm f) | 9 => some (.vshfl f) | 10 => some (.vred f)
  | 11 => some (.vscan f) | 12 => some (.vvote f) | 13 => some (.vpart f)
  | _ => none

/-- Row 0x5_ of R76. -/
def decodeRow5 (lo : Nat) (w : Word64) : Option Instr :=
  let f := FM.ofWord w
  match lo with
  | 0 => some (.ld f) | 1 => some (.ldi f) | 2 => some (.st f) | 3 => some (.sti f)
  | 4 => some (.vld f) | 5 => some (.vldi f) | 6 => some (.vst f) | 7 => some (.vsti f)
  | 8 => some (.vldc f) | 9 => some (.vstc f) | 10 => some (.pld f) | 11 => some (.cwb f)
  | 12 => some (.cinv f)
  | _ => none

/-- Row 0x6_ of R76. -/
def decodeRow6 (lo : Nat) (w : Word64) : Option Instr :=
  let f := FR.ofWord w
  let b := FB.ofWord w
  match lo with
  | 0 => some (.br b) | 1 => some (.brc b) | 2 => some (.brk b) | 3 => some (.jmpi f)
  | 4 => some (.call b) | 5 => some (.calli f) | 6 => some (.ret f) | 7 => some (.exit f)
  | 8 => some (.loop b) | 9 => some (.lbrk b) | 10 => some (.waitt (FI.ofWord w))
  | 11 => some (.yield f) | 12 => some (.nop f)
  | _ => none

/-- The service that SVC's number names (R174). -/
def decodeSvc (i : FI) : Instr :=
  match i.imm.toNat with
  | 0 => .svcVersion i | 1 => .svcAbort i | 2 => .svcPrivsize i | 3 => .svcDebugged i
  | 4 => .svcSleep i
  | n => if n < 0x8000 then .svcUnknown i else .svcHelper i

/-- Row 0x7_ of R76, with the minors of R179. -/
def decodeRow7 (lo : Nat) (w : Word64) : Option Instr :=
  let f := FR.ofWord w
  let i := FI.ofWord w
  match lo with
  | 0 => some (.srd i) | 1 => some (.swr i) | 2 => some (.trap i) | 3 => some (.tret f)
  | 4 => some (.bkpt i) | 5 => some (decodeSvc i) | 6 => some (.icinv f) | 7 => some (.synci f)
  | 8 => some (.send f)
  | 9 => match i.min4.toNat with
    | 0 => some (.qbind i) | 1 => some (.qbindUn i) | _ => none
  | 10 => some (.pmark i)
  | _ => none

/-- Row 0x8_ of R76. -/
def decodeRow8 (lo : Nat) (f : FM) (w : W1) : Option Instr :=
  match lo with
  | 0 => some (.ldo f w) | 1 => some (.sto f w) | 2 => some (.vldo f w) | 3 => some (.vsto f w)
  | 4 => some (.stf f w) | 5 => some (.acp f w) | 6 => some (.bpf f w) | 7 => some (.nld f w)
  | 8 => some (.nst f w)
  | _ => none

/-- Row 0x9_ of R76; FENCE takes layout FR (R77). -/
def decodeRow9 (lo : Nat) (w0 : Word64) (w : W1) : Option Instr :=
  let f := FM.ofWord w0
  match lo with
  | 0 => some (.fao f w) | 1 => some (.faor f w) | 2 => some (.red f w) | 3 => some (.cas f w)
  | 4 => some (.enq f w) | 5 => some (.deq f w) | 6 => some (.waitc f w)
  | 7 => some (.fence (FR.ofWord w0) w) | 8 => some (.bari f w) | 9 => some (.bara f w)
  | 10 => some (.barw f w)
  | _ => none

/-- Row 0xA_ of R76. -/
def decodeRowA (lo : Nat) (f : FR) (w : W1) : Option Instr :=
  match lo with
  | 0 => some (.tld f w) | 1 => some (.tst f w) | 2 => some (.tcp f w) | 3 => some (.wbld f w)
  | 4 => some (.tmma f w) | 5 => some (.tscan f w) | 6 => some (.tzero f w)
  | 7 => some (.tacrd f w) | 8 => some (.tacwr f w) | 9 => some (.tred f w) | 10 => some (.tew f w)
  | 11 => some (.tfmt f w) | 12 => some (.tlease f w) | 13 => some (.tfree f w)
  | 14 => some (.tbmap f w) | 15 => some (.trsm f w)
  | _ => none

/-- The hints (R79). -/
def decodeRowE (lo : Nat) (w : Word64) : Instr :=
  let body : BitVec 56 := w.extractLsb' 0 56
  match lo with
  | 0 => .hpf body | 1 => .hbr body | _ => .hhot (opOf w) body

/-- The instruction that a word's major and minor name, its fields not yet checked (R76). -/
def rawDecode (w0 w1 : Word64) : Option Instr :=
  let lo := (opOf w0).toNat % 16
  match (opOf w0).toNat / 16 with
  | 0 => decodeRow0 lo w0 | 1 => decodeRow1 lo w0 | 2 => decodeRow2 lo w0 | 3 => decodeRow3 lo w0
  | 4 => decodeRow4 lo w0 | 5 => decodeRow5 lo w0 | 6 => decodeRow6 lo w0 | 7 => decodeRow7 lo w0
  | 8 => decodeRow8 lo (FM.ofWord w0) (W1.ofWord w1)
  | 9 => decodeRow9 lo w0 (W1.ofWord w1)
  | 10 => decodeRowA lo (FR.ofWord w0) (W1.ofWord w1)
  | 14 => some (decodeRowE lo w0)
  | 15 => if lo = 8 then some (.pair (PairHead.ofWord w0) w1) else none
  | _ => none

/-- The s register that a vector word of a pair writes, 0 for none (R75). -/
def Instr.sWritten : Instr → Nat
  | .kmovTos f | .vvote f => f.d.toNat
  | .vpart f => f.b.toNat
  | _ => 0

/-- R75: the vector word of a pair, when it may stand there. -/
def pairVector (p : PairHead) (v : Word64) : Option Instr :=
  match rawDecode v 0#64 with
  | some i => if i.wellFormed && (p.d == 0#12 || i.sWritten != p.d.toNat) then some i else none
  | none => none

/-- The scalar half's form (R75): its major's FR form with MIN = 0 and LA = 0. -/
def PairHead.scalarWord (p : PairHead) : Word64 :=
  FR.toWord p.sop
    { g := p.g, d := p.d, a := p.a, b := if p.i == 1#1 then 0#12 else p.b, min := 0#8, ty := p.ty,
      la := 0#4 }

/-- An instruction that passes every check of R67 and R75. -/
def Instr.legal : Instr → Bool
  | .pair p v => (Instr.pair p v).wellFormed && (pairVector p v).isSome
  | i => i.wellFormed

/-- The instruction at two words; a short one ignores the second. -/
def decodeWords (w0 w1 : Word64) : Instr :=
  match rawDecode w0 w1 with
  | some i => if i.legal then i else .unassignedEncoding w0 (if longOp (opOf w0) then w1 else 0#64)
  | none => .unassignedEncoding w0 (if longOp (opOf w0) then w1 else 0#64)

/-- Why bytes hold no instruction. -/
inductive DecodeError where
  /-- fewer bytes than the length of R64 -/
  | truncated
  deriving DecidableEq, Repr

/-- The little-endian number of bytes (R2). -/
def leNat : List Byte → Nat
  | [] => 0
  | b :: bs => b.toNat + 256 * leNat bs

/-- The first `n` bytes of a number, little-endian (R2). -/
def leBytes : Nat → Nat → List Byte
  | 0, _ => []
  | n + 1, v => BitVec.ofNat 8 v :: leBytes n (v / 256)

/-- The instruction at the head of a string of bytes, and its length in bytes. -/
def decode (bs : List Byte) : Except DecodeError (Instr × Nat) :=
  if bs.length < 8 then .error .truncated
  else
    let w0 := BitVec.ofNat 64 (leNat (bs.take 8))
    if longOp (opOf w0) then
      if bs.length < 16 then .error .truncated
      else .ok (decodeWords w0 (BitVec.ofNat 64 (leNat ((bs.drop 8).take 8))), 16)
    else .ok (decodeWords w0 0#64, 8)

/-- The words of an instruction (R70, R72, R75, R76). A step of another agent has none. -/
def encode : Instr → List Word64
  | .add f => [f.toWord 0x00#8] | .sub f => [f.toWord 0x01#8] | .mul f => [f.toWord 0x02#8]
  | .mulh f => [f.toWord 0x03#8] | .div f => [f.toWord 0x04#8] | .rem f => [f.toWord 0x05#8]
  | .and f => [f.toWord 0x06#8] | .or f => [f.toWord 0x07#8] | .xor f => [f.toWord 0x08#8]
  | .andn f => [f.toWord 0x09#8] | .shl f => [f.toWord 0x0A#8] | .shr f => [f.toWord 0x0B#8]
  | .sar f => [f.toWord 0x0C#8] | .rot f => [f.toWord 0x0D#8] | .min f => [f.toWord 0x0E#8]
  | .max f => [f.toWord 0x0F#8] | .set f => [f.toWord 0x10#8] | .clz f => [f.toWord 0x11#8]
  | .ctz f => [f.toWord 0x11#8] | .popc f => [f.toWord 0x11#8] | .bfx f => [f.toWord 0x12#8]
  | .bfi f => [f.toWord 0x13#8] | .sel f => [f.toWord 0x14#8] | .addi f => [f.toWord 0x15#8]
  | .logi f => [f.toWord 0x16#8] | .shi f => [f.toWord 0x16#8] | .lih f => [f.toWord 0x17#8]
  | .addpc f => [f.toWord 0x17#8] | .nset f => [f.toWord 0x17#8] | .nget f => [f.toWord 0x17#8]
  | .vadd f => [f.toWord 0x18#8] | .vsub f => [f.toWord 0x19#8] | .vmul f => [f.toWord 0x1A#8]
  | .vmulh f => [f.toWord 0x1B#8] | .vmad f => [f.toWord 0x1C#8] | .vmin f => [f.toWord 0x1D#8]
  | .vmax f => [f.toWord 0x1E#8] | .vabs f => [f.toWord 0x1F#8] | .vand f => [f.toWord 0x20#8]
  | .vor f => [f.toWord 0x21#8] | .vxor f => [f.toWord 0x22#8] | .vnot f => [f.toWord 0x23#8]
  | .vshl f => [f.toWord 0x24#8] | .vshr f => [f.toWord 0x25#8] | .vsar f => [f.toWord 0x26#8]
  | .vbfx f => [f.toWord 0x27#8] | .vbfi f => [f.toWord 0x28#8] | .vclz f => [f.toWord 0x29#8]
  | .vpopc f => [f.toWord 0x29#8] | .vcmp f => [f.toWord 0x2A#8] | .vsel f => [f.toWord 0x2B#8]
  | .vmov f => [f.toWord 0x2C#8] | .vbcast f => [f.toWord 0x2C#8] | .viota f => [f.toWord 0x2C#8]
  | .vdot4 f => [f.toWord 0x2D#8] | .kop f => [f.toWord 0x2E#8] | .kmovTos f => [f.toWord 0x2F#8]
  | .kmovFroms f => [f.toWord 0x2F#8] | .vfadd f => [f.toWord 0x30#8]
  | .vfsub f => [f.toWord 0x31#8] | .vfmul f => [f.toWord 0x32#8] | .vfma f => [f.toWord 0x33#8]
  | .vfmin f => [f.toWord 0x34#8] | .vfmax f => [f.toWord 0x35#8] | .vfcmp f => [f.toWord 0x36#8]
  | .vfdiv f => [f.toWord 0x37#8] | .vfsqrt f => [f.toWord 0x38#8] | .vrcp f => [f.toWord 0x39#8]
  | .vrsq f => [f.toWord 0x3A#8] | .vexp2 f => [f.toWord 0x3B#8] | .vlog2 f => [f.toWord 0x3C#8]
  | .vsin f => [f.toWord 0x3D#8] | .vcos f => [f.toWord 0x3E#8] | .vtanh f => [f.toWord 0x3F#8]
  | .vround f => [f.toWord 0x40#8] | .vcvt f => [f.toWord 0x41#8] | .vpack f => [f.toWord 0x42#8]
  | .vunpack f => [f.toWord 0x43#8] | .vscale f => [f.toWord 0x44#8]
  | .vperm f => [f.toWord 0x48#8] | .vshfl f => [f.toWord 0x49#8] | .vred f => [f.toWord 0x4A#8]
  | .vscan f => [f.toWord 0x4B#8] | .vvote f => [f.toWord 0x4C#8] | .vpart f => [f.toWord 0x4D#8]
  | .ld f => [f.toWord 0x50#8] | .ldi f => [f.toWord 0x51#8] | .st f => [f.toWord 0x52#8]
  | .sti f => [f.toWord 0x53#8] | .vld f => [f.toWord 0x54#8] | .vldi f => [f.toWord 0x55#8]
  | .vst f => [f.toWord 0x56#8] | .vsti f => [f.toWord 0x57#8] | .vldc f => [f.toWord 0x58#8]
  | .vstc f => [f.toWord 0x59#8] | .pld f => [f.toWord 0x5A#8] | .cwb f => [f.toWord 0x5B#8]
  | .cinv f => [f.toWord 0x5C#8] | .br f => [f.toWord 0x60#8] | .brc f => [f.toWord 0x61#8]
  | .brk f => [f.toWord 0x62#8] | .jmpi f => [f.toWord 0x63#8] | .call f => [f.toWord 0x64#8]
  | .calli f => [f.toWord 0x65#8] | .ret f => [f.toWord 0x66#8] | .exit f => [f.toWord 0x67#8]
  | .loop f => [f.toWord 0x68#8] | .lbrk f => [f.toWord 0x69#8] | .waitt f => [f.toWord 0x6A#8]
  | .yield f => [f.toWord 0x6B#8] | .nop f => [f.toWord 0x6C#8] | .srd f => [f.toWord 0x70#8]
  | .swr f => [f.toWord 0x71#8] | .trap f => [f.toWord 0x72#8] | .tret f => [f.toWord 0x73#8]
  | .bkpt f => [f.toWord 0x74#8] | .svcVersion f => [f.toWord 0x75#8]
  | .svcAbort f => [f.toWord 0x75#8] | .svcPrivsize f => [f.toWord 0x75#8]
  | .svcDebugged f => [f.toWord 0x75#8] | .svcSleep f => [f.toWord 0x75#8]
  | .svcUnknown f => [f.toWord 0x75#8] | .svcHelper f => [f.toWord 0x75#8]
  | .icinv f => [f.toWord 0x76#8] | .synci f => [f.toWord 0x77#8] | .send f => [f.toWord 0x78#8]
  | .qbind f => [f.toWord 0x79#8] | .qbindUn f => [f.toWord 0x79#8] | .pmark f => [f.toWord 0x7A#8]
  | .hpf b => [0xE0#8 ++ b] | .hbr b => [0xE1#8 ++ b] | .hhot op b => [op ++ b]
  | .ldo f w => [f.toWord 0x80#8, w.toWord] | .sto f w => [f.toWord 0x81#8, w.toWord]
  | .vldo f w => [f.toWord 0x82#8, w.toWord] | .vsto f w => [f.toWord 0x83#8, w.toWord]
  | .stf f w => [f.toWord 0x84#8, w.toWord] | .acp f w => [f.toWord 0x85#8, w.toWord]
  | .bpf f w => [f.toWord 0x86#8, w.toWord] | .nld f w => [f.toWord 0x87#8, w.toWord]
  | .nst f w => [f.toWord 0x88#8, w.toWord] | .fao f w => [f.toWord 0x90#8, w.toWord]
  | .faor f w => [f.toWord 0x91#8, w.toWord] | .red f w => [f.toWord 0x92#8, w.toWord]
  | .cas f w => [f.toWord 0x93#8, w.toWord] | .enq f w => [f.toWord 0x94#8, w.toWord]
  | .deq f w => [f.toWord 0x95#8, w.toWord] | .waitc f w => [f.toWord 0x96#8, w.toWord]
  | .fence f w => [f.toWord 0x97#8, w.toWord] | .bari f w => [f.toWord 0x98#8, w.toWord]
  | .bara f w => [f.toWord 0x99#8, w.toWord] | .barw f w => [f.toWord 0x9A#8, w.toWord]
  | .tld f w => [f.toWord 0xA0#8, w.toWord] | .tst f w => [f.toWord 0xA1#8, w.toWord]
  | .tcp f w => [f.toWord 0xA2#8, w.toWord] | .wbld f w => [f.toWord 0xA3#8, w.toWord]
  | .tmma f w => [f.toWord 0xA4#8, w.toWord] | .tscan f w => [f.toWord 0xA5#8, w.toWord]
  | .tzero f w => [f.toWord 0xA6#8, w.toWord] | .tacrd f w => [f.toWord 0xA7#8, w.toWord]
  | .tacwr f w => [f.toWord 0xA8#8, w.toWord] | .tred f w => [f.toWord 0xA9#8, w.toWord]
  | .tew f w => [f.toWord 0xAA#8, w.toWord] | .tfmt f w => [f.toWord 0xAB#8, w.toWord]
  | .tlease f w => [f.toWord 0xAC#8, w.toWord] | .tfree f w => [f.toWord 0xAD#8, w.toWord]
  | .tbmap f w => [f.toWord 0xAE#8, w.toWord] | .trsm f w => [f.toWord 0xAF#8, w.toWord]
  | .pair p v => [p.toWord, v]
  | .unassignedEncoding w0 w1 => if longOp (opOf w0) then [w0, w1] else [w0]
  | _ => []

/-- The bytes of an instruction in memory (R2, R64). -/
def encodeBytes (i : Instr) : List Byte := (encode i).flatMap fun w => leBytes 8 w.toNat

/-- The instruction that the decoder reads from an instruction whose bits are `w`: bits [63:0] are
word 0 and bits [127:64] word 1. -/
def decodeTableWord (nbits w : Nat) : Option Instr :=
  let w := w % 2 ^ nbits
  match decode (leBytes 16 w) with
  | .ok (i, _) => some i
  | .error _ => none

end Sys2Proof
end

