-- ==== Sys2Proof/Machine/Fetch.lean ====
section
/-! DEFINITION. Time, the issue rule (R11, R351), fetching an instruction (R65, R157, R266) and
breakpoints (R385). -/

namespace Sys2Proof.Machine

/-- The passing of time in one step (log entry 11). -/
def State.timePass (s : State) : State :=
  { s with tick := s.tick + 1, clk := s.clk + Config.stepClk s.tick,
           gtime := s.gtime + Config.stepNs s.tick }

/-! ### Choosing a group (R351) -/

/-- Whether what a group has begun is still unanswered. -/
def Pend.blocked (s : State) : Pend → Bool
  | .shelf none => true
  | .remote _ reqs _ => reqs.any fun q => q.answer.isNone
  | .tile _ reqs _ => reqs.any fun q => q.answer.isNone
  | .service _ none => true
  | .sleep u passed => !passed && decide (s.gtime < u)
  | .privsize _ none => true
  | .log b => !b
  | .xlate _ _ => true
  | _ => false

/-- Whether a core can issue: it is neither power-gated nor waking, and its die and the device are awake
(R358). A clock-gated core wakes for a group that is ready. -/
def State.coreAwake (s : State) (core : Nat) : Bool :=
  let c : CoreSt := SMap.get default s.cores core
  c.power != 2 && c.wakeAt.isNone && s.devPower != 4 && (s.dieSt (core / 36)).power != 3

/-- Whether a group may be tried for an issue; a stopped one is for the view of a READ (R388). -/
def State.eligible (s : State) (g : Group) : Bool :=
  g.present && !g.ended && !g.pend.blocked s &&
    ((s.coreAwake g.p.core && !g.dbg.stopped && !g.frozen) || g.dbg.viewing.isSome) &&
    (g.r.issueAddr.isSome || (match g.pend with | .deliver _ _ _ => true | _ => false))

/-- The last issue of any group of a partition. -/
def State.partLast (s : State) (core part : Nat) : Nat :=
  (s.groups.filter fun g => g.p.core == core && g.p.part == part).foldl
    (fun m g => max m g.lastIssue) 0

/-- The key by which groups are tried: the partition that has waited longest, and within it a group
that has not yielded, the highest launch priority, the earliest last issue, the lowest slot. -/
def State.issueKey (s : State) (g : Group) : List Nat :=
  [s.partLast g.p.core g.p.part, g.p.core, g.p.part, (if g.yielded then 1 else 0),
   7 - g.p.priority, g.lastIssue, g.p.slot]

def lexLe : List Nat → List Nat → Bool
  | [], _ => true
  | _ :: _, [] => false
  | a :: as, b :: bs => if a < b then true else if b < a then false else lexLe as bs

/-- The groups to try, in order. -/
def State.candidates (s : State) : List GRef :=
  (sortBy (fun a b => lexLe (s.issueKey a) (s.issueKey b)) (s.groups.filter s.eligible)).map
    fun g => g.p.id

/-- Brings a group into focus. -/
def State.refocus (s : State) (who : GRef) : State :=
  if s.g.p.id = who ∧ s.g.present then s
  else
    match s.others.find? fun g => g.p.id == who with
    | none => s
    | some g =>
      { s with g := g, others := (if s.g.present then [s.g] else []) ++
          s.others.filter fun x => x.p.id != who }

/-- After an issue: the group counts as issued now, and a group of its partition that had yielded is
a candidate again. -/
def State.issued (s t : State) : State :=
  if t.g.p.id = s.g.p.id ∧ t.g.present then
    { t with
      g := { t.g with lastIssue := s.tick, issuedAt := s.gtime, yielded := t.g.yielded && !s.g.yielded }
      others := t.others.map fun x =>
        if x.p.core = s.g.p.core ∧ x.p.part = s.g.p.part then { x with yielded := false } else x }
  else t

/-! ### Breakpoints (R385) -/

/-- The first enabled breakpoint that the issue address meets; it does not fire again at the first
issue there after a RESUME or STEP, nor for an instruction that has begun and waits. -/
def State.breakpoint (s : State) : Option Nat :=
  match s.g.r.issueAddr with
  | none => none
  | some a =>
    if s.g.dbg.skipBp = some a ∨ s.g.pend ≠ .idle ∨ s.g.kept.isSome then none
    else (List.range 4).find? fun n =>
      let b := BMap.get s.g.dbg.bp n
      b.getLsbD 63 && b.toNat % 2 ^ 57 / 8 == a / 8

/-- A breakpoint that was passed over fires again from the next issue on. -/
def State.armBp (s : State) : State :=
  if s.g.dbg.skipBp.isSome then { s with g := { s.g with dbg := { s.g.dbg with skipBp := none } } } else s

/-- An instruction that has been passed its breakpoint and still waits does not meet it again when it is tried again. -/
def State.keepPassed (s t : State) : State :=
  if t.g.p.id = s.g.p.id ∧ t.g.r.issueAddr = s.g.r.issueAddr ∧ (t.g.pend ≠ .idle ∨ t.g.stall ≠ .none) then
    { t with g := { t.g with dbg := { t.g.dbg with skipBp := s.g.r.issueAddr } } }
  else t

/-! ### Fetch -/

/-- The word that an installed translation of the context holds for a virtual address: the code as it
stood when it was translated (R175, R177). -/
def State.translated (s : State) (a : Nat) : Option Word64 :=
  s.xlats.findSome? fun t =>
    if t.ctx = s.g.p.ctx ∧ t.xchk = s.g.u.xchk then SMap.find? t.words a else none

/-- A word of a context's code as the translation service reads it now (R157, R327). -/
def State.wordAt (s : State) (ctx a : Nat) : Except (Cause × Nat) Word64 :=
  match s.leafOf ctx { fetch := true } a with
  | .error e => .error e
  | .ok f => .ok (Mem.read64 s.mem (f.pa a))

/-- One word of code: from a translation, or else as the service reads it now. -/
def State.codeWord (s : State) (a : Nat) : Except (Cause × Nat) Word64 :=
  match s.translated a with
  | some w => .ok w
  | none => s.wordAt s.g.p.ctx a

/-- PAGE or PROT of a fetch, at the address of word 0 (R65, R157). -/
def fetchTrap (a : Nat) (e : Cause × Nat) : Trap := { cause := e.1, va := a, aux := e.2 * 2 ^ 48 }

/-- The binding index that an address of the binding range stands for, when a loaded object's slot has it. -/
def State.bindingAt (s : State) (a : Nat) : Option Nat :=
  if a < winPrivate ∧ (s.objects.any fun o => o.ctx == s.g.p.ctx &&
      o.slots.any fun g => g.index == some ((a - bindBase) / 8)) then some ((a - bindBase) / 8)
  else none

/-- Why the second word of an instruction at `a` cannot be fetched. A page of it that the runtime made non-resident is
served unseen (R328). -/
def State.secondWordStop (s : State) (a : Nat) (e : Cause × Nat) : Stop :=
  let t := fetchTrap (a + 8) e
  if s.served t then
    .hold (({ s with g := { s.g with pend := .service t none } } : State).askMap s.g.p.id (localOf t.va / 4096)) .fault
  else .trap (fetchTrap a e)

/-- Whether a group stands inside an instruction that it has begun. -/
def Group.inside (g : Group) : Bool :=
  g.kept.isSome || (match g.pend with
    | .idle => false
    | .service _ _ => false
    | .deliver _ _ _ => false
    | .xlate _ _ => false
    | _ => true)

/-- The words of the instruction that the focus group has begun: a waiting group passes its commit point with it before
it fetches through the translation stacks again (R175). -/
def State.begunWords (s : State) : Option (List Word64) :=
  s.g.begun.bind fun x => if x.1 = s.pc ∧ s.g.inside then some x.2 else none

/-- Fetches and decodes the instruction at the issue address. At a binding stub the lanes wait (R282), and so they do
where no translation holds an executable address, until the service has one (R266). -/
def State.fetch (s : State) : Except Stop Instr :=
  let a := s.pc
  match s.begunWords with
  | some ws => .ok (decodeWords (ws.getD 0 0#64) (ws.getD 1 0#64))
  | none =>
  if bindBase ≤ a then
    match s.bindingAt a with
    | none => .error (.trap (fetchTrap a (.page, 0)))
    | some b =>
      let s1 : State := { s with g := { s.g with pend := .xlate a s.gtime } }
      .error (.hold (s1.later (.bind s.g.p.ctx b)) .xlate)
  else
    match s.codeWord a with
    | .error e => .error (.trap (fetchTrap a e))
    | .ok w0 =>
      if (s.translated a).isNone then
        .error (.hold { s with g := { s.g with pend := .xlate a s.gtime } } .xlate)
      else if longOp (opOf w0) then
        match s.codeWord (a + 8) with
        | .error e => .error (s.secondWordStop a e)
        | .ok w1 => .ok (decodeWords w0 w1)
      else .ok (decodeWords w0 0#64)

end Sys2Proof.Machine
end

