-- ==== Sys2Proof/Machine/Rings.lean ====
section
/-! DEFINITION. Ring control blocks, ENQ and DEQ (R149, R150). -/

namespace Sys2Proof.Machine

/-- A ring control block as read (R149). -/
structure Ring where
  head : Nat
  tail : Nat
  base : Nat
  logcap : Nat
  esize : Nat
  rsvd : Nat
  deriving DecidableEq, Repr

def State.ringAt (s : State) (pa : Nat) : Ring :=
  { head := BMap.readNat s.mem pa 8, tail := BMap.readNat s.mem (pa + 8) 8,
    base := BMap.readNat s.mem (pa + 16) 8, logcap := BMap.readNat s.mem (pa + 24) 1,
    esize := BMap.readNat s.mem (pa + 25) 1, rsvd := BMap.readNat s.mem (pa + 26) 6 }

/-- Elements that the ring holds. -/
def Ring.fill (r : Ring) : Nat := (r.tail + 2 ^ 64 - r.head) % 2 ^ 64

/-- Whether an element size is allowed (R149). -/
def esizeOk (n : Nat) : Bool := n % 8 == 0 && decide (8 ≤ n) && decide (n ≤ 64)

/-- R149: whether a control block is valid. -/
def Ring.valid (r : Ring) : Bool :=
  r.rsvd == 0 && decide (r.logcap ≤ 20) && esizeOk r.esize && r.base % 8 == 0 &&
    decide (r.base < 2 ^ 57) && decide (r.fill ≤ 2 ^ r.logcap)

/-- The address of slot i. -/
def Ring.slot (r : Ring) (i : Nat) : Nat := r.base + i % 2 ^ r.logcap * r.esize

/-- The spans of a slot in a context, or the fault of reaching it; slots lie in global memory. -/
def State.slotSpans (s : State) (ctx : Nat) (r : Ring) (i : Nat) (write : Bool) :
    Except Trap (List Span) :=
  let acc : Acc := { lane := 0, addr := if r.slot i + r.esize ≤ 2 ^ 57 then some (r.slot i) else none,
                     bad := r.slot i, size := r.esize, align := 8, read := !write, write := write,
                     win := .globalOnly, host := false, thread := false, eats := false, ctx := ctx }
  match s.check acc with
  | .ok (.here l) => .ok l
  | .ok (.away _) => .error (plainTrap .canon)
  | .error e => .error e.trap

/-- A status of all ones (R150). -/
def ringFull : Nat := 2 ^ 64 - 1

/-- Marks the poisoned bytes of an element that has been copied to memory or to a buffer (R408). -/
def State.putBits (s : State) (bits size : Nat) (l : List Span) : State :=
  if bits = 0 then s else s.putMarks s.g.p.id ((List.range size).filter bits.testBit) l

/-- ENQ at the home slice (R150), for a request that carries an element of `size` bytes, with its poisoned bytes as bits.
`at_` is the control block's address for a fault. -/
def State.enqAt (s : State) (ctx pa at_ size elem : Nat) (bits : Nat := 0) : Except Trap (Nat × State) :=
  let r := s.ringAt pa
  if !r.valid || r.esize != size then .error (structTrap at_ 6 false true 0)
  else if r.fill = 2 ^ r.logcap then .ok (ringFull, s)
  else
    match s.slotSpans ctx r r.tail true with
    | .error t => .error t
    | .ok l =>
      let s1 := ((s.touchPages ctx true 2 (r.slot r.tail) r.esize).writeSpans l elem).putBits bits size l
      .ok (r.tail % 2 ^ 63,
        s1.writeSpans [{ scratch := false, at_ := pa + 8, len := 8 }] ((r.tail + 1) % 2 ^ 64))

/-- The poisoned bytes of the element that a DEQ is to take, as bits (R408). -/
def State.headBits (s : State) (ctx pa : Nat) : Nat :=
  let r := s.ringAt pa
  if !r.valid || r.tail == r.head then 0
  else match s.slotSpans ctx r r.head false with
    | .ok l => maskOf (s.marksAs s.g.p.id l)
    | .error _ => 0

/-- DEQ at the home slice (R150): the status, the element and its size. -/
def State.deqAt (s : State) (ctx pa at_ : Nat) : Except Trap (Nat × Nat × Nat × State) :=
  let r := s.ringAt pa
  if !r.valid then .error (structTrap at_ 6 false true 0)
  else if r.tail = r.head then .ok (ringFull, 0, r.esize, s)
  else
    match s.slotSpans ctx r r.head false with
    | .error t => .error t
    | .ok l =>
      let elem := s.readSpans l
      let s1 := s.touchPages ctx false 2 (r.slot r.head) r.esize
      .ok (r.head % 2 ^ 63, elem, r.esize,
        s1.writeSpans [{ scratch := false, at_ := pa, len := 8 }] ((r.head + 1) % 2 ^ 64))

/-- A fault of the home slice as the instruction of a lane reports it: a slot lies at the location that the instruction
names (R133, R149). -/
def ringTrap (lane at_ : Nat) (t : Trap) : Trap :=
  { t with va := if t.va < 2 ^ 57 then locOf at_ * 2 ^ 57 + t.va else t.va, aux := t.aux - t.aux % 32 + lane }

/-- The control-block access of ENQ and DEQ: bytes 0 to 31 of a block aligned to 64; the queue fields are neither read
nor written (R149). -/
def ringAcc (s : State) (f : FM) (w : W1) (base : BitVec 64) (lane : Nat) : Acc :=
  { mkAcc s lane (s.g.r.getN f.n.toNat) base w.imm.toInt 32 true true f.c.toNat with
      align := 64, win := .globalOnly, host := false }

/-- The buffer access of ENQ and DEQ: on this device, aligned to 8 (R150), and not on host memory (R331). -/
def bufAcc (s : State) (f : FM) (base : BitVec 64) (lane size : Nat) (write : Bool) : Acc :=
  { mkAcc s lane 0 base 0 size (!write) write f.c.toNat with
      align := 8, win := .noPrivate, host := false, eats := false }

/-- WATCH and MCHK of some accesses that have passed the checks before them (R386, R408). -/
def State.lateTrap (s : State) (l : List (Acc × List Span)) : Option Trap :=
  (worst (l.filterMap fun x =>
    let addr := x.1.addr.getD 0
    match (if x.1.thread && x.1.watch then s.watchHit x.1 addr else none) with
    | some w => some (x.1.err 12 .watch w 0 (!s.isLocal addr))
    | none => match s.clean x.1 addr x.2 with
      | .error r => some r
      | .ok _ => none)).map Ranked.trap

/-- A ring operation that has passed its own checks raises WATCH and MCHK (R133, R386). -/
def State.orLate {α : Type} (s : State) (l : List (Acc × List Span)) (r : Except Trap α) : Except Trap α :=
  match r, s.lateTrap l with
  | .ok _, some t => .error t
  | r, _ => r

/-- R133 over both accesses of ENQ and DEQ: the fault of the buffer's access, where it ranks above the control
block's fault `t`. With no valid ESIZE read, the buffer's access is taken over its first 8 bytes (DEDUCED, log
entry 55). -/
def State.bufFirst (s : State) (buf : Acc) (t : Trap) : Trap :=
  match s.check buf.early with
  | .error b =>
    match worst [{ rank := trapRank t, trap := t, lane := b.lane }, b] with
    | some r => r.trap
    | none => t
  | .ok _ => t

/-- `bufFirst` over the ways an instruction stops: only a fault is compared. -/
def State.bufStop (s : State) (buf : Acc) : Stop → Stop
  | .trap t => .trap (s.bufFirst buf t)
  | e => e

/-- The element's words for the log (R396). -/
def elemLog (size elem : Nat) : List (Nat × Nat × Nat) :=
  (List.range (size / 8)).map fun i => (5, i, elem / 2 ^ (64 * i))

/-- The exchange of a RING request with another device: the reply's status and element. -/
def State.ringRemote (s : State) (h : Head) (op : RemOp) (act : List Nat) :
    Except Stop (List (Nat × Nat)) :=
  match s.g.pend with
  | .remote _ reqs (_ :: _) =>
    if reqs.any fun q => q.answer.isNone then .error (.wait .memory)
    else
      match worst (reqFaults [op] true reqs) with
      | some r => .error (.trap r.trap)
      | none =>
        match reqs.head?.bind ReqOut.answer with
        | some (.values vs) => .ok vs
        | _ => .error (.trap (fabricTrap [op] true [op.lane] []))
  | _ =>
    let _ := act
    .error (.hold (s.sendReqs false h [[op]]) .memory)

/-- The element size that a control block on another device states, read at issue (R150). -/
def State.ringSize (s : State) (f : FM) (w : W1) (addr lane : Nat) : Except Stop Nat :=
  match s.g.pend with
  | .pointers ((_, v) :: _) => .ok (v / 256 % 256)
  | .remote _ _ ((_, v) :: _) => .ok (v / 256 % 256)
  | _ =>
    match s.remote (plainHead false f.c 1#3 w.scope.toNat w.ord.toNat)
        [{ lane := lane, addr := addr + 24, v1 := 2 }] false with
    | .error e => .error e
    | .ok a =>
      match a.left, a.vals with
      | none, (_, v) :: _ => .error (.hold { s with g := { s.g with pend := .pointers [(lane, v)] } } .memory)
      | some t, _ => .error (.trap t)
      | none, [] => .error (.trap (fabricTrap [{ lane := lane, addr := addr }] true [lane] []))

/-- The head of a request for the whole control block, of 64 bytes. -/
def ringCheck (f : FM) (w : W1) : Head :=
  { type := 0x0D, cls := f.c.toNat, scope := w.scope.toNat, ord := w.ord.toNat, sz := 6 }

/-- Writes a status register and logs it. -/
def State.giveStatus (s : State) (d : BitVec 12) (st : Nat) (more : List (Nat × Nat × Nat)) : State :=
  (s.mapR fun r => r.setS d.toNat (BitVec.ofNat 64 st)).logAll ((4, 0, st) :: more)

def execEnq (f : FM) (w : W1) (s : State) : Out :=
  .next (s.issue f.g 16 [f.a.toNat, w.e1.toNat] fun act rd s =>
    let lane := lowest act
    let cb := ringAcc s f w (rd f.a.toNat) lane
    let buf8 := bufAcc s f (rd w.e1.toNat) lane 8 false
    if s.logFull then .error s.logWait
    else if s.replaying then
      .ok ((s.mapR fun r => r.setS f.d.toNat (BitVec.ofNat 64 ((s.logFind 4 0).getD ringFull))).logSkip)
    else
    match s.checkNth 0 cb.early with
    | .error r => .error (.trap (s.bufFirst buf8 r.trap))
    | .ok (.here l) =>
      let pa := (l.head?.map Span.at_).getD 0
      let size := (s.ringAt pa).esize
      let addr := cb.addr.getD 0
      let buf := bufAcc s f (rd w.e1.toNat) lane size false
      if !esizeOk size then .error (.trap (s.bufFirst buf8 (structTrap addr 6 false true lane)))
      else
        match s.check buf.early with
        | .error r => .error (.trap r.trap)
        | .ok (.away _) => .error (.trap (plainTrap .canon))
        | .ok (.here b) =>
          let s1 := (s.touch cb).touch buf
          match s.orLate [(cb, l), (buf, b)]
              ((s1.enqAt s.g.p.ctx pa addr size (s.readSpans b) (maskOf (s.marksAs s.g.p.id b))).mapError
                (ringTrap lane addr)) with
          | .error t => .error (.trap t)
          | .ok (st, s') => .ok (s'.giveStatus f.d st [])
    | .ok (.away addr) =>
      match s.ringSize f w addr lane with
      | .error e => .error (s.bufStop buf8 e)
      | .ok size =>
        if !esizeOk size then
          .error (s.bufStop buf8 (s.orFarFault (ringCheck f w) { lane := lane, addr := addr }
            (structTrap addr 6 true true lane)))
        else
          let buf := bufAcc s f (rd w.e1.toNat) lane size false
          match s.checkNth 1 buf.early with
          | .error r => .error (.trap r.trap)
          | .ok (.away _) => .error (.trap (plainTrap .canon))
          | .ok (.here b) =>
            let h : Head := {
              type := 0x0D, cls := f.c.toNat, scope := w.scope.toNat, ord := w.ord.toNat,
              sz := 4, opc := 0, kind := 0, count := size, mark := maskOf (s.marksAs s.g.p.id b) }
            match (if s.g.kept.isSome then none else s.lateTrap [(cb, []), (buf, b)]) with
            | some t => .error (s.orFarFault (ringCheck f w) { lane := lane, addr := addr } t)
            | none =>
            match s.ringRemote h { lane := lane, addr := addr, v1 := s.readSpans b } act with
            | .error e => .error (e.keep [.away addr, .here b])
            | .ok vs => .ok (s.giveStatus f.d ((vs.head?.map Prod.snd).getD ringFull) []))

/-- The buffer of a DEQ that has taken an element, with the element's poison, and its status. -/
def State.finishDeq (s : State) (d : BitVec 12) (st elem size bits : Nat) (b : List Span) : State :=
  if st = ringFull then s.giveStatus d st []
  else ((s.writeSpans b elem).putBits bits size b).giveStatus d st (elemLog size elem)

/-- R396: a DEQ in replay takes its status and element from the log, on whatever device the ring lies, and performs
nothing. -/
def State.replayDeq (s : State) (f : FM) (b : List Span) (size : Nat) : State :=
  let st := (s.logFind 4 0).getD ringFull
  let elem := (List.range (size / 8)).foldl (fun e i => e + (s.logFind 5 i).getD 0 * 2 ^ (64 * i)) 0
  ((if st = ringFull then s else s.writeSpans b elem).mapR fun r => r.setS f.d.toNat (BitVec.ofNat 64 st)).logSkip

/-- The bytes of the element that the log holds for the current DEQ: it has an entry for each 8 of them (R396). -/
def State.loggedSize (s : State) : Nat := 8 * ((List.range 8).filter fun i => (s.logFind 5 i).isSome).length

/-- R150. A DEQ that finds its ring empty writes no buffer; its buffer is checked all the same, before the ring is seen,
and its page's A and D are set (DESIGN CHOICE, log entry 58). -/
def execDeq (f : FM) (w : W1) (s : State) : Out :=
  .next (s.issue f.g 16 [f.a.toNat, w.e1.toNat] fun act rd s =>
    let lane := lowest act
    let cb := ringAcc s f w (rd f.a.toNat) lane
    let buf8 := bufAcc s f (rd w.e1.toNat) lane 8 true
    let bufOf (size : Nat) : Acc := bufAcc s f (rd w.e1.toNat) lane size true
    if s.logFull then .error s.logWait
    else if s.replaying then
      match s.check (bufOf s.loggedSize) with
      | .error r => .error (.trap r.trap)
      | .ok (.away _) => .error (.trap (plainTrap .canon))
      | .ok (.here b) => .ok (s.replayDeq f b s.loggedSize)
    else
    match s.checkNth 0 cb.early with
    | .error r => .error (.trap (s.bufFirst buf8 r.trap))
    | .ok (.here l) =>
      let pa := (l.head?.map Span.at_).getD 0
      let size := (s.ringAt pa).esize
      let addr := cb.addr.getD 0
      if !esizeOk size then .error (.trap (s.bufFirst buf8 (structTrap addr 6 false true lane)))
      else
        let buf := bufOf size
        match s.check buf.early with
        | .error r => .error (.trap r.trap)
        | .ok (.away _) => .error (.trap (plainTrap .canon))
        | .ok (.here b) =>
          match s.orLate [(cb, l), (buf, b)] ((((s.touch cb).touch buf).deqAt s.g.p.ctx pa addr).mapError
              (ringTrap lane addr)) with
          | .error t => .error (.trap t)
          | .ok (st, elem, size, s') => .ok (s'.finishDeq f.d st elem size (s.headBits s.g.p.ctx pa) b)
    | .ok (.away addr) =>
      match s.ringSize f w addr lane with
      | .error e => .error (s.bufStop buf8 e)
      | .ok size =>
        if !esizeOk size then
          .error (s.bufStop buf8 (s.orFarFault (ringCheck f w) { lane := lane, addr := addr }
            (structTrap addr 6 true true lane)))
        else
          match s.checkNth 1 (bufOf size).early with
          | .error r => .error (.trap r.trap)
          | .ok (.away _) => .error (.trap (plainTrap .canon))
          | .ok (.here b) =>
            let h : Head := {
              type := 0x0D, cls := f.c.toNat, scope := w.scope.toNat, ord := w.ord.toNat,
              sz := 4, opc := 0, kind := 1, count := size }
            match (if s.g.kept.isSome then none else s.lateTrap [(cb, []), (bufOf size, b)]) with
            | some t => .error (s.orFarFault (ringCheck f w) { lane := lane, addr := addr } t)
            | none =>
            match s.ringRemote h { lane := lane, addr := addr } act with
            | .error e => .error (e.keep [.away addr, .here b])
            | .ok vs =>
              -- the home slice answers its status, the element, the ESIZE that it has read (R150) and the poisoned bytes
              let word (i : Nat) : Nat := ((vs[i]?).map Prod.snd).getD 0
              if vs.isEmpty || word 2 == size then
                .ok ((s.touch (bufOf size)).finishDeq f.d (if vs.isEmpty then ringFull else word 0) (word 1) size
                  (word 3) b)
              else
                -- the ESIZE has changed: the ring is as it was, and the buffer is checked for the new size
                .error (.hold { s with g := { s.g with
                  kept := none, pend := .pointers [(lane, word 2 % 256 * 256)] } } .memory))

/-! ### The resident runtime's rings (R292, R384, R394) -/

/-- The 64-byte record at the head of a ring of a live context that the runtime reads, and the state without it. -/
def State.recordAt (s : State) (ctx va : Nat) : Option (Nat × State) :=
  match s.findCtx ctx with
  | none => none
  | some c =>
    if !c.live then none
    else match s.leafOf ctx {} va with
      | .error _ => none
      | .ok f =>
        if (s.ringAt (f.pa va)).esize ≠ 64 then none
        else match s.deqAt ctx (f.pa va) va with
          | .ok (st, r, _, s1) => if st = ringFull then none else some (r, s1)
          | .error _ => none

end Sys2Proof.Machine
end

