-- ==== Sys2Proof/Machine/Sync.lean ====
section
/-! DEFINITION. WAITC (R151, R152), FENCE (R153) and the barrier objects (R154, R155). -/

namespace Sys2Proof.Machine

/-- R324: whether a slice's shelf has no entry left for WAITC. The desk takes its 32 held-back entries
first and then shared ones. -/
def State.shelfFull (s : State) (slice : Nat) : Bool :=
  let es := s.shelf.filter fun e => e.slice == slice
  let desk := (es.filter fun e => e.who.isNone).length + s.cbLines slice
  decide (224 ≤ (es.filter fun e => e.who.isSome).length + (desk - 32))

/-- The status is written to bit L of kD for every active lane (R152). -/
def State.waitcDone (s : State) (d : BitVec 12) (act : List Nat) (b : Bool) : State :=
  (s.mapR fun r => r.setKBits d.toNat (act.map fun l => (l, b))).logAll
    [(6, 0, if b then 1 else 0)]

/-- The read of a WAITC; the word must lie on this device (R151). -/
def waitcAcc (s : State) (f : FM) (w : W1) (base : BitVec 64) (lane : Nat) : Acc :=
  { mkAcc s lane (s.g.r.getN f.n.toNat) base w.imm.toInt (szBytes f.sz) true false f.c.toNat with
      win := .globalOnly, host := false }

def execWaitc (f : FM) (w : W1) (s : State) : Out :=
  .next (s.issue f.g 16 [f.a.toNat, w.e1.toNat, f.x.toNat] fun act rd s =>
    match s.g.pend with
    | .shelf none => .error (.wait .shelf)
    | .shelf (some b) => .ok (s.waitcDone f.d act b)
    | _ =>
      let lane := lowest act
      let acc := waitcAcc s f w (rd f.a.toNat) lane
      -- PROT 0x0A is of item 6: it ranks before what %xctx denies and before a watchpoint (R133)
      match s.check { acc.early with deny := false } with
      | .ok (.away a) =>
        .error (.trap { cause := .prot, va := a, aux := memAux 0x0A 0 true false lane })
      | _ =>
      match s.check acc with
      | .error r => .error (.trap r.trap)
      | .ok (.away a) => .error (.trap (acc.err 6 .prot a 0x0A true).trap)
      | .ok (.here l) =>
        if s.logFull then .error s.logWait
        else if s.replaying then
          .ok ((s.mapR fun r => r.setKBits f.d.toNat (act.map fun l =>
            (l, (s.logFind 6 0).getD 0 == 1))).logSkip)
        else
          let size := szBytes f.sz
          let pa := (l.head?.map Span.at_).getD 0
          let c := (rd w.e1.toNat).toNat % 256 ^ size
          let t := (rd f.x.toNat).toNat
          let s1 := s.touch acc
          if waitHolds w.e2.toNat size (s.readSpans l) c then .ok (s1.waitcDone f.d act true)
          else if t = 0 ∨ s.shelfFull (sliceOf pa) = true then .ok (s1.waitcDone f.d act false)
          else
            let e : ShelfEntry := {
              slice := sliceOf pa, pa := pa, size := size, code := w.e2.toNat, comparand := c,
              ctx := s.g.p.ctx, who := some s.g.p.id,
              deadline := if t = 2 ^ 64 - 1 then none else some (s.gtime + t), wake := none }
            .error (.hold { s1 with shelf := s1.shelf ++ [e],
                                    g := { s1.g with pend := .shelf none } } .shelf))

/-- R153: every access is performed at its step, so a fence of any kind, scope and mask holds; it only
advances. -/
def execFence (f : FR) (_w : W1) (s : State) : Out := .next (s.issue f.g 16 [] fun _ _ s => .ok s)

/-! ### Barrier objects (R154, R155) -/

/-- A barrier object as read. -/
structure Barrier where
  expect : Nat
  arrived : Nat
  phase : Nat
  rsvd : Nat
  deriving DecidableEq, Repr, Inhabited

def barrierOf (v : Nat) : Barrier :=
  { expect := v % 2 ^ 32, arrived := v / 2 ^ 32 % 2 ^ 32, phase := v / 2 ^ 64 % 2 ^ 32,
    rsvd := v / 2 ^ 96 % 2 ^ 32 }

def Barrier.toNat (b : Barrier) : Nat :=
  b.expect + 2 ^ 32 * b.arrived + 2 ^ 64 * b.phase + 2 ^ 96 * b.rsvd

/-- R154: whether an object keeps to its table. -/
def Barrier.valid (b : Barrier) : Bool :=
  decide (1 ≤ b.expect) && decide (b.expect ≤ 2 ^ 20) && decide (b.arrived < b.expect) && b.rsvd == 0

/-- One arrival (R155 BARA). -/
def Barrier.arrive (b : Barrier) : Barrier :=
  if b.arrived + 1 = b.expect then { b with arrived := 0, phase := (b.phase + 1) % 2 ^ 32 }
  else { b with arrived := b.arrived + 1 }

/-- The groups of a block that have not ended. -/
def State.aliveIn (s : State) (launch block : Nat) : List Nat :=
  (s.groups.filter fun g =>
    g.p.id.launch == launch && g.p.id.block == block && !g.ended).map fun g => g.p.id.group

/-- R33: notes an arrival at an object for DET: a phase that completes resets when every group of the
block that has not ended has arrived in it. -/
def Block.noteArrival (b : Block) (off : Nat) (who : Option Nat) (before after : Barrier)
    (alive : List Nat) : Block :=
  let arr := match who with
    | some g => if b.arrivals.contains (off, g) then b.arrivals else b.arrivals ++ [(off, g)]
    | none => b.arrivals
  if after.phase = before.phase then { b with arrivals := arr }
  else
    { b with
      arrivals := arr.filter fun x => x.1 != off
      resets := if alive.all fun g => arr.contains (off, g) then b.resets ++ [(off, before.phase)]
        else b.resets }

/-- One arrival at an object of a block: its phase before, or none when the object is invalid. -/
def State.arriveAt (s : State) (launch block off : Nat) (who : Option Nat) : Option (Nat × State) :=
  match s.findBlock launch block with
  | none => none
  | some b =>
    let o := barrierOf (BMap.readNat b.scratch off 16)
    if !o.valid then none
    else
      let alive := s.aliveIn launch block
      some (o.phase, s.updBlock launch block fun b =>
        { b with scratch := BMap.writeNat b.scratch off 16 o.arrive.toNat }.noteArrival
          off who o o.arrive alive)

/-- The access of a barrier form. -/
def barAcc (s : State) (f : FM) (w : W1) (base : BitVec 64) (lane : Nat) (write : Bool) : Acc :=
  { mkAcc s lane (s.g.r.getN f.n.toNat) base w.imm.toInt 16 true write f.c.toNat with
      win := .scratchOnly }

/-- The scratchpad offset of a barrier form's object, once the access has passed items 4 to 8. -/
def State.barOff (s : State) (a : Acc) : Except Stop Nat :=
  match s.checkNth 0 a.early with
  | .error r => .error (.trap r.trap)
  | .ok (.here (p :: _)) => .ok p.at_
  | .ok _ => .error (.trap (a.err 6 .prot (a.addr.getD 0) 5).trap)

/-- The object of a barrier form and its offset: PROT 0x07 where the form finds it bad, and then the access's watchpoint
and poison (R133, R386). -/
def State.barChecked (s : State) (a : Acc) (bad : Barrier → Bool) : Except Stop (Nat × Barrier) :=
  match s.barOff a with
  | .error e => .error e
  | .ok off =>
    let o := barrierOf (BMap.readNat s.scratch off 16)
    if bad o then .error (.trap (structTrap (a.addr.getD 0) 7 false a.write a.lane))
    else match s.checkNth 0 a with
      | .error r => .error (.trap r.trap)
      | .ok _ => .ok (off, o)

def execBari (f : FM) (w : W1) (s : State) : Out :=
  .next (s.issue f.g 16 [f.a.toNat, f.d.toNat] fun act rd s =>
    let a := barAcc s f w (rd f.a.toNat) (lowest act) true
    let count := (rd f.d.toNat).toNat
    match s.barChecked a fun o => decide (count = 0 ∨ 2 ^ 20 < count ∨ o.rsvd ≠ 0) with
    | .error e => .error e
    | .ok (off, o) =>
        .ok (s.updBlock s.g.p.id.launch s.g.p.id.block fun b =>
          { b with
            scratch := BMap.writeNat b.scratch off 16 { o with expect := count, arrived := 0 }.toNat
            arrivals := b.arrivals.filter fun x => x.1 != off }))

def execBara (f : FM) (w : W1) (s : State) : Out :=
  .next (s.issue f.g 16 [f.a.toNat] fun act rd s =>
    let a := barAcc s f w (rd f.a.toNat) (lowest act) true
    match s.barChecked a fun o => !o.valid with
    | .error e => .error e
    | .ok (off, _) =>
      match s.arriveAt s.g.p.id.launch s.g.p.id.block off (some s.g.p.id.group) with
      | none => .error (.trap (structTrap (a.addr.getD 0) 7 false true (lowest act)))
      | some (p, s1) =>
        let o := barrierOf (BMap.readNat s1.scratch off 16)
        let s2 := s1.emit 0x04 (off + p * 2 ^ 20 + o.arrived * 2 ^ 96)
        let s' := if o.phase = p then s2 else s2.emit 0x05 (off + o.phase * 2 ^ 20)
        let g := s'.g
        .ok { s' with g := { g with
          r := g.r.setS f.d.toNat (BitVec.ofNat 64 p)
          det := if g.u.det then { g.det with baras := g.det.baras ++ [(off, p)] } else g.det } })

/-- R33: the return of the first BARW on the phase of the group's BARA in a resetting phase. -/
def State.barwDet (s : State) (off p : Nat) : State :=
  let resets := match s.findBlock s.g.p.id.launch s.g.p.id.block with
    | some b => b.resets
    | none => []
  if s.g.det.baras.contains (off, p) then
    { s with g := { s.g with det :=
        { count := if resets.contains (off, p) then 0 else s.g.det.count
          baras := s.g.det.baras.filter fun x => x != (off, p) } } }
  else s

/-! ### Held faults (R141, R162, R164, R180) -/

/-- The first held fault that a predicate selects; the lowest token number first. -/
def firstHeld (l : List Held) (p : Held → Bool) : Option Held :=
  (l.filter p).foldl (fun best h =>
    match best with
    | none => some h
    | some b =>
      match h.token, b.token with
      | some x, some y => if x < y then some h else some b
      | _, _ => some b) none

/-- Raises a held fault: it is no longer held, and a token that it still counts in is released. -/
def State.raiseHeld (s : State) (h : Held) : Stop :=
  let held := s.g.held.erase h
  let r := match h.token with
    | some t => if h.release then s.g.r.setTok t (s.g.r.getTok t - 1) else s.g.r
    | none => s.g.r
  .trapIn { s with g := { s.g with held := held, r := r } } h.trap

/-- The outstanding count of a token without the operations whose faults are held against it. -/
def Group.busy (g : Group) (t : Nat) : Nat :=
  g.r.getTok t - (g.held.filter fun h => h.release && h.token == some t).length

/-- The first fault held against the group without a token and not of a SEND (R154, R193). -/
def State.barrierHeld (s : State) : Option Held :=
  firstHeld s.g.held fun h => h.token.isNone && !h.send

/-- R155. The phase operand is an s register: PHASE is compared with its low 32 bits (DESIGN CHOICE, log entry 58). -/
def execBarw (f : FM) (w : W1) (s : State) : Out :=
  .next (s.issue f.g 16 [f.a.toNat, w.e1.toNat] fun act rd s =>
    let a := barAcc s f w (rd f.a.toNat) (lowest act) false
    match s.barChecked a fun o => !o.valid with
    | .error e => .error e
    | .ok (off, o) =>
      let p := (rd w.e1.toNat).toNat % 2 ^ 32
      match s.barrierHeld with
      | some h => .error (s.raiseHeld h)
      | none =>
      if o.phase = p then
        .error (Stop.keep [.here [{ scratch := true, at_ := off, len := 16 }]] (.hold s .barrier))
      else .ok (s.barwDet off p))

end Sys2Proof.Machine
end

