-- ==== Sys2Proof/Machine/Pages.lean ====
section
/-! DEFINITION. What the resident runtime does with page tables and memory of a context: allocating frames,
mapping and unmapping pages (R10, R292, R293, R334), and reading and writing through a context's tables. -/

namespace Sys2Proof.Machine

/-- A frame that the runtime takes, its bytes cleared. -/
def State.newFrame (s : State) : Nat × State :=
  let pa := Config.freeFrame s.frames % contextFrames * 4096
  (pa, { s with frames := s.frames + 1, mem := SMap.dropRange s.mem pa 4096, poison := SMap.dropRange s.poison pa 4096 })

/-- Physical bytes as one span of memory. -/
def spanOf (pa n : Nat) : List Span := [{ scratch := false, at_ := pa, len := n }]

/-- Writes 8-byte entries at physical addresses (R334). -/
def State.writePtes (s : State) (l : List (Nat × BitVec 64)) : State :=
  l.foldl (fun s x => s.writeSpans (spanOf x.1 8) x.2.toNat) s

/-- Bits of a leaf: valid, leaf, and W and X as given (R326). -/
def leafEntry (pa : Nat) (w x : Bool) : BitVec 64 :=
  BitVec.ofNat 64 (pa + 3 + (if w then 4 else 0) + (if x then 8 else 0))

/-- R334: the entries of the table that takes a larger leaf's place: its frames, with its permissions, TYPE, NX, G, A
and D. -/
def splitLeaf (e : BitVec 64) (level table : Nat) : List (Nat × BitVec 64) :=
  (List.range 512).map fun i =>
    (table + 8 * i, (e &&& 0x80000000000007DF#64) ||| BitVec.ofNat 64 (pteAddr e + i * leafSize (level - 1)))

/-- The address of the level-1 entry of an address, from the table `t` of level `l`, with missing tables made, and a
larger leaf on the way replaced by a table of smaller ones (R334). -/
def State.entryAt (s : State) (va t : Nat) : Nat → Nat × State
  | 0 => (t, s)
  | 1 => (t + 8 * vaIndex va 1, s)
  | l + 2 =>
    let a := t + 8 * vaIndex va (l + 2)
    let e := Mem.read64 s.mem a
    if e.getLsbD 0 && !e.getLsbD 1 then s.entryAt va (pteAddr e) (l + 1)
    else
      let f := s.newFrame
      let rest := if e.getLsbD 0 then splitLeaf e (l + 2) f.1 else []
      (f.2.writePtes (rest ++ [(a, BitVec.ofNat 64 (f.1 + 1))])).entryAt va f.1 (l + 1)

/-- Frames taken since `old` are a context's. -/
def State.ownFrames (s old : State) (ctx : Nat) : State :=
  s.updCtx ctx fun c => { c with frames := c.frames + (s.frames - old.frames) }

/-- The entry of one page, with the tables on the way. -/
def State.mapEntry (s : State) (ctx va : Nat) (leaf : BitVec 64) : State :=
  match (s.findCtx ctx).bind Ctx.root with
  | none => s
  | some root =>
    let e := s.entryAt va root 5
    e.2.writePtes [(e.1, leaf)]

/-- Maps one page of a context on a frame. -/
def State.mapAt (s : State) (ctx va pa : Nat) (w x : Bool) : State :=
  (s.mapEntry ctx va (leafEntry pa w x)).ownFrames s ctx

/-- Maps one page of a context on a fresh frame. -/
def State.mapPage (s : State) (ctx va : Nat) (w x : Bool) : State :=
  let f := s.newFrame
  (f.2.mapEntry ctx va (leafEntry f.1 w x)).ownFrames s ctx

/-- Maps the pages of [va, va + n). -/
def State.mapRange (s : State) (ctx va n : Nat) (w x : Bool) : State :=
  (List.range ((n + 4095) / 4096)).foldl (fun s i => s.mapPage ctx (va + 4096 * i) w x) s

/-- A context gives one frame back. -/
def State.giveFrame (s : State) (ctx : Nat) : State :=
  ({ s with freed := s.freed + 1 } : State).updCtx ctx fun c => { c with frames := c.frames - 1 }

/-- Clears V in the leaf of one page, whose frame returns, and forgets a page that the runtime holds elsewhere. -/
def State.unmapPage (s : State) (ctx va : Nat) : State :=
  let s1 := s.updCtx ctx fun c => { c with nonresident := c.nonresident.filter fun p => p != va / 4096 }
  match s1.leafOf ctx {} va, (s1.findCtx ctx).bind Ctx.root with
  | .ok _, some root =>
    let e := s1.entryAt va root 5
    ((e.2.writePtes [(e.1, 0)]).ownFrames s1 ctx).giveFrame ctx
  | _, _ => s1

/-- Unmaps the pages of [va, va + n). -/
def State.unmapRange (s : State) (ctx va n : Nat) : State :=
  (List.range ((n + 4095) / 4096)).foldl (fun s i => s.unmapPage ctx (va + 4096 * i)) s

/-- Whether a page of [va, va + n) is one that the runtime has made non-resident (R328). -/
def State.awayIn (s : State) (ctx va n : Nat) : Bool :=
  match s.findCtx ctx with
  | none => false
  | some c => c.nonresident.any fun p => decide (4096 * p < va + n) && decide (va < 4096 * p + 4096)

/-- Whether a place lies in memory that a translation gave. -/
def Where.mapped : Where → Bool
  | .here l => l.any fun p => !p.scratch && !p.priv
  | .away _ => false

/-- Whether a group holds translations of accesses that are not performed yet: those of an instruction that has begun,
and those of gated stores (R256, R334). -/
def Group.holdsPlaces (g : Group) : Bool :=
  (match g.kept with | some ws => ws.any Where.mapped | none => false) || !g.nat.gate.isEmpty ||
  (match g.pend with | .tile _ _ _ => true | _ => false)

/-- Whether operations or accesses that have passed their page checks are still under way in a context (R319, R334). -/
def State.pinned (s : State) (ctx : Nat) : Bool :=
  (s.jobs.any fun j => j.ctx == ctx) || (s.pins.any fun p => p.ctx == ctx) ||
  (s.faorIn.any fun x => x.msg.ctx == ctx) ||
  s.groups.any fun g => g.p.ctx == ctx && g.holdsPlaces

/-- The spans of [va, va + n) of a context, when every page may be read or written; the windows and the binding range
reach no walk (R325). -/
def State.ctxSpans (s : State) (ctx va n : Nat) (write : Bool) : Option (List Span) :=
  if bindBase < va + n then none
  else match s.pageSpans ctx { write := write } (n / 4096 + 2) va n with
    | (l, none) => some l
    | _ => none

def State.readCtx (s : State) (ctx va n : Nat) : Option Nat := (s.ctxSpans ctx va n false).map s.readSpans

def State.writeCtx (s : State) (ctx va n v : Nat) : Option State :=
  (s.ctxSpans ctx va n true).map fun l => (s.touchPages ctx true (n / 4096 + 2) va n).writeSpans l v

/-- Writes bytes that the runtime places, whatever the pages' permissions: each page's at once. -/
def State.placeCtx (s : State) (ctx va : Nat) (bs : List Nat) : State :=
  match s.ctxSpans ctx va bs.length false with
  | some l => s.writeSpans l (bs.foldr (fun b n => b % 256 + 256 * n) 0)
  | none => s

/-- Field of `n` bytes at byte `i` of a little-endian number. -/
def fieldAt (v i n : Nat) : Nat := v / 256 ^ i % 256 ^ n

end Sys2Proof.Machine
end

