-- ==== Sys2Proof/Machine/Fields.lean ====
section
/-! DEFINITION. The register fields of each form by major (R68, R77), the registers that an instruction's words read
and write, its successors, and the claims of long-latency instructions (R74). -/

namespace Sys2Proof.Machine

/-- What a register field names: a vector register, a scalar, or something that keeps its virtual number. -/
inductive NField where
  | other | v | s
  deriving DecidableEq, Repr

/-- Majors of the V slots that have layout FQ. -/
def isFQ (op : Nat) : Bool := [0x1C, 0x27, 0x28, 0x2B, 0x2D, 0x33].contains op

/-- Classes of D, A and B of a form in layout FR. -/
def frFields (op min ty : Nat) : NField × NField × NField :=
  if op ≤ 0x11 then (.s, .s, if op = 0x11 then .other else .s)
  else if op = 0x2A ∨ op = 0x36 then (.other, .v, .v)
  else if op = 0x2C then
    (match min with | 0 => (.v, .v, .other) | 1 => (.v, .s, .other) | _ => (.v, .s, .s))
  else if op = 0x2E then (.other, .other, .other)
  else if op = 0x2F then (if min = 0 then (.s, .other, .other) else (.other, .s, .other))
  else if op = 0x41 then (.v, .v, if ty = 14 ∨ min / 16 = 14 then .s else .other)
  else if op = 0x49 then (.v, .v, .s)
  else if op = 0x4C then (.s, if min = 3 then .v else .other, .other)
  else if op = 0x4D then (.v, .v, .s)
  else if [0x1F, 0x23, 0x29, 0x38, 0x39, 0x3A, 0x3B, 0x3C, 0x3D, 0x3E, 0x3F, 0x40, 0x43, 0x4A,
           0x4B].contains op then (.v, .v, .other)
  else if 0x18 ≤ op ∧ op ≤ 0x4D then (.v, .v, .v)
  else if op = 0x63 then (.other, if min = 0 then .s else .v, .other)
  else if op = 0x65 then (.v, if min = 0 then .s else .v, .other)
  else if op = 0x66 then (.other, .v, .other)
  else if op = 0x76 then (.other, .s, .s)
  else if op = 0x78 then (.other, .s, .other)
  else if 0xA0 ≤ op then (.s, .s, .s)
  else (.other, .other, .other)

/-- Classes of D, X, E1 and E2 of a memory form. -/
def fmFields (op : Nat) : NField × NField × NField × NField :=
  match op with
  | 0x50 | 0x52 => (.s, .s, .other, .other)
  | 0x51 | 0x53 => (.s, .other, .other, .other)
  | 0x54 | 0x56 => (.v, .v, .other, .other)
  | 0x55 | 0x57 => (.v, .other, .other, .other)
  | 0x58 | 0x59 => (.v, .s, .other, .other)
  | 0x5A => (.other, .v, .other, .other)
  | 0x5B | 0x5C => (.other, .s, .other, .other)
  | 0x80 | 0x81 => (.s, .s, .other, .other)
  | 0x82 | 0x83 => (.v, .v, .other, .other)
  | 0x84 => (.v, .v, .s, .other)
  | 0x85 => (.s, .s, .other, .other)
  | 0x86 => (.other, .s, .s, .other)
  | 0x87 | 0x88 | 0x90 => (.v, .v, .v, .other)
  | 0x91 => (.v, .s, .v, .other)
  | 0x92 => (.s, .v, .v, .other)
  | 0x93 => (.v, .v, .v, .v)
  | 0x94 | 0x95 => (.s, .other, .s, .other)
  | 0x96 => (.other, .s, .s, .other)
  | 0x98 | 0x99 => (.s, .other, .other, .other)
  | 0x9A => (.other, .other, .s, .other)
  | _ => (.other, .other, .other, .other)

/-! ### Registers read and written -/

/-- The registers of a class from one on. -/
def regsFrom (c : NField) (i n : Nat) : List RName :=
  match c with
  | .v => (List.range n).map fun j => .v (i + j)
  | .s => (List.range n).map fun j => .s (i + j)
  | .other => []

/-- v registers of an element of a type (R92), and of a vector access (R128). -/
def tyRegs (ty : Nat) : Nat := if wideTy ty then 2 else 1
def szRegs (sz : BitVec 3) : Nat := if sz = 4#3 then 4 else if sz = 3#3 then 2 else 1

/-- Majors whose scalar data field takes the class of R128: the scalar loads and stores. In the other forms a scalar
field is one register at every size. -/
def scalarData (op : Nat) : Bool := [0x50, 0x51, 0x52, 0x53, 0x80, 0x81].contains op

/-- Registers of a data field of an access: an sp pair, or the v registers of its size (R128). -/
def dataRegs (op : Nat) (c : NField) (sz : BitVec 3) (i : Nat) : List RName :=
  match c with
  | .s => regsFrom .s i (if scalarData op && sz = 4#3 then 2 else 1)
  | _ => regsFrom c i (szRegs sz)

/-- Access forms that write their data field. -/
def isLoadForm (op : Nat) : Bool :=
  [0x50, 0x51, 0x54, 0x55, 0x58, 0x80, 0x82, 0x87, 0x90, 0x91, 0x93].contains op

/-- The registers that an instruction's words write. -/
def wordWrites (w0 w1 : Word64) : List RName :=
  let op := (opOf w0).toNat
  let f := FR.ofWord w0
  let q := FQ.ofWord w0
  let m := FM.ofWord w0
  let d := f.d.toNat
  let minor4 := (FI.ofWord w0).min4.toNat
  if op ≤ 0x16 then [.s d]
  else if op = 0x17 then (if minor4 = 2 then [.n d] else [.s d])
  else if op = 0x2A ∨ op = 0x36 ∨ op = 0x2E then [.k d]
  else if op = 0x2F then (if f.min = 0#8 then [.s d] else [.k d])
  else if op = 0x29 ∨ op = 0x2D ∨ op = 0x42 then [.v d]
  else if op = 0x4C then [.s d]
  else if op = 0x4D then [.v d, .s f.b.toNat]
  else if op ≤ 0x4D then regsFrom .v d (tyRegs (if isFQ op then q.ty.toNat else f.ty.toNat))
  else if isLoadForm op then dataRegs op (fmFields op).1 m.sz d
  else if op = 0x94 ∨ op = 0x95 ∨ op = 0x99 ∨ op = 0xAE then [.s d]
  else if op = 0x96 then [.k d]
  else if op = 0x64 ∨ op = 0x65 then regsFrom .v d 2
  else if op = 0x68 ∨ op = 0x69 then [.lc d]
  else if op = 0x70 then
    (match (FI.ofWord w0).imm.toNat with | 0 => [.v d] | 0x51 => regsFrom .v d 2 | _ => [.s d])
  else if op = 0xF8 then
    let v := FR.ofWord w1
    let vop := (opOf w1).toNat
    .s d :: (if vop = 0x2A ∨ vop = 0x36 ∨ vop = 0x2E then [.k v.d.toNat]
      else if vop = 0x2F then (if v.min = 0#8 then [.s v.d.toNat] else [.k v.d.toNat])
      else if vop = 0x4C then [.s v.d.toNat]
      else if vop = 0x4D then [.v v.d.toNat, .s v.b.toNat]
      else if vop = 0x29 ∨ vop = 0x2D ∨ vop = 0x42 then [.v v.d.toNat]
      else regsFrom .v v.d.toNat (tyRegs (if isFQ vop then (FQ.ofWord w1).ty.toNat else v.ty.toNat)))
  else []

/-- The registers that a word of majors 0x00 to 0x4F reads, beside its guard. -/
def aluReads (w : Word64) : List RName :=
  let op := (opOf w).toNat
  let f := FR.ofWord w
  let q := FQ.ofWord w
  let i := FI.ofWord w
  let n := tyRegs (if isFQ op then q.ty.toNat else f.ty.toNat)
  if op = 0x12 ∨ op = 0x14 then [.s q.a.toNat, .s q.b.toNat, .s q.c.toNat]
  else if op = 0x13 then [.s q.d.toNat, .s q.a.toNat, .s q.b.toNat, .s q.c.toNat]
  else if op = 0x15 ∨ op = 0x16 then [.s i.a.toNat]
  else if op = 0x17 then
    (match i.min4.toNat with | 2 => [.s i.a.toNat] | 3 => [.n i.a.toNat] | _ => [])
  else if op = 0x27 ∨ op = 0x28 then
    (if op = 0x28 then regsFrom .v q.d.toNat n else []) ++ regsFrom .v q.a.toNat n ++ [.v q.b.toNat, .v q.c.toNat]
  else if op = 0x2B then regsFrom .v q.a.toNat n ++ regsFrom .v q.b.toNat n ++ [.k q.c.toNat]
  else if isFQ op then regsFrom .v q.a.toNat n ++ regsFrom .v q.b.toNat n ++ regsFrom .v q.c.toNat n
  else if op = 0x2E then [.k f.a.toNat, .k f.b.toNat]
  else if op = 0x2F then (if f.min = 0#8 then [.k f.a.toNat] else [.s f.a.toNat])
  else if op = 0x4C ∧ f.min ≠ 3#8 then [.k f.a.toNat]
  else if op = 0x4D then [.v f.a.toNat, .k (f.min.toNat % 8)]
  else
    let c := frFields op f.min.toNat f.ty.toNat
    let src := if op = 0x41 ∨ op = 0x42 ∨ op = 0x43 then tyRegs (f.min.toNat / 16) else n
    let nb := if (0x24 ≤ op ∧ op ≤ 0x26) ∨ op = 0x44 ∨ op = 0x48 then 1 else src
    (if op = 0x42 ∧ f.min.getLsbD 3 then [.v f.d.toNat] else []) ++
      regsFrom c.2.1 f.a.toNat (if c.2.1 = .v then src else 1) ++ regsFrom c.2.2 f.b.toNat (if c.2.2 = .v then nb else 1)

/-- The registers that an instruction's words read. -/
def wordReads (w0 w1 : Word64) : List RName :=
  let op := (opOf w0).toNat
  let f := FR.ofWord w0
  let m := FM.ofWord w0
  let w := W1.ofWord w1
  let index (c : NField) (r : BitVec 12) : List RName := if r = 0#12 then [] else regsFrom c r.toNat 1
  .k (f.g.toNat % 8) ::
    (if op ≤ 0x4F then aluReads w0
     else if op ≤ 0x5C ∨ (0x80 ≤ op ∧ op ≤ 0x9A ∧ op ≠ 0x97) then
       let c := fmFields op
       [.s m.a.toNat, .n m.n.toNat] ++ index c.2.1 m.x ++
         (if isLoadForm op ∨ op = 0x94 ∨ op = 0x95 ∨ op = 0x99 then [] else dataRegs op c.1 m.sz m.d.toNat) ++
         (if op = 0x92 ∧ w.e2.extractLsb' 4 4 = 10#4 then [.v w.e1.toNat]
           else if 0x90 ≤ op ∧ op ≤ 0x93 then dataRegs op c.2.2.1 m.sz w.e1.toNat else index c.2.2.1 w.e1) ++
         (if op = 0x93 then dataRegs op .v m.sz w.e2.toNat else [])
     else if op = 0x61 then [.s f.d.toNat]
     else if op = 0x62 then [.k f.d.toNat]
     else if op = 0x63 ∨ op = 0x65 then
       (if f.min = 0#8 then [.s f.a.toNat] else regsFrom .v f.a.toNat 2)
     else if op = 0x66 then regsFrom .v f.a.toNat 2
     else if op = 0x68 ∨ op = 0x69 then [.lc f.d.toNat]
     else if op = 0x71 ∨ op = 0x7A then [.s f.a.toNat]
     else if op = 0x75 then [.s 8, .s 9]
     else if op = 0x76 then [.s f.a.toNat, .s f.b.toNat]
     else if op = 0x78 then [.s f.a.toNat, .n f.b.toNat]
     else if 0xA0 ≤ op ∧ op ≤ 0xAF then
       (if op = 0xAE then [] else [.s f.d.toNat]) ++ [.s f.a.toNat, .s f.b.toNat] ++ index .s w.e1
     else if op = 0xF8 then
       let p := PairHead.ofWord w0
       .s p.a.toNat :: ((if p.i = 1#1 then [] else [.s p.b.toNat]) ++ aluReads w1)
     else [])

/-- Majors whose forms are long-latency (R95, R134, R219). -/
def isLongLatency (op : Nat) : Bool :=
  [0x04, 0x05, 0x37, 0x38, 0x39, 0x3A, 0x3B, 0x3C, 0x3D, 0x3E, 0x3F, 0x48, 0x49, 0x4A, 0x4B, 0x4C, 0x4D,
   0x94, 0x95, 0x96, 0x99, 0xAE].contains op || isLoadForm op

/-- The claim that an instruction's words make: LA of a long-latency form; a pair takes its vector half's (R74, R75). -/
def claimOf (w0 w1 : Word64) : Nat :=
  let w := if opOf w0 = 0xF8#8 then w1 else w0
  let op := (opOf w).toNat
  if !isLongLatency op then 0
  else if op ≤ 0x4F ∨ op = 0xAE then (FR.ofWord w).la.toNat
  else (FM.ofWord w).la.toNat

/-- The registers whose early reading contradicts a claim: the long-latency half's destinations. -/
def claimDests (w0 w1 : Word64) : List RName :=
  (if opOf w0 = 0xF8#8 then (wordWrites w0 w1).tail else wordWrites w0 w1).filter fun x =>
    x != .s 0 && x != .k 0 && x != .n 0

/-! ### Uncorrectable register errors (R94, R407, R408) -/

/-- Majors that read lanes besides their own (R119 to R127). -/
def crossesLanes (op : Nat) : Bool := [0x48, 0x49].contains op

/-- Whether an instruction's words, with the lanes active, read an entry that holds an uncorrectable error. -/
def Group.readsBadIn (g : Group) (reads : List RName) (cross : Bool) (act : List Nat) : Bool :=
  !act.isEmpty && g.badRegs.any fun x => reads.contains x.1 &&
    (match x.1 with
    | .v _ => cross || act.contains x.2
    | _ => true)

/-- The lanes of a vector destination that an instruction writes: VPART writes by position (R127). -/
def lanesWritten (op : Nat) (act : List Nat) : List Nat := if op = 0x4D then List.range act.length else act

/-- The entries still in error once an instruction's words have written their destinations. -/
def Group.badAfter (g : Group) (w0 w1 : Word64) (act : List Nat) : List (RName × Nat) :=
  let op := (opOf (if opOf w0 = 0xF8#8 then w1 else w0)).toNat
  g.badRegs.filter fun x => !((wordWrites w0 w1).contains x.1 &&
    (match x.1 with
    | .v _ => (lanesWritten op act).contains x.2
    | _ => !act.isEmpty))

/-- Instructions with effects beyond the group or on shared timing: each forms a region of its own. -/
def isRegionOfItsOwn (w0 w1 : Word64) : Bool :=
  let op := (opOf w0).toNat
  let w := W1.ofWord w1
  let wide := decide (1 ≤ w.scope.toNat)
  [0x78, 0x90, 0x91, 0x93, 0x94, 0x95, 0x96, 0x85, 0x86, 0x98, 0x99, 0x9A, 0x6A, 0x6B, 0x79, 0x75, 0x72, 0x74, 0x73,
    0x76, 0x77, 0x71].contains op ||
  (decide (0xA0 ≤ op) && decide (op ≤ 0xAF)) || (op == 0x97 && wide) ||
  ([0x80, 0x82, 0x87].contains op && w.ord.toNat % 2 == 1 && wide) ||
  ([0x81, 0x83, 0x88].contains op && w.ord.toNat / 2 == 1 && wide) ||
  (op == 0x70 && [0x10, 0x11, 0x52].contains (FI.ofWord w0).imm.toNat) ||
  (wordReads w0 w1).any fun r => match r with | .s i => isQ i | _ => false

/-! ### Successors -/

/-- The offset target of the instruction at an address. -/
def branchTo (a : Nat) (w0 : Word64) : Nat := ((a : Int) + 8 * (FB.ofWord w0).off.toInt).toNat

/-- Where control may go on in the same procedure after an instruction at an address: a call goes on behind it
(R268), and an instruction whose guard may be false goes on whatever it is. -/
def succs (a : Nat) (w0 : Word64) : List Nat :=
  let op := (opOf w0).toNat
  let next := a + (if longOp (opOf w0) then 16 else 8)
  let target := branchTo a w0
  let always := (FR.ofWord w0).g == 0#4
  if op = 0x60 then (if always then [target] else [target, next])
  else if op = 0x61 ∨ op = 0x62 ∨ op = 0x68 ∨ op = 0x69 then [target, next]
  else if (op = 0x63 ∨ op = 0x66 ∨ op = 0x67 ∨ op = 0x73) ∧ always then []
  else [next]

/-- Walks the code from some addresses: every instruction reached, as its address and words, without crossing a
call. An instruction whose second word cannot be read is listed without it, and ends its path (R65). -/
def walkCode (word : Nat → Option Word64) : Nat → List Nat → List (Nat × Word64 × Option Word64) →
    List (Nat × Word64 × Option Word64)
  | 0, _, seen => seen
  | _, [], seen => seen
  | n + 1, a :: rest, seen =>
    if seen.any fun x => x.1 == a then walkCode word n rest seen
    else
      match word a with
      | none => walkCode word n rest seen
      | some w0 =>
        match (if longOp (opOf w0) then word (a + 8) else some 0) with
        | none => walkCode word n rest ((a, w0, none) :: seen)
        | some w1 => walkCode word n (rest ++ succs a w0) ((a, w0, some w1) :: seen)

end Sys2Proof.Machine
end

