-- ==== Sys2Proof/Machine/Transc.lean ====
section
/-! DEFINITION. The correctly rounded functions (R114). Each is evaluated in fixed point to p bits
with an error below 2^24 units; when both ends of that interval round to one code, the code is the
correctly rounded result, and otherwise p doubles. Arguments whose result is exact are served apart,
so the doubling ends. -/

namespace Sys2Proof.Num

/-- Sum of z^(2k+1)/(2k+1) from term k on, in units of 2^−p; `pw` is z^(2k+1). -/
def atanhSum (p z2 : Nat) : Nat → Nat → Nat → Nat
  | 0, _, _ => 0
  | n + 1, k, pw => pw / (2 * k + 1) + atanhSum p z2 n (k + 1) (pw * z2 / 2 ^ p)

/-- ln 2 = 2 · atanh(1/3), in units of 2^−p. -/
def ln2At (p : Nat) : Nat := 2 * atanhSum p (2 ^ p / 9) (p / 3 + 4) 0 (2 ^ p / 3)

/-- atan(1/q) with alternating signs, in units of 2^−p. -/
def atanInv (p q : Nat) : Nat → Nat → Nat → Int
  | 0, _, _ => 0
  | n + 1, k, pw =>
    (if k % 2 = 0 then 1 else -1) * ((pw / (2 * k + 1) : Nat) : Int) +
      atanInv p q n (k + 1) (pw / (q * q))

/-- π = 16 · atan(1/5) − 4 · atan(1/239), in units of 2^−p. -/
def piAt (p : Nat) : Int :=
  16 * atanInv p 5 (p / 4 + 4) 0 (2 ^ p / 5) - 4 * atanInv p 239 (p / 15 + 4) 0 (2 ^ p / 239)

/-- Sum of t^n/n! from the term `tm` = t^(n−1)/(n−1)! on, in units of 2^−p. -/
def expSum (p t : Nat) : Nat → Nat → Nat → Nat
  | 0, _, tm => tm
  | k + 1, n, tm => tm + expSum p t k (n + 1) (tm * t / (n * 2 ^ p))

/-- e^t for 0 ≤ t < 1, in units of 2^−p. -/
def expAt (p t : Nat) : Nat := expSum p t (p / 4 + 8) 1 (2 ^ p)

/-- Sum of the sine series from the term `tm` on, in units of 2^−p. -/
def sinSum (p x2 : Nat) : Nat → Nat → Nat → Int
  | 0, _, _ => 0
  | k + 1, n, tm =>
    (tm : Int) - sinSum p x2 k (n + 2) (tm * x2 / 2 ^ p / ((n + 1) * (n + 2)))

/-- sin x for 0 ≤ x < 2, in units of 2^−p. -/
def sinAt (p x : Nat) : Int := sinSum p (x * x / 2 ^ p) (p / 4 + 8) 1 x

/-- m · 2^e in units of 2^−p, rounded down. -/
def fixAt (p m : Nat) (e : Int) : Nat := roundMag .rz false m (e + p)

/-- The approximation error allowed for, in units of 2^−p. -/
def slack : Int := 2 ^ 24

/-- Doubles the precision until both ends of the interval round to one code. `f p` is the value in
units of 2^(k−p), with k. -/
def refine (eb fb : Nat) (neg : Bool) (f : Nat → Int × Int) : Nat → Nat → Nat
  | 0, p =>
    let (y, k) := f p
    roundIeee eb fb .rne false (.fin neg y.natAbs (k - p))
  | n + 1, p =>
    let (y, k) := f p
    let lo := roundIeee eb fb .rne false (.fin neg (y - slack).toNat (k - p))
    let hi := roundIeee eb fb .rne false (.fin neg (y + slack).toNat (k - p))
    if lo = hi ∧ 0 < y - slack then lo else refine eb fb neg f n (2 * p)

/-- Whether a dyadic is an integer. -/
def isInt (m : Nat) (e : Int) : Bool := decide (0 ≤ e) || m % pow2 (-e) == 0

/-- 2^A. -/
def exp2Code (eb fb : Nat) (v : Val) : Nat :=
  let out := roundIeee eb fb .rne false
  match v with
  | .nan => out .nan
  | .inf n => if n then out (.fin false 0 0) else out (.inf false)
  | .fin n m e =>
    if (bitLen m : Int) + e > 14 then (if n then out (.fin false 0 0) else out (.inf false))
    else if isInt m e then
      let k : Int := roundMag .rz false m e
      out (.fin false 1 (if n then -k else k))
    else
      let k : Int := roundInt .rdn n m e
      refine eb fb false (fun p =>
        -- fraction A − k in units of 2^−p, in (0, 1)
        let a : Int := if n then -(roundMag .rup false m (e + p) : Int) else (fixAt p m e : Int)
        let fr := (a - k * 2 ^ p).toNat
        ((expAt p (fr * ln2At p / 2 ^ p) : Int), k)) 8 320

/-- log₂ A. -/
def log2Code (eb fb : Nat) (v : Val) : Nat :=
  let out := roundIeee eb fb .rne false
  match v with
  | .nan => out .nan
  | .inf n => if n then out .nan else out (.inf false)
  | .fin n m e =>
    if m = 0 then out (.inf true)
    else if n then out .nan
    else
      let k : Int := e + bitLen m - 1
      if m = 2 ^ (bitLen m - 1) then out (ofInt k)
      else
        let f (p : Nat) : Int :=
          -- mantissa in [1, 2), z = (x − 1)/(x + 1)
          let x := m * 2 ^ p / 2 ^ (bitLen m - 1)
          let z := (x - 2 ^ p) * 2 ^ p / (x + 2 ^ p)
          let ln := 2 * atanhSum p (z * z / 2 ^ p) (p / 3 + 4) 0 z
          k * 2 ^ p + (ln * 2 ^ p / ln2At p : Nat)
        refine eb fb (decide (k < 0)) (fun p => ((f p).natAbs, 0)) 8 320

/-- |sin(π·r)| for r = x/2^(d) with 0 < r < 1, not 1/2, in units of 2^−p. -/
def sinPiAt (x d p : Nat) : Int :=
  -- fold to r ≤ 1/2
  let y := if 2 * x > 2 ^ d then 2 ^ d - x else x
  sinAt p ((piAt p).toNat * y / 2 ^ d)

/-- sin(π·A), the argument as a count `q` of units 2^−d of a half-turn, taken modulo 2, of sign
`n`. -/
def sinPiCode (eb fb : Nat) (n : Bool) (q d : Nat) (zero : Val) : Nat :=
  let out := roundIeee eb fb .rne false
  let h := 2 ^ d
  let x := q % h
  let neg := (q / h % 2 == 1) != n
  if x = 0 then out zero
  else if 2 * x = h then out (.fin neg 1 0)
  else refine eb fb neg (fun p => (sinPiAt x d p, 0)) 8 320

/-- sin(π·A); a zero result has the sign of A. -/
def sinCode (eb fb : Nat) (v : Val) : Nat :=
  match v with
  | .nan => nanCode eb fb
  | .inf _ => nanCode eb fb
  | .fin n m e => sinPiCode eb fb n (m * pow2 e) (-e).toNat (.fin n 0 0)

/-- cos(π·A) = sin(π·(|A| + 1/2)); a zero result is +0. -/
def cosCode (eb fb : Nat) (v : Val) : Nat :=
  match v with
  | .nan => nanCode eb fb
  | .inf _ => nanCode eb fb
  | .fin _ m e =>
    let d := (-e).toNat + 1
    sinPiCode eb fb false (2 * (m * pow2 e) + 2 ^ (d - 1)) d (.fin false 0 0)

/-- tanh A. -/
def tanhCode (eb fb : Nat) (v : Val) : Nat :=
  let out := roundIeee eb fb .rne false
  match v with
  | .nan => out .nan
  | .inf n => out (.fin n 1 0)
  | .fin n m e =>
    if m = 0 then out (.fin n 0 0)
    else if (bitLen m : Int) + e > 5 then out (.fin n 1 0)
    else
      refine eb fb n (fun p =>
        let u := fixAt p m (e + 1)
        -- e^u by 64 equal factors
        let b := expAt p (u / 64)
        let sq (x : Nat) : Nat := x * x / 2 ^ p
        let t := sq (sq (sq (sq (sq (sq b)))))
        (((t - 2 ^ p) * 2 ^ p / (t + 2 ^ p) : Nat), 0)) 8 512

/-- 1/A. -/
def rcpCode (eb fb : Nat) (v : Val) : Nat :=
  roundIeee eb fb .rne false (div (.fin false 1 0) v)

/-- 1/√A. -/
def rsqCode (eb fb : Nat) (v : Val) : Nat :=
  let out := roundIeee eb fb .rne false
  match v with
  | .nan => out .nan
  | .inf n => if n then out .nan else out (.fin false 0 0)
  | .fin n m e =>
    if m = 0 then out (.inf n)
    else if n then out .nan
    else
      -- A = m' · 2^(2j)
      let m' := if e % 2 = 0 then m else 2 * m
      let j := (e - e % 2) / 2
      let k := bitLen m' + 80
      let r := isqrt (2 ^ (2 * k) / m')
      let exact := r * r * m' == 2 ^ (2 * k)
      out (.fin false (2 * r + (if exact then 0 else 1)) (-j - k - 1))

end Sys2Proof.Num
end

