-- ==== Sys2Proof/Machine/Flags.lean ====
section
/-! DEFINITION. The conditions that instructions test: the machine has no flags register, and each
compare writes a register (R99, R113, R159, R151). -/

namespace Sys2Proof.Machine
open Sys2Proof.Num

/-- The conditions of SET and VCMP (R99) on two integers. -/
def intCond (minor : Nat) (a b : Int) : Bool :=
  match minor with
  | 0 => decide (a = b) | 1 => decide (a ≠ b) | 2 => decide (a < b) | 3 => decide (a ≤ b)
  | 4 => decide (b < a) | _ => decide (b ≤ a)

/-- The conditions of VFCMP (R113). -/
def floatCond (minor : Nat) (a b : Val) : Bool :=
  match cmp a b with
  | none => minor == 1 || minor == 6
  | some c =>
    match minor with
    | 0 => decide (c = 0) | 1 => decide (c ≠ 0) | 2 => decide (c < 0) | 3 => decide (c ≤ 0)
    | 4 => decide (0 < c) | 5 => decide (0 ≤ c) | 6 => false | _ => true

/-- The conditions of BRC (R159) on a signed 64-bit value. -/
def branchCond (minor : Nat) (a : Int) : Bool :=
  match minor with
  | 0 => decide (a = 0) | 1 => decide (a ≠ 0) | 2 => decide (a < 0) | _ => decide (0 ≤ a)

end Sys2Proof.Machine
end

