-- ==== Sys2Proof/Machine/Scalar.lean ====
section
/-! DEFINITION. The scalar integer and address forms (R97 to R104). -/

namespace Sys2Proof.Machine
open Sys2Proof.Num

/-- The value that a three-register scalar form writes (R97, R99, R100): shared with the scalar half
of a pair (R75). -/
def aluS (op : Alu) (ty : BitVec 4) (a b : BitVec 64) : BitVec 64 :=
  result64 ty.toNat (aluCode op ty.toNat a.toNat b.toNat)

/-- R99. -/
def setS (minor : Nat) (ty : BitVec 4) (a b : BitVec 64) : BitVec 64 :=
  if intCond minor (intVal ty.toNat a.toNat) (intVal ty.toNat b.toNat) then 1 else 0

/-- Issues a form that writes one value to sD from sA and sB. -/
def State.scalar2 (s : State) (f : FR) (v : BitVec 64 → BitVec 64 → BitVec 64) : State :=
  s.issueRegs f.g [f.a.toNat, f.b.toNat] fun _ rd r =>
    r.setS f.d.toNat (v (rd f.a.toNat) (rd f.b.toNat))

/-- Issues a form that writes one value to sD from sA. -/
def State.scalar1 (s : State) (g : BitVec 4) (d a : BitVec 12) (v : BitVec 64 → BitVec 64) : State :=
  s.issueRegs g [a.toNat] fun _ rd r => r.setS d.toNat (v (rd a.toNat))

def execAdd (f : FR) (s : State) : Out := .next (s.scalar2 f (aluS .add f.ty))
def execSub (f : FR) (s : State) : Out := .next (s.scalar2 f (aluS .sub f.ty))
def execMul (f : FR) (s : State) : Out := .next (s.scalar2 f (aluS .mul f.ty))
def execMulh (f : FR) (s : State) : Out := .next (s.scalar2 f (aluS .mulh f.ty))
def execDiv (f : FR) (s : State) : Out := .next (s.scalar2 f (aluS .div f.ty))
def execRem (f : FR) (s : State) : Out := .next (s.scalar2 f (aluS .rem f.ty))
def execAnd (f : FR) (s : State) : Out := .next (s.scalar2 f (aluS .and f.ty))
def execOr (f : FR) (s : State) : Out := .next (s.scalar2 f (aluS .or f.ty))
def execXor (f : FR) (s : State) : Out := .next (s.scalar2 f (aluS .xor f.ty))
def execAndn (f : FR) (s : State) : Out := .next (s.scalar2 f (aluS .andn f.ty))
def execShl (f : FR) (s : State) : Out := .next (s.scalar2 f (aluS (.shift .shl) f.ty))
def execShr (f : FR) (s : State) : Out := .next (s.scalar2 f (aluS (.shift .shr) f.ty))
def execSar (f : FR) (s : State) : Out := .next (s.scalar2 f (aluS (.shift .sar) f.ty))
def execRot (f : FR) (s : State) : Out := .next (s.scalar2 f (aluS (.shift .rot) f.ty))
def execMin (f : FR) (s : State) : Out := .next (s.scalar2 f (aluS .min f.ty))
def execMax (f : FR) (s : State) : Out := .next (s.scalar2 f (aluS .max f.ty))
def execSet (f : FR) (s : State) : Out := .next (s.scalar2 f (setS f.min.toNat f.ty))

/-- R100: the count is written unchanged. -/
def execClz (f : FR) (s : State) : Out :=
  .next (s.scalar1 f.g f.d f.a fun a => BitVec.ofNat 64 (clzCode (tyBits f.ty.toNat) a.toNat))
def execCtz (f : FR) (s : State) : Out :=
  .next (s.scalar1 f.g f.d f.a fun a => BitVec.ofNat 64 (ctzCode (tyBits f.ty.toNat) a.toNat))
def execPopc (f : FR) (s : State) : Out :=
  .next (s.scalar1 f.g f.d f.a fun a => BitVec.ofNat 64 (popCode (tyBits f.ty.toNat) a.toNat))

/-- R101. -/
def execBfx (f : FQ) (s : State) : Out :=
  .next (s.issueRegs f.g [f.a.toNat, f.b.toNat, f.c.toNat] fun _ rd r =>
    r.setS f.d.toNat (result64 f.ty.toNat
      (bfxCode f.ty.toNat (rd f.a.toNat).toNat (rd f.b.toNat).toNat (rd f.c.toNat).toNat)))

def execBfi (f : FQ) (s : State) : Out :=
  .next (s.issueRegs f.g [f.a.toNat, f.b.toNat, f.c.toNat] fun _ rd r =>
    r.setS f.d.toNat (result64 f.ty.toNat
      (bfiCode f.ty.toNat (r.getS f.d.toNat).toNat (rd f.a.toNat).toNat (rd f.b.toNat).toNat
        (rd f.c.toNat).toNat)))

/-- R102. -/
def execSel (f : FQ) (s : State) : Out :=
  .next (s.issueRegs f.g [f.a.toNat, f.b.toNat, f.c.toNat] fun _ rd r =>
    let t := f.ty.toNat
    r.setS f.d.toNat (result64 t
      (if (rd f.c.toNat).toNat % 2 ^ tyBits t ≠ 0 then (rd f.a.toNat).toNat
       else (rd f.b.toNat).toNat)))

/-- R103: IMM20 sign-extended to 64 bits. -/
def imm64 (imm : BitVec 20) : BitVec 64 := imm.signExtend 64

def execAddi (f : FI) (s : State) : Out :=
  .next (s.scalar1 f.g f.d f.a fun a => aluS .add f.ty a (imm64 f.imm))

def execLogi (f : FI) (s : State) : Out :=
  let op : Alu := match f.min4.toNat with | 0 => .and | 1 => .or | _ => .xor
  .next (s.scalar1 f.g f.d f.a fun a => aluS op f.ty a (imm64 f.imm))

def execShi (f : FI) (s : State) : Out :=
  let op : Shift := match f.min4.toNat with | 4 => .shl | 5 => .shr | 6 => .sar | _ => .rot
  .next (s.scalar1 f.g f.d f.a fun a => aluS (.shift op) f.ty a (BitVec.ofNat 64 f.imm.toNat))

/-- R104. -/
def execLih (f : FI) (s : State) : Out :=
  .next (s.issueRegs f.g [] fun _ _ r => r.setS f.d.toNat (BitVec.ofInt 64 (sext f.imm * 2 ^ 12)))

def execAddpc (f : FI) (s : State) : Out :=
  .next (s.issueRegs f.g [] fun _ _ r =>
    r.setS f.d.toNat (BitVec.ofInt 64 (s.pc + sext f.imm * 2 ^ 12)))

def execNset (f : FI) (s : State) : Out :=
  .next (s.issueRegs f.g [f.a.toNat] fun _ rd r =>
    r.setN f.d.toNat (BitVec.ofInt 15 ((rd f.a.toNat).toNat + sext f.imm)))

def execNget (f : FI) (s : State) : Out :=
  .next (s.issueRegs f.g [] fun _ _ r =>
    r.setS f.d.toNat (BitVec.ofNat 64 (r.getN f.a.toNat).toNat))

end Sys2Proof.Machine
end

