-- ==== Sys2Proof/Machine/Vector.lean ====
section
/-! DEFINITION. The vector integer, bit and predicate forms (R105 to R110). Each form is an effect on
registers, given the active lanes and the s sources, which the pair word shares (R75). -/

namespace Sys2Proof.Machine
open Sys2Proof.Num

/-- An effect on a group's registers, given the active lanes and the reader of s sources. -/
abbrev RegEff := List Nat → (Nat → BitVec 64) → Regs → Regs

/-! ### Lane check (R34, R96) -/

/-- The partner of idle lane i: the first active lane of i^1, i^2, i^4, i^8, i^16. -/
def lanePartner (act : List Nat) (i : Nat) : Option Nat :=
  ([1, 2, 4, 8, 16].map (Nat.xor i)).find? act.contains

/-- The partner lanes that, under lane check, some idle lane's recomputation differs from (log entry 49). -/
def State.laneDiffs (s : State) (act : List Nat) : List Nat :=
  if s.g.u.lchk then
    (lanes.filter fun i => !act.contains i && Config.laneFlip s.tick s.free i != 0).filterMap (lanePartner act)
  else []

/-- CHECK with the mask of partner lanes whose results differed. -/
def laneTrap (l : List Nat) : Trap := { cause := .check, va := 0, aux := maskOf l }

/-- An effect on registers under lane check: a mismatch raises CHECK and nothing is written. -/
def State.checked (s : State) (act : List Nat) (f : Regs → Regs) : Eff :=
  match s.laneDiffs act with
  | [] => .ok (s.mapR f)
  | l => .error (.trap (laneTrap l))

/-- Issues a form that writes a v or k destination in its active lanes, under lane check. -/
def State.vec (s : State) (g : BitVec 4) (srcs : List Nat) (e : RegEff) : State :=
  s.issue g 8 srcs fun act rd s => s.checked act (e act rd)

/-- Issues a vector form that lane check leaves out (R96): VPART, and a destination of class s. -/
def State.vecPlain (s : State) (g : BitVec 4) (srcs : List Nat) (e : RegEff) : State :=
  s.issueRegs g srcs e

/-- R106: writes the value computed for each active lane. -/
def perLane (t d : Nat) (f : Regs → Nat → Nat) : RegEff := fun act _ r =>
  r.setElems t d (act.map fun l => (l, f r l))

/-- A two-operand vector form of a type. -/
def vec2 (op : Alu) (f : FR) : RegEff :=
  let t := f.ty.toNat
  perLane t f.d.toNat fun r l =>
    aluCode op t (r.elem t f.a.toNat l) (r.elem t f.b.toNat l)

/-- A vector shift: the amount is the whole 32-bit lane of B (R98). -/
def vecShift (op : Shift) (f : FR) : RegEff :=
  let t := f.ty.toNat
  perLane t f.d.toNat fun r l =>
    aluCode (.shift op) t (r.elem t f.a.toNat l) (r.getV f.b.toNat l).toNat

def vaddE : FR → RegEff := vec2 .add
def vsubE : FR → RegEff := vec2 .sub
def vmulE : FR → RegEff := vec2 .mul
def vmulhE : FR → RegEff := vec2 .mulh
def vminE : FR → RegEff := vec2 .min
def vmaxE : FR → RegEff := vec2 .max
def vandE : FR → RegEff := vec2 .and
def vorE : FR → RegEff := vec2 .or
def vxorE : FR → RegEff := vec2 .xor
def vshlE : FR → RegEff := vecShift .shl
def vshrE : FR → RegEff := vecShift .shr
def vsarE : FR → RegEff := vecShift .sar

def vmadE (f : FQ) : RegEff :=
  let t := f.ty.toNat
  perLane t f.d.toNat fun r l =>
    codeOf (intVal t (r.elem t f.a.toNat l) * intVal t (r.elem t f.b.toNat l) +
      intVal t (r.elem t f.c.toNat l)) (tyBits t)

def vabsE (f : FR) : RegEff :=
  let t := f.ty.toNat
  perLane t f.d.toNat fun r l => codeOf (intVal t (r.elem t f.a.toNat l)).natAbs (tyBits t)

def vnotE (f : FR) : RegEff :=
  let t := f.ty.toNat
  perLane t f.d.toNat fun r l => 2 ^ tyBits t - 1 - r.elem t f.a.toNat l

def vbfxE (f : FQ) : RegEff :=
  let t := f.ty.toNat
  perLane t f.d.toNat fun r l =>
    bfxCode t (r.elem t f.a.toNat l) (r.getV f.b.toNat l).toNat (r.getV f.c.toNat l).toNat

def vbfiE (f : FQ) : RegEff :=
  let t := f.ty.toNat
  perLane t f.d.toNat fun r l =>
    bfiCode t (r.elem t f.d.toNat l) (r.elem t f.a.toNat l) (r.getV f.b.toNat l).toNat
      (r.getV f.c.toNat l).toNat

/-- The counts are written to one v register, whatever the type (R105). -/
def vclzE (f : FR) : RegEff :=
  let t := f.ty.toNat
  perLane 5 f.d.toNat fun r l => clzCode (tyBits t) (r.elem t f.a.toNat l)

def vpopcE (f : FR) : RegEff :=
  let t := f.ty.toNat
  perLane 5 f.d.toNat fun r l => popCode (tyBits t) (r.elem t f.a.toNat l)

/-- R107. -/
def vcmpE (f : FR) : RegEff := fun act _ r =>
  let t := f.ty.toNat
  r.setKBits f.d.toNat (act.map fun l =>
    (l, intCond f.min.toNat (intVal t (r.elem t f.a.toNat l)) (intVal t (r.elem t f.b.toNat l))))

def vselE (f : FQ) : RegEff :=
  let t := f.ty.toNat
  perLane t f.d.toNat fun r l =>
    if (r.getK f.c.toNat).getLsbD l then r.elem t f.a.toNat l else r.elem t f.b.toNat l

/-- R108. -/
def vmovE (f : FR) : RegEff :=
  let t := f.ty.toNat
  perLane t f.d.toNat fun r l => r.elem t f.a.toNat l

def vbcastE (f : FR) : RegEff := fun act rd r =>
  r.setElems f.ty.toNat f.d.toNat (act.map fun l => (l, (rd f.a.toNat).toNat))

def viotaE (f : FR) : RegEff := fun act rd r =>
  r.setElems 5 f.d.toNat (act.map fun l => (l, (rd f.a.toNat).toNat + l * (rd f.b.toNat).toNat))

/-- R109. -/
def vdot4E (f : FQ) : RegEff :=
  let t := f.ty.toNat
  perLane 4 f.d.toNat fun r l =>
    let byte (reg i : Nat) : Int := intVal t ((r.getV reg l).toNat / 256 ^ i)
    codeOf ((List.range 4).foldl (fun acc i => acc + byte f.a.toNat i * byte f.b.toNat i)
      (signed (r.getV f.c.toNat l).toNat 32)) 32

/-- R110. -/
def kopE (f : FR) : RegEff := fun act _ r =>
  let a := r.getK f.a.toNat
  let b := r.getK f.b.toNat
  let v := match f.min.toNat with
    | 0 => a &&& b | 1 => a ||| b | 2 => a ^^^ b | 3 => a &&& ~~~b | _ => ~~~a
  r.setKBits f.d.toNat (act.map fun l => (l, v.getLsbD l))

def kmovTosE (f : FR) : RegEff := fun _ _ r =>
  r.setS f.d.toNat ((r.getK f.a.toNat).setWidth 64)

def kmovFromsE (f : FR) : RegEff := fun act rd r =>
  r.setKBits f.d.toNat (act.map fun l => (l, (rd f.a.toNat).getLsbD l))

def execVadd (f : FR) (s : State) : Out := .next (s.vec f.g [] (vaddE f))
def execVsub (f : FR) (s : State) : Out := .next (s.vec f.g [] (vsubE f))
def execVmul (f : FR) (s : State) : Out := .next (s.vec f.g [] (vmulE f))
def execVmulh (f : FR) (s : State) : Out := .next (s.vec f.g [] (vmulhE f))
def execVmad (f : FQ) (s : State) : Out := .next (s.vec f.g [] (vmadE f))
def execVmin (f : FR) (s : State) : Out := .next (s.vec f.g [] (vminE f))
def execVmax (f : FR) (s : State) : Out := .next (s.vec f.g [] (vmaxE f))
def execVabs (f : FR) (s : State) : Out := .next (s.vec f.g [] (vabsE f))
def execVand (f : FR) (s : State) : Out := .next (s.vec f.g [] (vandE f))
def execVor (f : FR) (s : State) : Out := .next (s.vec f.g [] (vorE f))
def execVxor (f : FR) (s : State) : Out := .next (s.vec f.g [] (vxorE f))
def execVnot (f : FR) (s : State) : Out := .next (s.vec f.g [] (vnotE f))
def execVshl (f : FR) (s : State) : Out := .next (s.vec f.g [] (vshlE f))
def execVshr (f : FR) (s : State) : Out := .next (s.vec f.g [] (vshrE f))
def execVsar (f : FR) (s : State) : Out := .next (s.vec f.g [] (vsarE f))
def execVbfx (f : FQ) (s : State) : Out := .next (s.vec f.g [] (vbfxE f))
def execVbfi (f : FQ) (s : State) : Out := .next (s.vec f.g [] (vbfiE f))
def execVclz (f : FR) (s : State) : Out := .next (s.vec f.g [] (vclzE f))
def execVpopc (f : FR) (s : State) : Out := .next (s.vec f.g [] (vpopcE f))
def execVcmp (f : FR) (s : State) : Out := .next (s.vec f.g [] (vcmpE f))
def execVsel (f : FQ) (s : State) : Out := .next (s.vec f.g [] (vselE f))
def execVmov (f : FR) (s : State) : Out := .next (s.vec f.g [] (vmovE f))
def execVbcast (f : FR) (s : State) : Out := .next (s.vec f.g [f.a.toNat] (vbcastE f))
def execViota (f : FR) (s : State) : Out :=
  .next (s.vec f.g [f.a.toNat, f.b.toNat] (viotaE f))
def execVdot4 (f : FQ) (s : State) : Out := .next (s.vec f.g [] (vdot4E f))
def execKop (f : FR) (s : State) : Out := .next (s.vec f.g [] (kopE f))
def execKmovTos (f : FR) (s : State) : Out := .next (s.vecPlain f.g [] (kmovTosE f))
def execKmovFroms (f : FR) (s : State) : Out := .next (s.vec f.g [f.a.toNat] (kmovFromsE f))

end Sys2Proof.Machine
end

