-- ==== Sys2Proof/Machine/VFloat.lean ====
section
/-! DEFINITION. The vector floating-point and conversion forms (R111 to R120). -/

namespace Sys2Proof.Machine
open Sys2Proof.Num

/-- The exact value of an IEEE code of a type. -/
def fVal (t c : Nat) : Val := decodeTy t 0 64 c

/-- The code of a value in an IEEE type, rounded once by RNE (R42). -/
def fCode (t : Nat) (v : Val) : Nat := encodeTy t 0 64 .rne false v

def isNan : Val → Bool
  | .nan => true
  | _ => false

/-- A two-operand form whose exact result is rounded once (R111). -/
def vecF2 (op : Val → Val → Val) (f : FR) : RegEff :=
  let t := f.ty.toNat
  perLane t f.d.toNat fun r l =>
    fCode t (op (fVal t (r.elem t f.a.toNat l)) (fVal t (r.elem t f.b.toNat l)))

/-- Whether `a` is ordered below `b`, with −0 below +0 (R112). -/
def fBelow (a b : Val) : Bool :=
  match cmp a b with
  | some c => decide (c < 0) || (decide (c = 0) && isNeg a && !isNeg b)
  | none => false

/-- R112: VFMIN and VFMAX on codes; `num` is the minor. -/
def fPick (t : Nat) (big num : Bool) (a b : Nat) : Nat :=
  let x := fVal t a
  let y := fVal t b
  if isNan x && isNan y then fCode t .nan
  else if isNan x then (if num then b else fCode t .nan)
  else if isNan y then (if num then a else fCode t .nan)
  else if big then (if fBelow x y then b else a) else (if fBelow y x then b else a)

def vecPick (big : Bool) (f : FR) : RegEff :=
  let t := f.ty.toNat
  perLane t f.d.toNat fun r l =>
    fPick t big (f.min == 1#8) (r.elem t f.a.toNat l) (r.elem t f.b.toNat l)

def vfaddE : FR → RegEff := vecF2 Num.add
def vfsubE : FR → RegEff := vecF2 Num.sub
def vfmulE : FR → RegEff := vecF2 Num.mul
def vfdivE : FR → RegEff := vecF2 Num.div
def vfminE : FR → RegEff := vecPick false
def vfmaxE : FR → RegEff := vecPick true

def vfmaE (f : FQ) : RegEff :=
  let t := f.ty.toNat
  perLane t f.d.toNat fun r l =>
    fCode t (Num.add (Num.mul (fVal t (r.elem t f.a.toNat l)) (fVal t (r.elem t f.b.toNat l)))
      (fVal t (r.elem t f.c.toNat l)))

/-- R113. -/
def vfcmpE (f : FR) : RegEff := fun act _ r =>
  let t := f.ty.toNat
  r.setKBits f.d.toNat (act.map fun l =>
    (l, floatCond f.min.toNat (fVal t (r.elem t f.a.toNat l)) (fVal t (r.elem t f.b.toNat l))))

def vfsqrtE (f : FR) : RegEff :=
  let t := f.ty.toNat
  perLane t f.d.toNat fun r l => fCode t (Num.sqrt (fVal t (r.elem t f.a.toNat l)))

/-- A correctly rounded function of one operand (R114). -/
def vecFn (fn : Nat → Nat → Val → Nat) (f : FR) : RegEff :=
  let t := f.ty.toNat
  perLane t f.d.toNat fun r l =>
    fn (ieeeParams t).1 (ieeeParams t).2 (fVal t (r.elem t f.a.toNat l))

def vrcpE : FR → RegEff := vecFn rcpCode
def vrsqE : FR → RegEff := vecFn rsqCode
def vexp2E : FR → RegEff := vecFn exp2Code
def vlog2E : FR → RegEff := vecFn log2Code
def vsinE : FR → RegEff := vecFn sinCode
def vcosE : FR → RegEff := vecFn cosCode
def vtanhE : FR → RegEff := vecFn tanhCode

/-- R116: a value rounded to an integral value, which keeps the sign of a zero. -/
def roundIntegral (rm : Rm) : Val → Val
  | .fin n m e => .fin n (roundMag rm n m e) 0
  | v => v

def vroundE (f : FR) : RegEff :=
  let t := f.ty.toNat
  -- DEF means RNE
  let rm := rmOf (if f.min.toNat % 8 = 0 then 1 else f.min.toNat % 8) t false
  perLane t f.d.toNat fun r l => fCode t (roundIntegral rm (fVal t (r.elem t f.a.toNat l)))

/-- R117 Convert, from a code of one type to a code of another (R56). -/
def convert (src dst rm : Nat) (anchor : Int) (c : Nat) : Nat :=
  encodeTy dst anchor 64 (rmOf rm dst (decide (src ≤ 7))) false (decodeTy src anchor 64 c)

/-- The signed anchor in bits [15:0] of an s register (R117, R145). -/
def anchorOf (b : BitVec 64) : Int := (b.extractLsb' 0 16).toInt

def vcvtE (f : FR) : RegEff := fun act rd r =>
  let src := f.min.toNat / 16
  let dst := f.ty.toNat
  let anchor := if src = 14 ∨ dst = 14 then anchorOf (rd f.b.toNat) else 0
  r.setElems dst f.d.toNat (act.map fun l =>
    (l, convert src dst (f.min.toNat % 8) anchor (r.elem src f.a.toNat l)))

/-- R118 E: a copy of the low bits when the types match. -/
def packElem (src dst rm c : Nat) : Nat := if src = dst then c else convert src dst rm 0 c

def vpackE (f : FR) : RegEff :=
  let src := f.min.toNat / 16
  let dst := f.ty.toNat
  let rm := f.min.toNat % 8
  perLane 5 f.d.toNat fun r l =>
    let ea := packElem src dst rm (r.elem src f.a.toNat l)
    let eb := packElem src dst rm (r.elem src f.b.toNat l)
    if tyWidth dst = 16 then ea + eb * 2 ^ 16
    else if !f.min.getLsbD 3 then ea + eb * 2 ^ 8
    else (r.getV f.d.toNat l).toNat % 2 ^ 16 + ea * 2 ^ 16 + eb * 2 ^ 24

/-- R119. -/
def vunpackE (f : FR) : RegEff :=
  let src := f.min.toNat / 16
  let dst := f.ty.toNat
  let w := if tyWidth src = 16 then 16 else 8
  let j := f.min.toNat / 4 % 4
  perLane dst f.d.toNat fun r l =>
    convert src dst 0 0 ((r.getV f.a.toNat l).toNat / 2 ^ (w * j) % 2 ^ w)

/-- R120. -/
def scaleVal (v : Val) (k : Int) : Val :=
  match v with
  | .fin n m e => .fin n m (e + k)
  | v => v

def vscaleE (f : FR) : RegEff :=
  let t := f.ty.toNat
  perLane t f.d.toNat fun r l =>
    -- beyond ±5000 every format has overflowed or underflowed
    let k := clampInt (r.getV f.b.toNat l).toInt (-5000) 5000
    fCode t (scaleVal (fVal t (r.elem t f.a.toNat l)) k)

def execVfadd (f : FR) (s : State) : Out := .next (s.vec f.g [] (vfaddE f))
def execVfsub (f : FR) (s : State) : Out := .next (s.vec f.g [] (vfsubE f))
def execVfmul (f : FR) (s : State) : Out := .next (s.vec f.g [] (vfmulE f))
def execVfma (f : FQ) (s : State) : Out := .next (s.vec f.g [] (vfmaE f))
def execVfmin (f : FR) (s : State) : Out := .next (s.vec f.g [] (vfminE f))
def execVfmax (f : FR) (s : State) : Out := .next (s.vec f.g [] (vfmaxE f))
def execVfcmp (f : FR) (s : State) : Out := .next (s.vec f.g [] (vfcmpE f))
def execVfdiv (f : FR) (s : State) : Out := .next (s.vec f.g [] (vfdivE f))
def execVfsqrt (f : FR) (s : State) : Out := .next (s.vec f.g [] (vfsqrtE f))
def execVrcp (f : FR) (s : State) : Out := .next (s.vec f.g [] (vrcpE f))
def execVrsq (f : FR) (s : State) : Out := .next (s.vec f.g [] (vrsqE f))
def execVexp2 (f : FR) (s : State) : Out := .next (s.vec f.g [] (vexp2E f))
def execVlog2 (f : FR) (s : State) : Out := .next (s.vec f.g [] (vlog2E f))
def execVsin (f : FR) (s : State) : Out := .next (s.vec f.g [] (vsinE f))
def execVcos (f : FR) (s : State) : Out := .next (s.vec f.g [] (vcosE f))
def execVtanh (f : FR) (s : State) : Out := .next (s.vec f.g [] (vtanhE f))
def execVround (f : FR) (s : State) : Out := .next (s.vec f.g [] (vroundE f))
def execVcvt (f : FR) (s : State) : Out :=
  .next (s.vec f.g (if f.ty == 14#4 || f.min.toNat / 16 == 14 then [f.b.toNat] else []) (vcvtE f))
def execVpack (f : FR) (s : State) : Out := .next (s.vec f.g [] (vpackE f))
def execVunpack (f : FR) (s : State) : Out := .next (s.vec f.g [] (vunpackE f))
def execVscale (f : FR) (s : State) : Out := .next (s.vec f.g [] (vscaleE f))

end Sys2Proof.Machine
end

