-- ==== Sys2Proof/Machine/TileData.lean ====
section
/-! DEFINITION. Tile descriptors (R184, R185), slot images and where they live (R186), memory tiles, and
the array state's elements (R50, R205). -/

namespace Sys2Proof
open Sys2Proof.Num

/-! ### Descriptors -/

/-- Bytes of an element of a format; format 0x1E stands for A under .w128 (R185, R216). -/
def tileE : Nat → Nat
  | 0 | 1 | 12 | 13 => 1
  | 2 | 3 | 8 | 9 => 2
  | 4 | 5 | 10 => 4
  | 14 => 8
  | 30 => 16
  | _ => 1

def TDesc.e (d : TDesc) : Nat := tileE d.fmt

def ceilDiv (a b : Nat) : Nat := (a + b - 1) / b

/-- The fields of a descriptor that only its issue uses (R184). -/
structure TIssue where
  lvl : Nat
  plan : Nat
  done : Nat
  /-- a reserved field or CONS is not 0 -/
  bad : Bool
  deriving DecidableEq, Repr

/-- R184, R185: a descriptor's 64 bytes, read at `addr`. -/
def parseDesc (addr v : Nat) : TDesc × TIssue :=
  let f (byte n : Nat) : Nat := v / 256 ^ byte % 256 ^ n
  let clip (c n : Nat) : Nat := if c = 0 then n else min c n
  ({ addr := addr, base := f 0 8, loc := f 8 2 % 2 ^ 15, fmt := f 10 1 % 16,
     cw := (f 10 1).testBit 4, rows := f 12 2, cols := f 14 2, stride := f 16 4,
     rc := clip (f 20 2) (f 12 2), cc := clip (f 22 2) (f 14 2), sbase := f 24 8, sstride := f 32 4,
     scaled := (f 36 1).testBit 0, slay := (f 36 1).testBit 1, anchor := signed (f 38 2) 16,
     slot := f 40 1 },
   { lvl := f 11 1 % 8, plan := f 42 2, done := f 44 4,
     bad := decide (2 ^ 57 ≤ f 0 8) || decide (2 ^ 15 ≤ f 8 2) || f 10 1 / 32 != 0 ||
       f 11 1 / 8 != 0 || decide (2 ^ 57 ≤ f 24 8) || f 36 1 / 4 != 0 || f 37 1 != 0 ||
       f 41 1 != 0 || f 48 4 != 0 || f 52 12 != 0 })

/-- Whether a tile is empty (R185). -/
def TDesc.empty (d : TDesc) : Bool := d.rows == 0 || d.cols == 0

/-- R185. -/
def TDesc.inside (d : TDesc) (i j : Nat) : Bool := decide (i < d.rc) && decide (j < d.cc)

/-- Bytes from one row of a slot image to the next (R186 P), and from one scale row to the next (Q). -/
def TDesc.rowBytes (d : TDesc) : Nat := ceilDiv (d.cols * d.e) 16 * 16
def TDesc.scaleBytes (d : TDesc) : Nat := ceilDiv (d.cols / 32) 16 * 16

/-- The length of a slot image (R186). -/
def TDesc.imageLen (d : TDesc) : Nat :=
  d.rows * d.rowBytes + (if d.scaled then d.rows * d.scaleBytes else 0)

/-- The length of a dense weight-buffer image (R210). -/
def TDesc.weightLen (d : TDesc) : Nat :=
  d.rows * d.cols * d.e + (if d.scaled then d.rows / 32 * d.cols else 0)

/-- The first byte of a slot image in its region. -/
def TDesc.imageAt (d : TDesc) : Nat := d.slot * 4096

/-- The block pitch of a CW tile (R210). -/
def TDesc.pitch (d : TDesc) : Nat := if d.fmt = 12 then 40 else 32

/-- The byte ranges of a memory tile, and of its scale array (R185, R209, R210). -/
def TDesc.ranges (d : TDesc) (bside : Bool) : List (Nat × Nat) × List (Nat × Nat) :=
  if d.cw then
    ((List.range d.cols).map fun j => (d.base + j * d.stride, d.rows / 32 * d.pitch), [])
  else
    let rows := (List.range d.rc).map fun i => (d.base + i * d.stride, d.cc * d.e)
    let index := if bside then d.cols else d.rows
    let blocks := if bside then d.rows / 32 else ceilDiv d.cc 32
    let scales :=
      if d.slay then (List.range blocks).map fun kb => (d.sbase + kb * d.sstride, index)
      else (List.range index).map fun x => (d.sbase + x * d.sstride, blocks)
    (rows, if d.scaled then scales else [])

/-! ### Slot images -/

/-- Element (i, j) of a slot image (R186). -/
def TDesc.getEl (d : TDesc) (m : BMap 8) (i j : Nat) : Nat :=
  BMap.readNat m (d.imageAt + i * d.rowBytes + j * d.e) d.e

def TDesc.putEl (d : TDesc) (m : BMap 8) (i j v : Nat) : BMap 8 :=
  BMap.writeNat m (d.imageAt + i * d.rowBytes + j * d.e) d.e v

/-- A source element: outside the clips it reads as zero (R185). -/
def TDesc.srcEl (d : TDesc) (m : BMap 8) (i j : Nat) : Nat :=
  if d.inside i j then d.getEl m i j else 0

/-- The scale byte of row i and block kb of a SCALED image (R186). -/
def TDesc.scaleEl (d : TDesc) (m : BMap 8) (i kb : Nat) : Nat :=
  (BMap.get m (d.imageAt + d.rows * d.rowBytes + i * d.scaleBytes + kb)).toNat

/-- Writes every element of a clip rectangle of an image. -/
def TDesc.fill (d : TDesc) (rows cols : Nat) (f : Nat → Nat → Nat) (m : BMap 8) : BMap 8 :=
  (List.range rows).foldl (fun m i =>
    (List.range cols).foldl (fun m j => d.putEl m i j (f i j)) m) m

end Sys2Proof

namespace Sys2Proof.Machine
open Sys2Proof.Num

/-! ### Sites (R186, R197, R205) -/

/-- Whose slot region and array state an operation uses. -/
inductive Site where
  | group (who : GRef)
  | stage (core key : Nat)
  deriving DecidableEq, Repr

def State.stageOf (s : State) (core key : Nat) : Option Stage :=
  s.stages.find? fun x => x.core == core && x.key == key

def State.updStage (s : State) (core key : Nat) (f : Stage → Stage) : State :=
  { s with stages := s.stages.map fun x => if x.core = core ∧ x.key = key then f x else x }

def State.siteMem (s : State) : Site → BMap 8
  | .group who => match s.findBlock who.launch who.block with
    | some b => b.scratch
    | none => []
  | .stage c k => match s.stageOf c k with
    | some x => x.mem
    | none => []

/-- Bytes of a slot region. -/
def State.siteSize (s : State) : Site → Nat
  | .group who => match s.findGroup who with
    | some g => g.u.scratch
    | none => 0
  | .stage c k => match s.stageOf c k with
    | some x => x.size
    | none => 0

def State.siteArr (s : State) : Site → ArraySt
  | .group who => match s.findGroup who with
    | some g => g.arr
    | none => ArraySt.new
  | .stage c k => match s.stageOf c k with
    | some x => x.arr
    | none => ArraySt.new

def State.mapSiteMem (s : State) (x : Site) (f : BMap 8 → BMap 8) : State :=
  match x with
  | .group who => s.updBlock who.launch who.block fun b => { b with scratch := f b.scratch }
  | .stage c k => s.updStage c k fun y => { y with mem := f y.mem }

def State.mapSiteArr (s : State) (x : Site) (f : ArraySt → ArraySt) : State :=
  match x with
  | .group who => s.updGroup who fun g => { g with arr := f g.arr }
  | .stage c k => s.updStage c k fun y => { y with arr := f y.arr }

/-! ### The array state (R50, R205) -/

/-- Gain 1.0 and offset 0. -/
def accNew : BitVec 32 × BitVec 80 := (0x3F800000, 0)

def canonNaN32 : BitVec 32 := 0x7FC00000

def ArraySt.getAcc (a : ArraySt) (i j : Nat) : BitVec 32 × BitVec 80 :=
  SMap.get accNew a.acc (256 * i + j)

def ArraySt.setAcc (a : ArraySt) (i j : Nat) (x : BitVec 32 × BitVec 80) : ArraySt :=
  { a with acc := SMap.set accNew a.acc (256 * i + j) x }

def ArraySt.getCarry (a : ArraySt) (j : Nat) : BitVec 80 × Bool := SMap.get (0, true) a.carry j

def ArraySt.setCarry (a : ArraySt) (j : Nat) (x : BitVec 80 × Bool) : ArraySt :=
  { a with carry := SMap.set (0, true) a.carry j x }

/-- Whether a gain is a NaN, so that its element is invalid (R50). -/
def gainNaN (g : BitVec 32) : Bool := g.extractLsb' 23 8 == 0xFF#8 && g.extractLsb' 0 23 != 0#23

/-! ### Running an operation -/

/-- A write to another device that an operation has made: a store of `size` bytes, or a RED add; the bytes at `marks` are
poisoned (R408). -/
structure FarWrite where
  addr : Nat
  size : Nat
  value : Nat
  red : Bool
  marks : List Nat := []
  deriving DecidableEq, Repr

/-- An operation while it runs: the machine, the bytes read from other devices and those of them that are poisoned, the
writes to them, and whether a scan has flushed. -/
structure TRun where
  s : State
  ctx : Nat
  data : BMap 8
  marks : List Nat := []
  out : List FarWrite
  gfl : Bool

/-- The marked addresses in [addr, addr + n), as offsets. -/
def marksIn (l : List Nat) (addr n : Nat) : List Nat :=
  (l.filter fun i => decide (addr ≤ i) && decide (i < addr + n)).map fun i => i - addr

/-- Reads `n` bytes at a location and local address. -/
def TRun.read (x : TRun) (loc va n : Nat) : Nat :=
  if x.s.isLocal (loc * 2 ^ 57 + va) then
    x.s.readSpans (x.s.pageSpans x.ctx {} (n / 4096 + 2) va n).1
  else BMap.readNat x.data (loc * 2 ^ 57 + va) n

/-- Writes `n` bytes at a location and local address. -/
def TRun.write (x : TRun) (loc va n v : Nat) : TRun :=
  if n = 0 then x
  else if x.s.isLocal (loc * 2 ^ 57 + va) then
    let l := (x.s.pageSpans x.ctx { write := true } (n / 4096 + 2) va n).1
    { x with s := (x.s.touchPages x.ctx true (n / 4096 + 2) va n).writeSpans l v }
  else { x with out := x.out ++ [{ addr := loc * 2 ^ 57 + va, size := n, value := v, red := false }] }

/-- Adds to an anchored word of `n` bytes (R216). -/
def TRun.addTo (x : TRun) (loc va n v : Nat) : TRun :=
  if x.s.isLocal (loc * 2 ^ 57 + va) then
    x.write loc va n ((x.read loc va n + v) % 256 ^ n)
  else { x with out := x.out ++ [{ addr := loc * 2 ^ 57 + va, size := n, value := v, red := true }] }

/-- Marks the pages of a range as accessed (R330). -/
def TRun.touch (x : TRun) (loc va n : Nat) : TRun :=
  if x.s.isLocal (loc * 2 ^ 57 + va) then
    { x with s := x.s.touchPages x.ctx false (n / 4096 + 2) va n }
  else x

end Sys2Proof.Machine
end

