-- ==== Sys2Proof/Machine/TileOps.lean ====
section
/-! DEFINITION. What the engines compute on tiles (R209 to R217, R60, R63), and the checks that an engine
makes before it writes anything (R203). -/

namespace Sys2Proof.Machine
open Sys2Proof.Num

/-- TILE with a reason (R194). -/
def tileTrap (va reason : Nat) : Trap := { cause := .tile, va := va, aux := reason * 2 ^ 34 }

/-! ### Moving tiles -/

/-- R408: poison travels with the data that an engine moves: from memory to an offset of the block's scratchpad. -/
def TRun.carryIn (x : TRun) (t : Site) (loc va n off : Nat) : TRun :=
  match t with
  | .group who =>
    let l := if x.s.isLocal (loc * 2 ^ 57 + va) then
        x.s.marksAs who (x.s.pageSpans x.ctx {} (n / 4096 + 2) va n).1
      else marksIn x.marks (loc * 2 ^ 57 + va) n
    if l.isEmpty then x else { x with s := x.s.putMarks who l [{ scratch := true, at_ := off, len := n }] }
  | .stage _ _ => x

/-- The same from the scratchpad to memory. -/
def TRun.carryOut (x : TRun) (t : Site) (off loc va n : Nat) : TRun :=
  match t with
  | .group who =>
    let l := x.s.marksAs who [{ scratch := true, at_ := off, len := n }]
    if l.isEmpty then x
    else if !x.s.isLocal (loc * 2 ^ 57 + va) then
      { x with out := x.out.map fun w => if w.addr = loc * 2 ^ 57 + va then { w with marks := l } else w }
    else { x with s := x.s.putMarks who l (x.s.pageSpans x.ctx {} (n / 4096 + 2) va n).1 }
  | .stage _ _ => x

/-- TLD (R209). -/
def TRun.tld (x : TRun) (t : Site) (d : TDesc) : TRun :=
  let rowsDone := (List.range d.rows).foldl (fun (x : TRun) i =>
    let v := if i < d.rc then x.read d.loc (d.base + i * d.stride) (d.cc * d.e) else 0
    let x1 := if i < d.rc then x.touch d.loc (d.base + i * d.stride) (d.cc * d.e) else x
    let x2 : TRun := { x1 with
      s := x1.s.mapSiteMem t fun m => BMap.writeNat m (d.imageAt + i * d.rowBytes) (d.cols * d.e) v }
    if i < d.rc then x2.carryIn t d.loc (d.base + i * d.stride) (d.cc * d.e) (d.imageAt + i * d.rowBytes) else x2) x
  if d.scaled then
    (List.range d.rows).foldl (fun (x : TRun) i =>
      (List.range (d.cols / 32)).foldl (fun (x : TRun) kb =>
        let at_ := d.sbase + (if d.slay then kb * d.sstride + i else i * d.sstride + kb)
        let c := if kb * 32 < d.cc then x.read d.loc at_ 1 else 127
        { x with s := x.s.mapSiteMem t fun m =>
            BMap.writeNat m (d.imageAt + d.rows * d.rowBytes + i * d.scaleBytes + kb) 1 c }) x)
      ((d.ranges false).2.foldl (fun (x : TRun) r => x.touch d.loc r.1 r.2) rowsDone)
  else rowsDone

/-- TST (R209). -/
def TRun.tst (x : TRun) (t : Site) (d : TDesc) : TRun :=
  (List.range d.rc).foldl (fun (x : TRun) i =>
    (x.write d.loc (d.base + i * d.stride) (d.cc * d.e)
      (BMap.readNat (x.s.siteMem t) (d.imageAt + i * d.rowBytes) (d.cc * d.e))).carryOut t
        (d.imageAt + i * d.rowBytes) d.loc (d.base + i * d.stride) (d.cc * d.e)) x

/-- A CW block as read (R51): its scale, the codes of its 32 elements, and its length. -/
structure CwBlock where
  scale : Nat
  codes : List Nat
  len : Nat

/-- The number of bits of `m` set below bit i. -/
def bitsBelow (m : Nat) : Nat → Nat
  | 0 => 0
  | i + 1 => bitsBelow m i + (if m.testBit i then 1 else 0)

/-- Decodes a CW block from its bytes as a number (R51). -/
def cwBlock (t8 : Bool) (v : Nat) : CwBlock :=
  let bm := v / 256 % 2 ^ 32
  let body := v / 256 ^ 5
  let p := bitsBelow bm 32
  { scale := v % 256,
    codes := (List.range 32).map fun i =>
      if bm.testBit i then
        (if t8 then body / 256 ^ bitsBelow bm i % 256 else body / 64 ^ bitsBelow bm i % 64)
      else 0,
    len := 5 + (if t8 then p else ceilDiv (6 * p) 8) }

/-- The blocks of a CW tile, by block row and column. -/
def TRun.cwBlocks (x : TRun) (d : TDesc) : List (Nat × Nat × CwBlock) :=
  (List.range (d.rows / 32)).flatMap fun kb => (List.range d.cols).map fun j =>
    (kb, j, cwBlock (d.fmt == 12) (x.read d.loc (d.base + j * d.stride + kb * d.pitch) d.pitch))

/-- The image that WBLD makes (R210), and its length. -/
def TRun.weightImage (x : TRun) (d : TDesc) : WImage × Nat :=
  let base : WImage := {
    slot := d.slot, count := 0, fmt := d.fmt, cw := d.cw, scaled := d.scaled,
    rows := d.rows, cols := d.cols, codes := [], scales := [] }
  if d.cw then
    let bs := x.cwBlocks d
    let len := bs.foldl (fun n b => n + b.2.2.len) 0
    ({ base with
        count := ceilDiv len 2048
        codes := bs.foldl (fun m b =>
          b.2.2.codes.zipIdx.foldl (fun m c =>
            let k := 32 * b.1 + c.2
            if d.inside k b.2.1 then NMap.set m (k * d.cols + b.2.1) c.1 else m) m) []
        scales := if d.scaled then
            bs.foldl (fun m b => SMap.set 127 m (b.1 * d.cols + b.2.1) b.2.2.scale) []
          else [] }, len)
  else
    ({ base with
        count := ceilDiv d.weightLen 2048
        codes := (List.range d.rc).foldl (fun m k =>
          let row := x.read d.loc (d.base + k * d.stride) (d.cc * d.e)
          (List.range d.cc).foldl (fun m j =>
            NMap.set m (k * d.cols + j) (row / 256 ^ (j * d.e) % 256 ^ d.e)) m) []
        scales := if d.scaled then
            (List.range (d.rows / 32)).foldl (fun m kb => (List.range d.cols).foldl (fun m j =>
              let at_ := d.sbase + (if d.slay then kb * d.sstride + j else j * d.sstride + kb)
              SMap.set 127 m (kb * d.cols + j) (x.read d.loc at_ 1)) m) []
          else [] }, d.weightLen)

/-- Puts an image into the weight buffer; images that it overlaps are replaced (R210). -/
def ArraySt.putImage (a : ArraySt) (w : WImage) : ArraySt :=
  { a with images := (a.images.filter fun y =>
      decide (y.slot + y.count ≤ w.slot) || decide (w.slot + w.count ≤ y.slot)) ++ [w] }

/-- WBLD (R210): TILE 0x03 when the image passes slot 255. -/
def TRun.wbld (x : TRun) (t : Site) (d : TDesc) : Except Trap TRun :=
  let w := (x.weightImage d).1
  if 256 < w.slot + w.count then .error (tileTrap d.addr 3)
  else
    let x1 := ((d.ranges true).1 ++ (d.ranges true).2).foldl (fun (x : TRun) r => x.touch d.loc r.1 r.2) x
    .ok { x1 with s := x1.s.mapSiteArr t fun a => a.putImage w }

/-- TCP (R211): the source element for each destination element. -/
def TRun.tcp (x : TRun) (t : Site) (tr : Bool) (d a : TDesc) : TRun :=
  let m0 := x.s.siteMem t
  { x with s := x.s.mapSiteMem t (d.fill d.rc d.cc fun i j =>
      convert a.fmt d.fmt 0 0 (if tr then a.srcEl m0 j i else a.srcEl m0 i j)) }

/-! ### Computing on tiles -/

/-- The value of a code of a tile format. -/
def tileVal (fmt c : Nat) : Val := decodeTy fmt 0 64 c

/-- R60 MatrixBlock: `ps` are the pairs of values of one block, `sa` and `sb` its scale bytes. -/
def matrixBlock (el : BitVec 32 × BitVec 80) (ps : List (Val × Val)) (sa sb : Nat) (a : Int) :
    BitVec 32 × BitVec 80 :=
  let bad (v : Val) : Bool := match v with | .fin _ _ _ => false | _ => true
  if (ps.any fun p => bad p.1 || bad p.2) || sa == 255 || sb == 255 then (canonNaN32, el.2)
  else
    match Num.sum (ps.map fun p => Num.mul p.1 p.2) with
    | .fin n m e =>
      (el.1, el.2 + BitVec.ofInt 80 (roundInt .rne n m (e + ((sa : Int) + sb - 254 - a))))
    | _ => (canonNaN32, el.2)

/-- One element of TMMA (R212). -/
def tmmaElem (m : BMap 8) (w : WImage) (a b : TDesc) (i j : Nat) (el : BitVec 32 × BitVec 80) :
    BitVec 32 × BitVec 80 :=
  (List.range (a.cols / 32)).foldl (fun el kb =>
    let ps := (List.range 32).map fun q =>
      let k := 32 * kb + q
      (tileVal a.fmt (if k < a.cc then a.getEl m i k else 0),
       tileVal b.fmt (if k < b.rc then NMap.get w.codes (k * b.cols + j) else 0))
    matrixBlock el ps (if a.scaled then a.scaleEl m i kb else 127)
      (if b.scaled then SMap.get 127 w.scales (kb * b.cols + j) else 127) a.anchor) el

/-- TMMA (R212): TILE 0x03 when B's slot starts no image of B's shape and format. -/
def TRun.tmma (x : TRun) (t : Site) (op : TOp) (z : Bool) (a b : TDesc) : Except Trap TRun :=
  match (x.s.siteArr t).images.find? fun w =>
      w.slot == b.slot && w.fmt == b.fmt && w.cw == b.cw && w.scaled == b.scaled &&
        w.rows == b.rows && w.cols == b.cols with
  | none => .error (tileTrap b.addr 3)
  | some w =>
    let m := x.s.siteMem t
    .ok { x with s := x.s.mapSiteArr t fun ar =>
      (List.range a.rc).foldl (fun ar i => (List.range b.cc).foldl (fun ar j =>
        let el := if z then accNew else ar.getAcc (op.arow + i) (op.acol + j)
        ar.setAcc (op.arow + i) (op.acol + j) (tmmaElem m w a b i j el)) ar) ar }

/-- A row of a scan column (R213). -/
structure ScanEl where
  g : Nat
  o : Int
  bad : Bool
  deriving DecidableEq, Repr, Inhabited

def f32Val (c : Nat) : Val := decodeTy 10 0 64 c

/-- Wrap(RoundInt(g × o) + p, 80), for the code g of an F32 (R213). -/
def scanMul (g : Nat) (o p : Int) : Int :=
  match f32Val g with
  | .fin n m e => wrap (roundInt .rne (n != decide (o < 0)) (m * o.natAbs) e + p) 80
  | _ => wrap (Config.badOffset g o + p) 80

/-- R213 Compose: the composed row, and whether it flushed. DESIGN CHOICE (log entry 60): a non-zero product that rounds
to zero in F32 has not flushed, since the test is on the rounded value. -/
def compose (hi lo : ScanEl) : ScanEl × Bool :=
  let g := encodeTy 10 0 64 .rne false (Num.mul (f32Val hi.g) (f32Val lo.g))
  let mag := g % 2 ^ 31
  let flush := decide (0 < mag) && decide (mag < 0x800000)
  let g' := if flush then 0 else g
  ({ g := g', o := scanMul hi.g lo.o hi.o,
     bad := hi.bad || lo.bad || mag == 0x7F800000 }, flush)

/-- One level of the scan network: rows at or above 2^l compose with the row 2^l before. -/
def scanLevel (l : Nat) (rows : List ScanEl) : List ScanEl × Bool :=
  let r := rows.zipIdx.map fun (hi, i) =>
    if 2 ^ l ≤ i then compose hi (rows.getD (i - 2 ^ l) default) else (hi, false)
  (r.map Prod.fst, r.any Prod.snd)

/-- The seven levels. -/
def scanNet (rows : List ScanEl) : List ScanEl × Bool :=
  (List.range 7).foldl (fun x l =>
    let r := scanLevel l x.1
    (r.1, x.2 || r.2)) (rows, false)

/-- One column of TSCAN (R213): the new array state and whether it flushed. -/
def scanColumn (m : BMap 8) (op : TOp) (pg nc : Bool) (gd od : TDesc) (ar : ArraySt) (j : Nat) :
    ArraySt × Bool :=
  let rows := (List.range gd.rc).map fun i =>
    let gv := tileVal gd.fmt (gd.srcEl m i j)
    let ov := tileVal od.fmt (od.srcEl m i j)
    let isNan (v : Val) : Bool := match v with | .nan => true | _ => false
    let isInf (v : Val) : Bool := match v with | .inf _ => true | _ => false
    { g := encodeTy 10 0 64 .rne false gv, o := anchorInt .rne ov od.anchor 80,
      bad := isNan gv || isNan ov || isInf gv : ScanEl }
  let net := scanNet rows
  let c := if nc then (0, true) else ar.getCarry (op.acol + j)
  let out := net.1.map fun x =>
    let h := scanMul x.g c.1.toInt x.o
    let ok := !x.bad && c.2
    ((if ok then (if pg then BitVec.ofNat 32 x.g else 0x3F800000) else canonNaN32,
      BitVec.ofInt 80 h), ok)
  let ar1 := out.zipIdx.foldl (fun ar x => ar.setAcc (op.arow + x.2) (op.acol + j) x.1.1) ar
  (match out.getLast? with
    | some x => ar1.setCarry (op.acol + j) (x.1.2, x.2)
    | none => ar1, net.2)

/-- TSCAN (R213). -/
def TRun.tscan (x : TRun) (t : Site) (op : TOp) (gd od : TDesc) : TRun :=
  if gd.rc = 0 then x
  else
    let r := (List.range gd.cc).foldl (fun (y : ArraySt × Bool) j =>
      let z := scanColumn (x.s.siteMem t) op (op.min.testBit 0) (op.min.testBit 1) gd od y.1 j
      (z.1, y.2 || z.2)) (x.s.siteArr t, false)
    { x with gfl := x.gfl || r.2,
             s := x.s.mapSiteArr t fun _ => { r.1 with gflush := r.1.gflush || r.2 } }

/-- TZERO (R214). -/
def TRun.tzero (x : TRun) (t : Site) (op : TOp) (d : TDesc) : TRun :=
  { x with s := x.s.mapSiteArr t fun ar =>
      let a1 := (List.range d.rc).foldl (fun ar i => (List.range d.cc).foldl (fun ar j =>
        ar.setAcc (op.arow + i) (op.acol + j) accNew) ar) ar
      let a2 := if op.min.testBit 0 then
          (List.range d.cc).foldl (fun ar j => ar.setCarry (op.acol + j) (0, true)) a1
        else a1
      if op.min.testBit 1 then { a2 with gflush := false } else a2 }

/-- R63: readout of an offset at an anchor, or of an invalid element. -/
def readout (fmt : Nat) (anchor : Int) (o : BitVec 80) (valid : Bool) : Nat :=
  if valid then encodeTy fmt 0 64 (rmOf 0 fmt false) true (ofScaled o.toInt anchor)
  else encodeTy fmt 0 64 (rmOf 0 fmt false) false .nan

/-- TACRD (R215). -/
def TRun.tacrd (x : TRun) (t : Site) (op : TOp) (d : TDesc) : TRun :=
  let ar := x.s.siteArr t
  { x with s := x.s.mapSiteMem t (d.fill d.rc d.cc fun i j =>
      match op.min % 4 with
      | 0 => let el := ar.getAcc (op.arow + i) (op.acol + j)
             readout d.fmt d.anchor el.2 (!gainNaN el.1)
      | 1 => convert 10 d.fmt 0 0 (ar.getAcc (op.arow + i) (op.acol + j)).1.toNat
      | _ => let c := ar.getCarry (op.acol + j)
             readout d.fmt d.anchor c.1 c.2) }

/-- TACWR (R215). -/
def TRun.tacwr (x : TRun) (t : Site) (op : TOp) (d : TDesc) : TRun :=
  let m := x.s.siteMem t
  let off (i j : Nat) : BitVec 80 :=
    BitVec.ofInt 80 (anchorInt .rne (tileVal d.fmt (d.getEl m i j)) d.anchor 80)
  { x with s := x.s.mapSiteArr t fun ar =>
      (List.range d.rc).foldl (fun ar i => (List.range d.cc).foldl (fun ar j =>
        let el := ar.getAcc (op.arow + i) (op.acol + j)
        match op.min % 4 with
        | 0 => ar.setAcc (op.arow + i) (op.acol + j) (el.1, off i j)
        | 1 => ar.setAcc (op.arow + i) (op.acol + j)
                 (BitVec.ofNat 32 (encodeTy 10 0 64 .rne false (tileVal d.fmt (d.getEl m i j))), el.2)
        | _ => ar.setCarry (op.acol + j) (off i j, true)) ar) ar }

/-- TRED (R216): each source element adds into its word, inside the destination's clips (R185). -/
def TRun.tred (x : TRun) (t : Site) (op : TOp) (d a : TDesc) : TRun :=
  let m := x.s.siteMem t
  (List.range a.rc).foldl (fun (x : TRun) i => (List.range a.cc).foldl (fun (x : TRun) j =>
    let v := codeOf (anchorInt .rne (tileVal a.fmt (a.getEl m i j)) d.anchor (8 * d.e)) (8 * d.e)
    match op.min % 4 with
    | 0 => if d.inside i j then x.addTo d.loc (d.base + i * d.stride + j * d.e) d.e v else x
    | 1 => if d.inside 0 j then x.addTo d.loc (d.base + j * d.e) d.e v else x
    | _ => if d.inside 0 0 then x.addTo d.loc d.base d.e v else x) x) x

/-- 2^x for an exact x (R217), as a value that rounds to every destination as the exact one does. -/
def exp2Val (v : Val) : Val :=
  match v with
  | .nan => .nan
  | .inf n => if n then .fin false 0 0 else .inf false
  | .fin n m e =>
    if m = 0 then .fin false 1 0
    else if isInt m e && decide ((bitLen m : Int) + e < 14) then
      .fin false 1 (roundInt .rz n m e)
    else if 13 ≤ (bitLen m : Int) + e then .fin false 1 (if n then -8192 else 8192)
    else if (bitLen m : Int) + e < -100 then
      .fin false (if n then 2 ^ 100 - 1 else 2 ^ 100 + 1) (-100)
    else decodeIeee 20 120 (exp2Code 20 120 v)

/-- The exact value of an element-wise operation (R217). -/
def tewVal (opn : Nat) (k : Int) (x y : Val) : Val :=
  match opn with
  | 0 => Num.add x y
  | 1 => Num.mul x y
  | 2 =>
    match Num.cmp x y with
    | none => .nan
    | some c => if c = 0 then (if isNeg x then y else x) else if c < 0 then y else x
  | 3 => scaleVal x k
  | 4 => exp2Val x
  | _ => x

/-- TEW (R217). A destination of 16 bits or more takes the direction of integer sources only when every source is an
integer: R53 speaks of one kind of source (DESIGN CHOICE, log entry 58). -/
def TRun.tew (x : TRun) (t : Site) (op : TOp) (d a : TDesc) (b : Option TDesc) : TRun :=
  let m := x.s.siteMem t
  let k := clampInt (signed op.exp 32) (-100000) 100000
  let ints := decide (a.fmt ≤ 7) && (match b with | some y => decide (y.fmt ≤ 7) | none => true)
  { x with s := x.s.mapSiteMem t (d.fill d.rc d.cc fun i j =>
      let y := match b with
        | some bd => tileVal bd.fmt (bd.srcEl m i j)
        | none => .nan
      encodeTy d.fmt 0 64 (rmOf 0 d.fmt ints) false
        (tewVal (op.min % 8) k (tileVal a.fmt (a.srcEl m i j)) y)) }

/-! ### The checks of an engine (R186, R203) -/

/-- Whether a destination and a source image overlap without being one image (R211, R217). -/
def badOverlap (d a : TDesc) (same : Bool) : Bool :=
  let l1 := d.imageAt + d.imageLen
  let l2 := a.imageAt + a.imageLen
  decide (a.imageAt < l1) && decide (d.imageAt < l2) &&
    !(same && d.slot == a.slot && d.rows == a.rows && d.cols == a.cols &&
      d.imageLen == a.imageLen)

/-- The descriptors whose slot images a level-0 form reads, and writes. -/
def opImages (op : TOp) : List TDesc × List TDesc :=
  match op.opc with
  | 0xA0 => ([], op.d.toList)
  | 0xA1 => (op.d.toList, [])
  | 0xA2 => (op.a.toList, op.d.toList)
  | 0xA4 => (op.d.toList, [])
  | 0xA5 => (op.d.toList ++ op.a.toList, [])
  | 0xA7 => ([], op.d.toList)
  | 0xA8 => (op.d.toList, [])
  | 0xA9 => (op.a.toList, [])
  | 0xAA => (op.a.toList ++ op.b.toList, op.d.toList)
  | _ => ([], [])

/-- The columns of a form's accumulator region, and its rows. -/
def opRegion (op : TOp) : Option (Nat × Nat) :=
  if 0xA4 ≤ op.opc ∧ op.opc ≤ 0xA8 then
    match op.d, op.a with
    | some d, some a => some (d.rows, if op.opc = 0xA4 then a.cols else d.cols)
    | some d, none => some (d.rows, d.cols)
    | _, _ => none
  else none

/-- R186: the descriptor of a dense image that runs past the weight buffer. -/
def weightReasons (op : TOp) : List (Nat × Nat) :=
  if op.opc = 0xA3 then
    op.d.toList.filterMap fun d =>
      if !d.cw && decide (256 < d.slot + ceilDiv d.weightLen 2048) then some (d.addr, 3) else none
  else []

/-- R186: the descriptors of images that run past the slot region or, being dense, past the weight buffer. -/
def imageReasons (op : TOp) (size : Nat) : List (Nat × Nat) :=
  (((opImages op).1 ++ (opImages op).2).filterMap fun d =>
    if size < d.imageAt + d.imageLen then some (d.addr, 3) else none) ++ weightReasons op

/-- The TILE reasons of a level-0 form on a region of `size` bytes, with the address of the descriptor
(R186, R211, R212, R217). -/
def engineReasons (op : TOp) (size : Nat) : List (Nat × Nat) :=
  let lap := if op.opc = 0xA2 ∨ op.opc = 0xAA then
      op.d.toList.flatMap fun d => (op.a.toList ++ op.b.toList).filterMap fun a =>
        if badOverlap d a (!(op.opc == 0xA2 && op.min.testBit 0)) then some (d.addr, 3) else none
    else []
  let reg := match opRegion op with
    | some (r, c) =>
      if 128 < op.arow + r ∨ 256 < op.acol + c then [((op.d.map TDesc.addr).getD 0, 4)] else []
    | none => []
  imageReasons op size ++ lap ++ reg

/-- A memory tile that a form reaches at a level: its descriptor, whether it is written, whether by
contributions, and whether it is a B-side tile (R185, R187). -/
structure MemTile where
  d : TDesc
  write : Bool
  red : Bool
  bside : Bool

def memTiles (op : TOp) (level : Nat) : List MemTile :=
  let tile (d : Option TDesc) (w r b : Bool) : List MemTile :=
    d.toList.map fun d => { d := d, write := w, red := r, bside := b }
  match op.opc, level with
  | 0xA0, _ => tile op.d false false false
  | 0xA1, _ => tile op.d true false false
  | 0xA3, _ => tile op.d false false true
  | 0xA9, 0 => tile op.d true true false
  | 0xA9, _ => tile op.d true true false ++ tile op.a false false false
  | _, 0 => []
  | 0xA2, _ => tile op.d true false false ++ tile op.a false false false
  | 0xA4, _ => tile op.d false false false ++ tile op.a false false true
  | 0xA5, _ => tile op.d false false false ++ tile op.a false false false ++ tile op.b true false false
  | 0xA7, _ => tile op.d true false false
  | 0xA8, _ => tile op.d false false false
  | 0xAA, _ => tile op.d true false false ++ tile op.a false false false ++ tile op.b false false false
  | _, _ => []

/-- The byte ranges of a memory tile and of its scale array. -/
def MemTile.ranges (t : MemTile) : List (Nat × Nat) × List (Nat × Nat) := t.d.ranges t.bside

/-- The accesses of a memory tile, those of its tile before those of its scale array. The first names
the tile's alignment (R185). -/
def MemTile.accs (t : MemTile) (ctx lane : Nat) : List Acc × List Acc :=
  let acc (r : Nat × Nat) (scale : Bool) : Acc :=
    let e := if scale || t.d.cw then 1 else t.d.e
    let bad := (t.d.loc < 2 ^ 14 && t.d.loc != 0) || decide (2 ^ 57 ≤ r.1)
    { lane := lane, addr := if bad then none else some (t.d.loc * 2 ^ 57 + r.1),
      bad := if 2 ^ 57 ≤ r.1 then Config.canonAddr t.d.loc r.1 % 2 ^ 72 else t.d.loc * 2 ^ 57 + r.1,
      size := r.2, align := e, read := !t.write, write := t.write, win := .globalOnly,
      host := !t.red, thread := false, eats := false, ctx := ctx }
  let rs := t.ranges
  ((rs.1.filter fun r => r.2 != 0).map fun r => acc r false,
   (rs.2.filter fun r => r.2 != 0).map fun r => acc r true)

/-- The fault of highest precedence of a list, the first of those with its place. -/
def firstWorst : List Ranked → Option Ranked
  | [] => none
  | x :: t => match firstWorst t with
    | none => some x
    | some y => if y.rank < x.rank then some y else some x

/-- The accesses of all a form's memory tiles, in the order of R191. -/
def allAccs (op : TOp) (level ctx lane : Nat) : List Acc :=
  (memTiles op level).flatMap fun t => (t.accs ctx lane).1 ++ (t.accs ctx lane).2

/-- ALIGN for a STRIDE that is no multiple of the element size (R185). -/
def MemTile.strideFault (t : MemTile) (lane : Nat) : Option Ranked :=
  if !t.d.cw && t.d.stride % t.d.e != 0 then
    some { rank := 5, lane := lane,
           trap := { cause := .align, va := t.d.loc * 2 ^ 57 + t.d.base,
                     aux := memAux 0 0 false t.write lane } }
  else none

/-- R191: the fault of a form's memory ranges that the device reports: highest precedence; of those, the ranges in the
order of R191; within one range the lowest byte. `far` gives the fault of an access that another device answered. -/
def State.rangeWith (s : State) (far : Acc → Option Ranked) (op : TOp) (level ctx lane : Nat) : Option Ranked :=
  let part (l : List Acc) : List Ranked := (worst (l.filterMap fun a => match s.check a with
    | .error r => some r
    | .ok (.away _) => far a
    | .ok (.here _) => none)).toList
  firstWorst ((memTiles op level).flatMap fun t =>
    (t.strideFault lane).toList ++ part (t.accs ctx lane).1 ++ part (t.accs ctx lane).2)

/-- The same over the ranges of this device. -/
def State.rangeFault (s : State) (op : TOp) (level ctx lane : Nat) : Option Ranked :=
  s.rangeWith (fun _ => none) op level ctx lane

/-- R407, R408: MCHK of a form that reads poison. TLD and TST only move what they read; a scale byte, and a tile that a
staging region gets, are read as every other form reads its operands. -/
def TRun.poison (x : TRun) (t : Site) (op : TOp) : Option Trap :=
  let moves := decide (op.opc ≤ 0xA1) && (match t with | .group _ => true | .stage _ _ => false)
  let eaten : List Acc := (memTiles op 0).flatMap fun m =>
    (if moves then [] else (m.accs x.ctx 0).1) ++ (m.accs x.ctx 0).2
  let far := eaten.findSome? fun a =>
    match x.s.check { a with eats := true } with
    | .error r => if r.trap.cause = .mchk then some r.trap else none
    | .ok (.away y) => (marksIn x.marks y a.size).head?.map fun i => (a.err 15 .mchk (y + i) 0 true).trap
    | .ok _ => none
  match far, t with
  | some tr, _ => some tr
  | none, .group who =>
    if moves then none
    else
      let m := ((x.s.findBlock who.launch who.block).map Block.poison).getD []
      (opImages op).1.findSome? fun d => (markedAt m d.imageAt d.imageLen).map fun i =>
        { cause := .mchk, va := winScratch + d.imageAt + i, aux := 0 }
  | none, .stage _ _ => none

/-- The accumulator elements of a form's rows and columns, and their carries (R205). -/
def accParts (op : TOp) (rows cols : Nat) : List Nat :=
  (List.range rows).flatMap fun i => (List.range cols).map fun j => arrayPart 0 (256 * (op.arow + i) + op.acol + j)

def carryParts (op : TOp) (cols : Nat) : List Nat := (List.range cols).map fun j => arrayPart 1 (op.acol + j)

def weightParts (d : TDesc) (n : Nat) : List Nat := (List.range n).map fun i => arrayPart 2 (d.slot + i)

/-- The parts of an array state that a form reads, and those that it writes without reading them (R205, R212 to R215). -/
def arrayUse (a : ArraySt) (op : TOp) : List Nat × List Nat :=
  match op.d, op.opc with
  | some d, 0xA3 => ([], weightParts d (ceilDiv d.weightLen 2048))
  | some d, 0xA4 =>
    let acc := accParts op d.rc ((op.a.map TDesc.cc).getD 0)
    let w := (op.a.toList.flatMap fun b => (a.images.filter fun w => w.slot == b.slot).flatMap fun w => weightParts b w.count)
    if op.min.testBit 0 then (w, acc) else (w ++ acc, [])
  | some d, 0xA5 => (accParts op d.rc d.cc ++ carryParts op d.cc, [])
  | some d, 0xA6 => ([], accParts op d.rc d.cc ++ if op.min.testBit 0 then carryParts op d.cc else [])
  | some d, 0xA7 => (if op.min % 4 ≤ 1 then accParts op d.rc d.cc else carryParts op d.cc, [])
  | some d, 0xA8 => if op.min % 4 ≤ 1 then (accParts op d.rc d.cc, []) else ([], carryParts op d.cc)
  | _, _ => ([], [])

/-- R407: MCHK of a form that reads a part of the array state with an uncorrectable error. -/
def TRun.arrayBad (x : TRun) (t : Site) (op : TOp) : Option Trap :=
  let a := x.s.siteArr t
  if a.bad.isEmpty then none
  else if (arrayUse a op).1.any a.bad.contains then some { cause := .mchk, va := 0, aux := 0 } else none

/-- The slot images that a form writes hold no poison but what it moves there, and what it writes of the array state no
error. -/
def TRun.unmark (x0 : TRun) (t : Site) (op : TOp) : TRun :=
  let a := x0.s.siteArr t
  let x : TRun := if a.bad.isEmpty then x0
    else { x0 with s := x0.s.mapSiteArr t fun a => { a with bad := a.bad.filter fun n => !(arrayUse a op).2.contains n } }
  match t with
  | .group who => { x with s := x.s.updBlock who.launch who.block fun b =>
      { b with poison := (opImages op).2.foldl (fun m d => SMap.dropRange m d.imageAt d.imageLen) b.poison } }
  | .stage _ _ => x

/-- What one level-0 form does (R209 to R217), its checks passed. -/
def TRun.form (x : TRun) (t : Site) (op : TOp) : Except Trap TRun :=
  match op.d with
  | none => .ok x
  | some d =>
    if d.empty then .ok x
    else
      match op.opc, op.a with
      | 0xA0, _ => .ok (x.tld t d)
      | 0xA1, _ => .ok (x.tst t d)
      | 0xA2, some a => .ok (x.tcp t (op.min.testBit 0) d a)
      | 0xA3, _ => x.wbld t d
      | 0xA4, some b => if b.empty then .ok x else x.tmma t op (op.min.testBit 0) d b
      | 0xA5, some o => .ok (x.tscan t op d o)
      | 0xA6, _ => .ok (x.tzero t op d)
      | 0xA7, _ => .ok (x.tacrd t op d)
      | 0xA8, _ => .ok (x.tacwr t op d)
      | 0xA9, some a => .ok (x.tred t op d a)
      | 0xAA, some a => .ok (x.tew t op d a op.b)
      | _, _ => .ok x

/-- Runs one level-0 form: every check before any write (R203). -/
def TRun.engine (x : TRun) (t : Site) (op : TOp) : Except Trap TRun :=
  match engineReasons op (x.s.siteSize t) with
  | (va, r) :: _ => .error (tileTrap va r)
  | [] =>
    match x.s.rangeFault op 0 x.ctx 0 with
    | some r => .error r.trap
    | none =>
      match (x.poison t op).orElse fun _ => x.arrayBad t op with
      | some tr => .error tr
      | none => (x.unmark t op).form t op

end Sys2Proof.Machine
end

