-- ==== Sys2Proof/Machine/TilePlan.lean ====
section
/-! DEFINITION. Levels and plans (R197 to R204): the children of an instruction, their derived
descriptors, and how a child runs down to the engines. -/

namespace Sys2Proof.Machine

/-! ### Reservations and executors (R197, R347) -/

/-- Die of a logical core (R1; log entry 17). -/
def dieOf (core : Nat) : Nat := core / 36

/-- Cores of a device (R1). -/
def allCores : List Nat := List.range 144

/-- The cores of a die. -/
def coresOf (die : Nat) : List Nat := allCores.filter fun c => dieOf c == die

/-- R359: cores whose work has ended have been idle from now on. -/
def State.idleFrom (s : State) (cores : List Nat) : State :=
  { s with cores := cores.foldl (fun m c => SMap.set default m c { SMap.get default m c with idleSince := s.gtime }) s.cores }

/-- The reservation of a launch of this device, or of another device's launch (its key). -/
def State.resOf (s : State) (key : Nat) : Option Reservation :=
  if key < 2 ^ 32 then (s.launches.find? fun l => l.id == key).bind Launch.res
  else SMap.find? s.podRes key

/-- The executors that receive the children of an instruction of a level, in ascending order: cores of a
die at level 2, dies at level 3, devices at level 4. -/
def State.executors (s : State) (key die level : Nat) : List Nat :=
  match s.resOf key with
  | none => []
  | some r =>
    let cores := sortBy (fun a b => decide (a ≤ b)) r.cores
    match level with
    | 2 => cores.filter fun c => dieOf c == die
    | 3 => (cores.map dieOf).eraseDups
    | 4 => SMap.get [] s.podSets r.set_
    | _ => []

/-! ### Derived descriptors (R200, R201) -/

/-- Roles of descriptors: 0 for D, 1 for A, 2 for B. -/
def opDesc (op : TOp) (role : Nat) : Option TDesc :=
  match role with
  | 0 => op.d
  | 1 => op.a
  | _ => op.b

def setDesc (op : TOp) (role : Nat) (d : Option TDesc) : TOp :=
  match role with
  | 0 => { op with d := d }
  | 1 => { op with a := d }
  | _ => { op with b := d }

/-- Whether a role is a B-side tile (R185). -/
def isBside (opc role : Nat) : Bool := (opc == 0xA4 && role == 1) || (opc == 0xA3 && role == 0)

/-- R201: the descriptors that an axis (0 R, 1 C, 2 K) moves, as (role, rows), primary first. -/
def axisMoves (opc min axis : Nat) : List (Nat × Bool) :=
  match opc, axis with
  | 0xA4, 0 => [(0, true)]
  | 0xA4, 1 => [(1, false)]
  | 0xA4, _ => [(0, false), (1, true)]
  | _, 2 => []
  | 0xA2, 0 => if min.testBit 0 then [(0, true), (1, false)] else [(0, true), (1, true)]
  | 0xA2, _ => if min.testBit 0 then [(0, false), (1, true)] else [(0, false), (1, false)]
  | 0xA9, 0 => if min % 4 = 0 then [(0, true), (1, true)] else [(1, true)]
  | 0xA9, _ =>
    if min % 4 = 2 then [(1, false)] else [(0, false), (1, false)]
  | _, 0 => [(0, true), (1, true), (2, true)]
  | _, _ => [(0, false), (1, false), (2, false)]

/-- R200: a part of a descriptor with origin o and length l on its rows or columns. -/
def partDesc (d : TDesc) (row bside : Bool) (o l : Nat) : TDesc :=
  let count := if row then d.rows else d.cols
  let clip := if row then d.rc else d.cc
  let n := min l (count - o)
  let base := d.base +
    (if d.cw then (if row then o / 32 * d.pitch else o * d.stride)
     else if row then o * d.stride else o * d.e)
  let shift :=
    if d.cw || !d.scaled then 0
    else if row != bside then (if d.slay then o else o * d.sstride)
    else (if d.slay then o / 32 * d.sstride else o / 32)
  let d1 := { d with base := base, sbase := d.sbase + shift }
  if row then { d1 with rows := n, rc := min (clip - o) n }
  else { d1 with cols := n, cc := min (clip - o) n }

/-- The axis that dimension i splits (R198). -/
def dimAxis (i : Nat) : Nat := match i with | 0 => 0 | 1 => 1 | 2 => 2 | _ => 0

/-- A part of an operation: origin o and length l on an axis; a temporal part of an accumulator form
moves its region. -/
def partOp (op : TOp) (axis o l : Nat) (temporal : Bool) : TOp :=
  let op1 := (axisMoves op.opc op.min axis).foldl (fun p m =>
    setDesc p m.1 ((opDesc p m.1).map fun d => partDesc d m.2 (isBside op.opc m.1) o l)) op
  match axis with
  | 0 => { op1 with ro := op.ro + o,
                    arow := if temporal && op.opc != 0xA5 then op.arow + o else op.arow }
  | 1 => { op1 with co := op.co + o, acol := if temporal then op.acol + o else op.acol }
  | _ => { op1 with ko := op.ko + o }

/-! ### The children of an instruction (R199) -/

/-- A dimension that an instruction handles: its number, extent, factor, and whether it is spatial. -/
structure PlanDim where
  dim : Nat
  ext : Nat
  factor : Nat
  spatial : Bool
  deriving DecidableEq, Repr

/-- The dimensions that an instruction at a level handles (R199). -/
def handled (op : TOp) (level : Nat) : List PlanDim :=
  op.plan.zipIdx.filterMap fun ((ext, factor, kind), i) =>
    if kind = 0 ∨ op.cons.contains i then none
    else if kind = 1 ∨ level ≤ kind then
      some { dim := i, ext := ext, factor := factor, spatial := decide (kind = level ∧ 2 ≤ level) }
    else none

/-- Every position of a nest, outermost factor first. -/
def nest : List Nat → List (List Nat)
  | [] => [[]]
  | f :: fs => (List.range f).flatMap fun c => (nest fs).map fun t => c :: t

/-- A child (R199): its index, spatial position, wave, whether it is wholly clipped, and its operation. -/
structure Kid where
  index : Nat
  spos : Nat
  wave : Nat
  clipped : Bool
  op : TOp
  deriving DecidableEq, Repr

/-- The primary descriptor's count and effective clip on an axis (R201). -/
def axisCount (op : TOp) (axis : Nat) : Nat × Nat :=
  match axisMoves op.opc op.min axis with
  | (r, row) :: _ => match opDesc op r with
    | some d => if row then (d.rows, d.rc) else (d.cols, d.cc)
    | none => (0, 0)
  | [] => (0, 0)

/-- The child at one position of the nest. -/
def kidAt (op : TOp) (dims : List PlanDim) (index : Nat) (coords : List Nat) : Kid :=
  (dims.zip coords).foldl (fun k x =>
    let axis := dimAxis x.1.dim
    let o := x.2 * x.1.ext
    { index := index,
      spos := if x.1.spatial then k.spos * x.1.factor + x.2 else k.spos,
      wave := if x.1.spatial then k.wave else k.wave * x.1.factor + x.2,
      clipped := k.clipped || decide ((axisCount k.op axis).2 ≤ o),
      op := { partOp k.op axis o x.1.ext (!x.1.spatial) with cons := k.op.cons ++ [x.1.dim] } })
    { index := index, spos := 0, wave := 0, clipped := false, op := op }

/-- R201: whether a plan is valid for a form in itself: its fields, and the products at one level of the temporal
dimensions with those over devices, of the dimensions over dies, and of those over cores. -/
def planOk (opc : Nat) (plan : List (Nat × Nat × Nat)) : Bool :=
  let product (kinds : List Nat) : Nat := (plan.filter fun x => kinds.contains x.2.2).foldl (fun n x => n * x.2.1) 1
  decide (product [1, 4] ≤ 64) && decide (product [3] ≤ 64) && decide (product [2] ≤ 64) &&
  plan.zipIdx.all fun ((ext, factor, kind), i) =>
    decide (kind ≤ 4) &&
    (if kind = 0 then ext == 0 && factor == 0
     else decide (1 ≤ factor) && decide (factor ≤ 64) && decide (1 ≤ ext) &&
       !(i == 2 && (opc != 0xA4 || ext % 32 != 0)) &&
       !(decide (2 ≤ kind) && dimAxis i == 0 && opc == 0xA5))

/-- R201: whether the handled dimensions cover their axes; dimension 3 covers dimension 0's parts. -/
def coversAxes (op : TOp) (dims : List PlanDim) : Bool :=
  dims.all fun x =>
    let n := (axisCount op (dimAxis x.dim)).1
    let n := if x.dim = 3 then
        (match dims.find? fun y => y.dim == 0 with | some y => min n y.ext | none => n)
      else n
    decide (n ≤ x.ext * x.factor)

/-- The children of an instruction at a level, or the TILE reason (R199, R201). -/
def State.kids (s : State) (key die level : Nat) (op : TOp) : Except Nat (List Kid) :=
  let dims := handled op level
  let total : Nat := dims.foldl (fun n x => n * x.factor) 1
  let spatial : Nat := (dims.filter PlanDim.spatial).foldl (fun n x => n * x.factor) 1
  if 64 < total ∨ coversAxes op dims = false then .error 6
  else if 2 ≤ level ∧ (s.executors key die level).length < spatial then .error 5
  else .ok ((nest (dims.map PlanDim.factor)).zipIdx.map fun (c, i) => kidAt op dims i c)

/-! ### Running a child (R202, R203) -/

/-- The engine children of a part at level 1 (R202). -/
def engineSteps (op : TOp) : List TOp :=
  let load (d : Option TDesc) : List TOp := d.toList.map fun d =>
    { op with opc := 0xA0, min := 0, d := some d, a := none, b := none }
  let store (d : Option TDesc) : List TOp := d.toList.map fun d =>
    { op with opc := 0xA1, min := 0, d := some d, a := none, b := none }
  match op.opc with
  | 0xA4 => load op.d ++
      [{ op with opc := 0xA3, min := 0, d := op.a, a := none, b := none },
       { op with min := if op.ko = 0 then op.min else 0, b := none }]
  | 0xA5 => load op.d ++ load op.a ++ [{ op with b := none }] ++
      (op.b.toList.flatMap fun b =>
        let b := { b with anchor := (op.a.map TDesc.anchor).getD 0 }
        { op with opc := 0xA7, min := 0, d := some b, a := none, b := none } :: store (some b))
  | 0xA7 => op :: store op.d
  | 0xA8 => load op.d ++ [op]
  | 0xA2 => load op.a ++ [op] ++ store op.d
  | 0xAA => load op.a ++ load op.b ++ [op] ++ store op.d
  | 0xA9 => load op.a ++ [op]
  | _ => [op]

/-- The level-0 operations of the forms `p` among those of a part at level 1. -/
def stepCount (p : Nat → Bool) (op : TOp) : Nat := ((engineSteps op).filter fun o => p o.opc).length

/-- The children of an instruction that are sent: those not wholly clipped. -/
def State.sentKids (s : State) (key die level : Nat) (op : TOp) : List Kid :=
  match s.kids key die level op with
  | .ok ks => ks.filter fun k => !k.clipped
  | .error _ => []

/-- Every level-0 operation that an instruction of a level comes down to (R199, R202). -/
def State.leafOps (s : State) (key : Nat) : Nat → Nat → TOp → List TOp
  | 0, _, op => [op]
  | 1, die, op => (s.sentKids key die 1 op).flatMap fun k => engineSteps k.op
  | l + 2, die, op =>
    let ex := s.executors key die (l + 2)
    (s.sentKids key die (l + 2) op).flatMap fun k => s.leafOps key (l + 1) (if l = 1 then ex.getD k.spos 0 else die) k.op

/-- The level-0 operations of the forms `p` that a core's engines get for an instruction of level 1. -/
def State.opsOfCore (s : State) (key die : Nat) (p : Nat → Bool) (op : TOp) : Nat :=
  (s.sentKids key die 1 op).foldl (fun n k => n + stepCount p k.op) 0

/-- The same for an instruction of level 2, by core. -/
def State.opsOfDie (s : State) (key die : Nat) (p : Nat → Bool) (op : TOp) : List (Nat × Nat) :=
  let ex := s.executors key die 2
  (s.sentKids key die 2 op).map fun k => (ex.getD k.spos 0, s.opsOfCore key die p k.op)

/-- The level-0 operations of the forms `p` that engines of this device get for one child of an instruction of a level,
by core (R199, R202): of its group's core at levels 0 and 1. -/
def State.engineOps (s : State) (key level exec core : Nat) (p : Nat → Bool) (op : TOp) : List (Nat × Nat) :=
  match level with
  | 0 => [(core, if p op.opc then 1 else 0)]
  | 1 => [(core, stepCount p op)]
  | 2 => [(exec, s.opsOfCore key (dieOf exec) p op)]
  | 3 => s.opsOfDie key exec p op
  | _ =>
    let ex := s.executors key 0 3
    (s.sentKids key 0 3 op).flatMap fun k => s.opsOfDie key (ex.getD k.spos 0) p k.op

/-- Whether a level-0 form is an array command (R206). -/
def isArray (opc : Nat) : Bool := decide (0xA3 ≤ opc) && decide (opc ≤ 0xA8)

/-- Runs engine children one after another. -/
def TRun.steps (x : TRun) (t : Site) : List TOp → Except Trap TRun
  | [] => .ok x
  | op :: rest =>
    match x.engine t op with
    | .error e => .error e
    | .ok y => y.steps t rest

/-- Runs children in order; a fault carries the level of the child in which it arose. -/
def runAll (f : TRun → Kid → Except (Nat × Trap) TRun) (x : TRun) : List Kid → Except (Nat × Trap) TRun
  | [] => .ok x
  | k :: rest =>
    if k.clipped then runAll f x rest
    else
      match f x k with
      | .error e => .error e
      | .ok y => runAll f y rest

/-- Children in the order in which they run: by wave, and within a wave by index (R199). -/
def inWaves (l : List Kid) : List Kid :=
  sortBy (fun a b => decide (a.wave < b.wave) || (a.wave == b.wave && decide (a.index ≤ b.index))) l

/-- The descriptor address that a fault found at a lower level names. -/
def opAddr (op : TOp) : Nat := (op.d.map TDesc.addr).getD 0

/-- A whole instruction of a level on a site (R197, R199, R202). -/
def TRun.instr (key : Nat) : Nat → Nat → Site → TRun → TOp → Except (Nat × Trap) TRun
  | 0, _, t, x, op =>
    match x.engine t op with
    | .error e => .error (0, e)
    | .ok y => .ok y
  | l + 1, die, t, x, op =>
    match x.s.kids key die (l + 1) op with
    | .error r => .error (l + 1, tileTrap (opAddr op) r)
    | .ok ks =>
      let ex := x.s.executors key die (l + 1)
      runAll (fun x k =>
        match l with
        | 0 =>
          match x.steps t (engineSteps k.op) with
          | .error e => .error (0, e)
          | .ok y => .ok y
        | 1 => TRun.instr key l die (.stage (ex.getD k.spos 0) key) x k.op
        | _ => TRun.instr key l (ex.getD k.spos 0) t x k.op) x (inWaves ks)

/-- One child of an instruction of level `level` (R199): at level 1 its engine children, above it the
instruction one level down on its executor. -/
def TRun.child (key level exec die : Nat) (t : Site) (x : TRun) (op : TOp) :
    Except (Nat × Trap) TRun :=
  match level with
  | 0 => TRun.instr key 0 die t x op
  | 1 =>
    match x.steps t (engineSteps op) with
    | .error e => .error (0, e)
    | .ok y => .ok y
  | 2 => TRun.instr key 1 die (.stage exec key) x op
  | 3 => TRun.instr key 2 exec t x op
  | _ => TRun.instr key 3 die t x op

end Sys2Proof.Machine
end

