-- ==== Sys2Proof/Machine/Engines.lean ====
section
/-! DEFINITION. Work of the engines and sequencers: its requests to other devices, owner states (R131,
R188, R317), the array lease (R207), and how it completes (R141, R142, R193, R203). -/

namespace Sys2Proof.Machine

/-! ### Requests (R364, R365) -/

/-- Splits [a, a + n) at the lines of 128 bytes (R365). -/
def lineParts : Nat → Nat → Nat → List (Nat × Nat)
  | 0, _, _ => []
  | fuel + 1, a, n =>
    if n = 0 then [] else
      let k := min n (128 - a % 128)
      (a, k) :: lineParts fuel (a + k) (n - k)

/-- A request of a group's engine work: `type` and, for CHECK, the type it checks for. The bytes of a write at `marks` are
poisoned (R408). -/
structure EngReq where
  type : Nat
  opc : Nat
  addr : Nat
  size : Nat
  value : Nat := 0
  marks : List Nat := []
  deriving DecidableEq, Repr

/-- Pieces of at most 16 bytes of a write, as operands of its message. -/
def pieces : Nat → Nat → Nat → Nat → List (Nat × Nat × Nat)
  | 0, _, _, _ => []
  | fuel + 1, a, n, v =>
    if n = 0 then [] else
      let k := min n 16
      (0, localOf a, v % 256 ^ k + k * 2 ^ 128) :: pieces fuel (a + k) (n - k) (v / 256 ^ k)

/-- The bits of a list of numbers. -/
def bitmapOf (l : List Nat) : Nat := l.foldl (fun m i => m ||| 2 ^ i) 0

/-- The message of an engine request. -/
def State.engMsg (s : State) (who : GRef) (ctx scope tag : Nat) (q : EngReq) : Msg :=
  { (default : Msg) with
    type := q.type, dst := locOf q.addr, src := s.devloc.toNat, ctx := ctx, addr := localOf q.addr,
    scope := scope, opc := q.opc, count := q.size, who := who,
    sz := if q.type = 0x0B then (if q.size = 16 then 4 else 3) else 0,
    kind := if q.type = 0x0B ∨ (q.type = 0x0E ∧ q.opc ≠ 8) then 1 else 0,
    rtag := { combined := false, hop := 0, entry := 0, stag := tag },
    operand := if q.type = 0x0B then q.value else if q.type = 9 then bitmapOf q.marks else 0,
    acks := if q.type = 0x0B then [(s.devloc.toNat, tag)] else [],
    ops := match q.type with
      | 9 => pieces (q.size / 16 + 1) q.addr q.size q.value
      | 0x0B => [(0, localOf q.addr, q.value)]
      | _ => [(0, localOf q.addr, q.size)] }

/-- Sends engine requests: what is outstanding, and the state. -/
def State.sendEng (s : State) (who : GRef) (ctx scope : Nat) (qs : List EngReq) :
    List ReqOut × State :=
  let reqs : List ReqOut := qs.zipIdx.map fun (q, i) =>
    let tag := (s.fab.tag + i) % 2 ^ 20
    { tag := tag, msg := s.engMsg who ctx scope tag q, lanes := [0], deadline := s.gtime + 200000,
      answer := none }
  (reqs, { s with fab := { s.fab with tag := (s.fab.tag + qs.length) % 2 ^ 20,
                                      out := s.fab.out ++ reqs.map ReqOut.msg } })

/-- The requests of remote accesses: reads of their bytes, or checks for writes. -/
def State.farReqs (s : State) (accs : List Acc) (red : Bool) (onlyCheck : Bool) : List EngReq :=
  accs.flatMap fun a =>
    match a.addr with
    | none => []
    | some x =>
      if s.isLocal x then []
      else if a.write || onlyCheck then
        [{ type := 0x0E, opc := if !a.write then 8 else if red then 0x0B else 9, addr := x,
           size := a.size }]
      else (lineParts (a.size / 128 + 2) x a.size).map fun p =>
        { type := 8, opc := 0, addr := p.1, size := p.2 }

/-- The requests of a form's remote memory tiles. -/
def State.tileReqs (s : State) (op : TOp) (level ctx lane : Nat) (onlyCheck : Bool) : List EngReq :=
  (memTiles op level).flatMap fun t =>
    s.farReqs ((t.accs ctx lane).1 ++ (t.accs ctx lane).2) t.red onlyCheck

/-- The first fault among the answers of requests, FABRIC for one that no reply answered. -/
def reqsFault (reqs : List ReqOut) (write : Bool) : Option Ranked :=
  firstWorst (reqs.filterMap fun q =>
    match q.answer with
    | some (.fault t _) => some { rank := trapRank t, trap := t, lane := t.aux % 32 }
    | some .timeout =>
      some { rank := 14, lane := 0,
             trap := { cause := .fabric, va := q.msg.dst * 2 ^ 57 + q.msg.addr,
                       aux := memAux 0 0 true write 0 } }
    | _ => none)

/-- What the check of one access on another device answered, as a fault of the access's lane. -/
def checkFault (reqs : List ReqOut) (a : Acc) : Option Ranked :=
  let x := a.addr.getD 0
  (reqsFault (reqs.filter fun q => q.msg.dst == locOf x && q.msg.addr == localOf x && q.msg.count == a.size &&
    (q.msg.kind == 1) == a.write) a.write).map fun r =>
      { r with lane := a.lane, trap := { r.trap with aux := r.trap.aux - r.trap.aux % 32 + a.lane } }

/-- The bytes that answered reads carry, keyed by 72-bit address. -/
def reqsData (reqs : List ReqOut) : BMap 8 :=
  reqs.foldl (fun m q =>
    match q.answer with
    | some (.values ((_, v) :: _)) =>
      if q.msg.type = 8 then BMap.writeNat m (q.msg.dst * 2 ^ 57 + q.msg.addr) q.msg.count v else m
    | _ => m) []

/-- The addresses of poisoned bytes that answered reads carry (R408). -/
def reqsMarks (reqs : List ReqOut) : List Nat :=
  reqs.flatMap fun q => match q.answer with
    | some (.values [_, (_, m)]) =>
      if q.msg.type = 8 then ((List.range q.msg.count).filter m.testBit).map fun i =>
        q.msg.dst * 2 ^ 57 + q.msg.addr + i
      else []
    | _ => []

/-- The write requests for what an operation wrote to other devices. -/
def farWriteReqs (l : List FarWrite) : List EngReq :=
  l.flatMap fun w =>
    if w.red then [{ type := 0x0B, opc := 0, addr := w.addr, size := w.size, value := w.value }]
    else (lineParts (w.size / 128 + 2) w.addr w.size).map fun p =>
      { type := 9, opc := 0, addr := p.1, size := p.2,
        value := w.value / 256 ^ (p.1 - w.addr) % 256 ^ p.2, marks := marksIn w.marks (p.1 - w.addr) p.2 }

/-! ### Owner states (R317) -/

/-- The granules of [off, off + n). -/
def granules (off n : Nat) : List Nat :=
  if n = 0 then [] else (List.range ((off + n - 1) / 4096 + 1 - off / 4096)).map fun i => off / 4096 + i

def Block.ownerOf (b : Block) (g : Nat) : Owner := SMap.get .t b.owner g

/-- Moves granules for an operation that reads and writes them (R188, R317). -/
def Block.take (b : Block) (reads writes : List Nat) : Block :=
  let o1 := writes.foldl (fun m g => SMap.set Owner.t m g .e) b.owner
  { b with owner := reads.foldl (fun m g =>
      SMap.set Owner.t m g (match SMap.get Owner.t m g with | .s n => .s (n + 1) | _ => .s 1)) o1 }

/-- Returns granules when the operation completes. -/
def Block.give (b : Block) (reads writes : List Nat) : Block :=
  let o1 := writes.foldl (fun m g => SMap.set Owner.t m g .t) b.owner
  { b with owner := reads.foldl (fun m g =>
      SMap.set Owner.t m g
        (match SMap.get Owner.t m g with | .s n => if n ≤ 1 then .t else .s (n - 1) | _ => .t)) o1 }

/-- The first granule that an operation may not take (R188): a written one not in T, or a read one in
E. -/
def Block.refusal (b : Block) (reads writes : List Nat) : Option Nat :=
  match writes.find? fun g => b.ownerOf g != .t with
  | some g => some g
  | none => reads.find? fun g => b.ownerOf g == .e

/-- Whether a granule already has 255 readers (R317). -/
def Block.full (b : Block) (reads : List Nat) : Bool :=
  reads.any fun g => match b.ownerOf g with | .s n => decide (255 ≤ n) | _ => false

/-! ### Starting and finding work -/

/-- The engine that runs a job, as its kind and its queue's room over all such engines (R318). -/
def engineOf : JobKind → Option (Nat × Nat)
  | .acp _ _ _ _ _ => some (0, 32)
  | .bpf _ _ _ => some (0, 32)
  | .tile _ _ level _ op =>
    if level ≠ 0 then none
    else if op.opc = 0xA2 ∨ op.opc = 0xAA then some (0, 32)
    else if op.opc = 0xA0 ∨ op.opc = 0xA3 then some (1, 16)
    else if op.opc = 0xA1 ∨ op.opc = 0xA9 then some (2, 16)
    else some (3, 32)
  | .tileFor _ => none
  | .reserve _ => none

/-- Whether a group's block is saved: it stands on no core (R354). -/
def State.isSaved (s : State) (who : GRef) : Bool :=
  s.launches.any fun l => l.id == who.launch && l.runs.any fun r => r.index == who.block && r.stat == .saved

/-- The core that a group stands on. -/
def State.coreOf (s : State) (who : GRef) : Option Nat :=
  if s.isSaved who then none else (s.findGroup who).map fun g => g.p.core

/-- Whether the engine of a job has no room on a core (R318). -/
def State.engineFull (s : State) (core : Nat) (k : JobKind) : Bool :=
  match engineOf k with
  | none => false
  | some (e, cap) =>
    decide (cap ≤ (s.jobs.filter fun j =>
      (engineOf j.kind).map Prod.fst == some e && s.coreOf j.who == some core).length)

/-- R318: whether an engine of a job's kind starts it: as many earlier ones as there are engines of the kind have not been
started. Array commands follow R206. -/
def State.engineTurn (s : State) (j : Job) : Bool :=
  match engineOf j.kind with
  | none => true
  | some (e, _) =>
    e == 3 || decide ((s.jobs.filter fun x =>
      decide (x.id < j.id) && !x.writing && (engineOf x.kind).map Prod.fst == some e && s.coreOf x.who == s.coreOf j.who).length
      < if e = 0 then 2 else 1)

/-- Starts a job with the requests it begins with. -/
def State.startJob (s : State) (who : GRef) (ctx scope : Nat) (k : JobKind) (qs : List EngReq) : State :=
  let r := s.sendEng who ctx scope qs
  { r.2 with jobNext := s.jobNext + 1,
             jobs := r.2.jobs ++ [{ id := s.jobNext, who := who, ctx := ctx, kind := k, start := s.gtime,
                                    reqs := r.1, data := [], writing := false }] }

/-- Whether a job is work on a core. -/
def State.worksOn (s : State) (core : Nat) (j : Job) : Bool :=
  match j.kind with
  | .tile _ _ level exec _ =>
    if level = 2 then exec == core
    else if level = 3 then exec == dieOf core
    else decide (4 ≤ level) || s.coreOf j.who == some core
  | .tileFor _ => true
  | .reserve _ => false
  | _ => s.coreOf j.who == some core

/-- The cores on which some of the jobs are work. -/
def State.coresAt (s : State) (p : Job → Bool) : List Nat :=
  let js := s.jobs.filter p
  allCores.filter fun c => js.any (s.worksOn c)

/-- Takes a job away: the cores on which it was work have been idle from now on (R359). -/
def State.dropJob (s : State) (id : Nat) : State :=
  let s1 := s.idleFrom (s.coresAt fun j => j.id == id)
  { s1 with jobs := s1.jobs.filter fun j => j.id != id }

/-- Whether a form has an array command at a level of 0 or 1 (R206, R207). -/
def Job.isArray (j : Job) : Bool :=
  match j.kind with
  | .tile _ _ level _ op => decide (level ≤ 1) && Sys2Proof.Machine.isArray op.opc
  | _ => false

/-! ### The lease (R207) -/

def State.leaseOf (s : State) (core : Nat) : Lease := SMap.get default s.leases core

/-- Whether a form runs on a copy engine (R318). -/
def isCopyForm (opc : Nat) : Bool := opc == 0xA2 || opc == 0xAA

/-- The level-0 operations of the forms `p` that engines of this device get for a job, by core. -/
def State.jobOps (s : State) (j : Job) (p : Nat → Bool) : List (Nat × Nat) :=
  (match j.kind with
    | .tile _ _ level exec op =>
      if level = 4 ∧ exec ≠ s.devloc.toNat then [] else s.engineOps j.who.launch level exec ((s.coreOf j.who).getD 144) p op
    | .tileFor m => (m.tile.map (s.engineOps (m.who.launch + 2 ^ 32 * (m.src + 1)) 4 0 0 p)).getD []
    | _ => []).filter fun x => x.2 != 0

/-- Whether a job's commands are present at a core's array (R395): a group's own ones need the lease. -/
def State.commands (s : State) (core : Nat) (j : Job) : Bool :=
  !j.writing && (!j.isArray || (s.leaseOf core).holder == some j.who) &&
    (s.jobOps j isArray).any fun x => x.1 == core

/-- The job whose commands a core's array works at. -/
def State.arrayJob (s : State) (core : Nat) : Option Job := s.jobs.find? (s.commands core)

/-- R395: where a core's array has had no command and has one in `t`, its NOCMD span closes. -/
def State.startCommand (s t : State) (p : Place) (core : Nat) : State :=
  if (s.arrayJob core).isNone && (t.arrayJob core).isSome then t.closeIdle p core else t

def State.setLease (s : State) (core : Nat) (l : Lease) : State :=
  { s with leases := SMap.set default s.leases core l }

def State.partOf (s : State) (who : GRef) : Nat :=
  match s.findGroup who with | some g => g.p.part | none => 0

/-- Whether a tenure is over. -/
def State.tenureOver (s : State) (l : Lease) : Bool :=
  decide (32 ≤ l.count) || decide (l.since + 8192 ≤ s.clk)

/-- Whether a lease has to pass: the tenure is over and another partition asks. -/
def State.leaseDue (s : State) (l : Lease) : Bool :=
  match l.holder with
  | none => false
  | some h => s.tenureOver l && l.asks.any fun a => s.partOf a != s.partOf h

/-- The group that is granted next: partitions round-robin from the one after the holder's, and within
a partition the group that asked first. -/
def State.nextHolder (s : State) (part : Nat) (asks : List GRef) : Option GRef :=
  ((sortBy (fun a b : Nat × Nat × GRef => decide (a.1 < b.1) || (a.1 == b.1 && decide (a.2.1 ≤ b.2.1)))
    (asks.zipIdx.map fun (a, i) => ((s.partOf a + 7 - part % 8) % 8, i, a))).head?).map fun x => x.2.2

/-- Whether a group still has array commands to run. -/
def State.hasArrayWork (s : State) (who : GRef) : Bool :=
  (s.jobs.any fun j => j.who == who && j.isArray) ||
  (match s.findGroup who with
    | some g => g.recs.any fun x => x.2.state == 1 && decide (x.2.level ≤ 1) && isArray x.2.kept.opc
    | none => false)

/-- Takes the lease from its holder, who asks again when `again` holds and work is left, and grants it
to the next group. -/
def State.passLease (s : State) (core : Nat) (again : Bool) : State :=
  let l := s.leaseOf core
  match l.holder with
  | none => s
  | some h =>
    let asks := if again && s.hasArrayWork h && !l.asks.contains h then l.asks ++ [h] else l.asks
    match s.nextHolder (s.partOf h) asks with
    | none => s.setLease core { holder := none, count := 0, since := s.clk, asks := [] }
    | some n =>
      let t := s.setLease core { holder := some n, count := 0, since := s.clk,
                                 asks := asks.filter fun a => a != n }
      s.startCommand t ((s.findGroup n).getD Group.reset).p core

/-- Asks for the lease: whether the group holds it now. -/
def State.askLease (s : State) (core : Nat) (who : GRef) : Bool × State :=
  let l := s.leaseOf core
  match l.holder with
  | none => (true, s.setLease core { l with holder := some who, count := 0, since := s.clk,
                                            asks := l.asks.filter fun a => a != who })
  | some h =>
    if h = who then (true, s)
    else if l.asks.contains who then (false, s)
    else (false, s.setLease core { l with asks := l.asks ++ [who] })

/-- Gives the lease up (TFREE, EXIT). -/
def State.releaseLease (s : State) (core : Nat) (who : GRef) : State :=
  let l := s.leaseOf core
  let s1 := s.setLease core { l with asks := l.asks.filter fun a => a != who }
  if l.holder = some who then s1.passLease core false else s1

/-- Counts array commands of the holder's tenure. -/
def State.countArray (s : State) (who : GRef) (n : Nat) : State :=
  match s.findGroup who with
  | none => s
  | some g =>
    let l := s.leaseOf g.p.core
    if l.holder = some who then s.setLease g.p.core { l with count := l.count + n } else s

/-! ### Completion reports (R142, R154, R193) -/

def State.hold (s : State) (who : GRef) (h : Held) : State :=
  s.updGroup who fun g => { g with held := g.held ++ [h] }

def State.lowerToken (s : State) (who : GRef) (t : Nat) : State :=
  s.updGroup who fun g => { g with r := g.r.setTok t (g.r.getTok t - 1) }

/-- An engine's arrival on a barrier object: none when the object is invalid (R154). -/
def State.engineArrive (s : State) (who : GRef) (off : Nat) : Option State :=
  let before := match s.findBlock who.launch who.block with
    | some b => barrierOf (BMap.readNat b.scratch off 16) | none => default
  match s.arriveAt who.launch who.block off none with
  | none => none
  | some (p, s1) =>
    match s1.findGroup who with
    | none => some s1
    | some g => if before.arrived + 1 = before.expect then
        some (s1.emitFor g 5 (off + (p + 1) % 2 ^ 32 * 2 ^ 20)) else some s1

/-- PROT 0x07 of an engine arrival on an invalid object (R154). DESIGN CHOICE (log entry 60): its %faultaux has LANE 0
and WR 1. -/
def arrivalTrap (off : Nat) : Trap :=
  { cause := .prot, va := winScratch + off, aux := memAux 7 0 false true 0 }

/-- R194: %faultaux of a fault that a record delivers. -/
def recordAux (rec_ : Nat) (r : TileReport) : Nat :=
  2 ^ 55 + r.level % 8 * 2 ^ 52 + r.index % 64 * 2 ^ 46 + rec_ % 16 * 2 ^ 42 +
    (if r.trap.cause = .tile then r.trap.aux / 2 ^ 34 % 256 * 2 ^ 34 else 0) +
    r.corg % 2 ^ 16 * 2 ^ 16 + r.rorg % 2 ^ 16

def State.updRec (s : State) (who : GRef) (n : Nat) (f : TRec → TRec) : State :=
  s.updGroup who fun g => { g with recs := SMap.set default g.recs n (f (SMap.get default g.recs n)) }

def State.recOf (s : State) (who : GRef) (n : Nat) : TRec :=
  match s.findGroup who with
  | some g => SMap.get default g.recs n
  | none => default

/-- R193: an operation completes. -/
def State.completeRec (s : State) (who : GRef) (n : Nat) : State :=
  let r := s.recOf who n
  -- owner states return to T
  let s1 := s.updBlock who.launch who.block fun b => b.give r.reads r.writes
  -- the report of the lowest child index stays; the others are counted
  let first := (sortBy (fun a b : TileReport => decide (a.index ≤ b.index)) r.reports).head?
  let arrived := match r.target with
    | .barrier off => (s1.engineArrive who off)
    | .token t => some (s1.lowerToken who t)
  let invalid : Option TileReport := match r.target, arrived with
    | .barrier off, none =>
      some { level := r.level, index := 0, rorg := 0, corg := 0, trap := arrivalTrap off }
    | _, _ => none
  let extra := r.reports.length - 1 + (if first.isSome && invalid.isSome then 1 else 0)
  let fault := match first with | some f => some f | none => invalid
  let state := if fault.isSome then 3 else 2
  let s2 := (arrived.getD s1).updRec who n fun r =>
    { r with state := state, reports := [], reads := [], writes := [],
             fault := fault, more := min 65535 (r.more + extra) }
  let s3 := match fault with
    | none => s2
    | some f => s2.hold who {
        token := match r.target with | .token t => some t | .barrier _ => none
        send := false, release := false
        trap := { f.trap with aux := recordAux n f } }
  match s3.findGroup who with
  | none => s3
  | some g => s3.emitFor g 7 (r.kept.opc + n * 2 ^ 8 + state * 2 ^ 12 + bitmapOf (s3.recOf who n).bitmap * 2 ^ 64)

/-! ### Sending children (R199, R203, R204) -/

/-- The key of a launch's state on cores. -/
def keyOf (who : GRef) : Nat := who.launch

def State.dieOfGroup (s : State) (who : GRef) : Nat :=
  match s.findGroup who with | some g => dieOf g.p.core | none => 0

/-- The records of the copy-engine operations of a child, CPYS (2) as it starts and CPYD (3) as it completes (R392). -/
def State.copyRecords (s : State) (p : Place) (n type : Nat) (j : Job) (op : TOp) (faulted : Bool) : State :=
  (s.jobOps j isCopyForm).foldl (fun s x => (List.range x.2).foldl (fun s _ =>
    s.emitAt p x.1 type (op.opc + n * 2 ^ 8 + (if faulted then 2 ^ 12 else 0) +
      ((op.d.map fun d => d.rows * d.cols * d.e).getD 0) * 2 ^ 32)) s) s

/-- A child has been sent: the array's NOCMD spans close where its commands are the first, and its copies start. -/
def State.kidStarts (s t : State) (who : GRef) (n : Nat) (op : TOp) : State :=
  match t.jobs.getLast?, t.findGroup who with
  | some j, some g =>
    ((t.jobOps j isArray).foldl (fun t x => s.startCommand t g.p x.1) t).copyRecords g.p n 2 j op false
  | _, _ => t

/-- Sends one child of a record to its executor. -/
def State.sendKid (s : State) (who : GRef) (ctx n level : Nat) (ex : List Nat) (k : Kid) : State :=
  let exec := if level ≤ 1 then 0 else ex.getD k.spos 0
  let kind : JobKind := .tile n k.index level exec k.op
  if level = 4 ∧ exec ≠ s.devloc.toNat then
    let tag := s.fab.tag
    let m : Msg := { (default : Msg) with
      type := 0x0F, dst := exec, src := s.devloc.toNat, ctx := ctx, who := who, kind := 0,
      rtag := { combined := false, hop := 0, entry := 0, stag := tag }, tile := some k.op }
    { s with jobNext := s.jobNext + 1,
             fab := { s.fab with tag := (tag + 1) % 2 ^ 20, out := s.fab.out ++ [m] },
             jobs := s.jobs ++ [{ id := s.jobNext, who := who, ctx := ctx, kind := kind,
                                  start := s.gtime, data := [], writing := false,
                                  reqs := [{ tag := tag, msg := m, lanes := [0],
                                             deadline := s.gtime + 200000, answer := none }] }] }
  else s.kidStarts (s.startJob who ctx k.op.scope kind (s.tileReqs k.op (if level = 0 then 0 else 1) ctx 0 false)) who n k.op

/-- Whether a child of a record is in progress. -/
def State.recBusy (s : State) (who : GRef) (n : Nat) : Bool :=
  s.jobs.any fun j => j.who == who && (match j.kind with | .tile m _ _ _ _ => m == n | _ => false)

/-- Whether a group is being saved or is saved: no further child is sent (R208). -/
def State.frozen (s : State) (who : GRef) : Bool :=
  match s.findGroup who with | some g => g.frozen | none => false

/-- Sends the next wave of a record that has children left and none in progress, skipping the wholly
clipped ones, whose bits are set; completes the record when none is left. DESIGN CHOICE (log entry 60): the bit of a
clipped child is set when its wave is reached (R192). `fuel` bounds the waves. -/
def State.sendWave (s : State) (who : GRef) (ctx n : Nat) : Nat → State
  | 0 => s.completeRec who n
  | fuel + 1 =>
    let r := s.recOf who n
    if !r.reports.isEmpty then s.completeRec who n
    else
      let die := s.dieOfGroup who
      let ks := if r.level = 0 then
          [({ index := 0, spos := 0, wave := 0, clipped := false, op := r.op } : Kid)]
        else match s.kids (keyOf who) die r.level r.op with
          | .ok l => l
          | .error _ => []
      let left := (inWaves ks).filter fun k => !r.bitmap.contains k.index
      match left.head? with
      | none => s.completeRec who n
      | some k0 =>
        if s.recBusy who n || s.frozen who then s
        else
        let wave := left.filter fun k => k.wave == k0.wave
        let gone := (wave.filter Kid.clipped).map Kid.index
        let s1 := s.updRec who n fun r => { r with bitmap := r.bitmap ++ gone }
        let sent := wave.filter fun k => !k.clipped
        if sent.isEmpty then s1.sendWave who ctx n fuel
        else
          let ex := s1.executors (keyOf who) die r.level
          sent.foldl (fun s k => s.sendKid who ctx n r.level ex k) s1

/-- The executor of an instruction of a level (R197): the core's sequencer, the die's, or the hub. -/
def State.execKey (s : State) (who : GRef) (level : Nat) : Nat :=
  match s.findGroup who with
  | none => 0
  | some g => if level = 1 then g.p.core else if level = 2 then 1000 + dieOf g.p.core else 2000

/-- The executor whose queue holds an operation, or the one of its group's place. -/
def State.execOf (s : State) (who : GRef) (n level : Nat) : Nat :=
  ((List.find? (fun q => q.2.contains (who, n)) s.execQ).map Prod.fst).getD (s.execKey who level)

/-- Lets the operation at the head of an executor's queue begin. -/
def State.startHead (s : State) (key : Nat) : State :=
  match SMap.get [] s.execQ key with
  | [] => s
  | (who, n) :: _ =>
    match s.findGroup who with
    | none => s
    | some g => s.sendWave who g.p.ctx n 65

/-- After a child has ended: the next wave when nothing of the record runs any more, and when the record
is over or its block is being saved, the executor's next operation (R204). `fuel` bounds the operations that end at
once. -/
def State.afterChild (s : State) (who : GRef) (n : Nat) : Nat → State
  | 0 => s
  | fuel + 1 =>
    if s.recBusy who n then s
    else
      match s.findGroup who with
      | none => s
      | some g =>
        let level := (s.recOf who n).level
        let s1 := if (s.recOf who n).state = 1 then s.sendWave who g.p.ctx n 65 else s
        if level = 0 ∨ ((s1.recOf who n).state = 1 ∧ s1.frozen who = false) then s1
        else
          let key := s1.execOf who n level
          let q := SMap.get [] s1.execQ key
          let s2 := { s1 with execQ := SMap.set [] s1.execQ key
                                (q.filter fun x => !(x.1 == who && x.2 == n)) }
          if q.head? = some (who, n) then
            match SMap.get [] s2.execQ key with
            | [] => s2
            | (w2, n2) :: _ => (s2.startHead key).afterChild w2 n2 fuel
          else s2

/-- Hands an operation over to the executor of its level (R191). -/
def State.handOver (s : State) (who : GRef) (ctx n : Nat) : State :=
  let level := (s.recOf who n).level
  if level = 0 then (s.sendWave who ctx n 65).afterChild who n 8
  else
    let key := s.execKey who level
    let q := SMap.get [] s.execQ key
    let s1 := { s with execQ := SMap.set [] s.execQ key (q ++ [(who, n)]) }
    if q.isEmpty then (s1.startHead key).afterChild who n 64 else s1

/-- Notes that a job's writes to other devices are under way. -/
def State.toWriting (s : State) (id : Nat) (reqs : List ReqOut) (data : BMap 8) : State :=
  { s with jobs := s.jobs.map fun y =>
      if y.id = id then { y with reqs := reqs, writing := true, data := data } else y }

/-! ### A child ends (R193, R199, R203) -/

/-- Records that a child has completed: its bit, GFL, and what follows. -/
def State.kidDone (s : State) (who : GRef) (n index id : Nat) (gfl : Bool) : State :=
  ((s.dropJob id).updRec who n fun r =>
    { r with bitmap := if r.bitmap.contains index then r.bitmap else r.bitmap ++ [index],
             gfl := r.gfl || gfl }).afterChild who n 64

/-- Records that a child has faulted. -/
def State.kidFault (s : State) (who : GRef) (n id : Nat) (rep : TileReport) : State :=
  ((s.dropJob id).updRec who n fun r => { r with reports := r.reports ++ [rep] }).afterChild who n 64

/-- The site of a group's tile work of levels 0 and 1. -/
def TRun.start (s : State) (j : Job) : TRun :=
  { s := s, ctx := j.ctx, data := reqsData j.reqs, marks := reqsMarks j.reqs, out := [], gfl := false }

/-- The array commands of a child at levels 0 and 1 (R207). -/
def arrayCount (level : Nat) (op : TOp) : Nat :=
  if level = 0 then (if isArray op.opc then 1 else 0)
  else if level = 1 then ((engineSteps op).filter fun o => isArray o.opc).length else 0

/-- A child's engine work on this device is over: the array clk of its commands are charged on each core (R395), and its
copies complete (R392). -/
def State.kidEnds (s : State) (j : Job) (n : Nat) (op : TOp) (faulted : Bool) : State :=
  match s.findGroup j.who with
  | none => s
  | some g =>
    let nba := s.nbaOf g.p.ctx (SMap.get default g.recs n).kept.pc
    ((s.jobOps j isArray).foldl (fun s x =>
      s.closeCommands g.p x.1 nba (arraySplit j.id x.2 (s.arrayOpen x.1))) s).copyRecords g.p n 3 j op faulted

/-- R328: a job that reaches a page which the runtime has made non-resident waits for it, and runs again; `refusal` and
`answer` are what follows if the page does not come back. -/
def State.waitPage (s : State) (j : Job) (t : Trap) (req : Instr) (refusal : Option Instr) (answer : Msg) : State :=
  ({ s with pageWaits := s.pageWaits ++ [{
      who := j.who, ctx := j.ctx, page := localOf t.va / 4096, req := req, trap := t
      msg := { (default : Msg) with type := 0x18, ctx := j.ctx }
      refusal := refusal, answer := answer, job := some j.id, behind := false }] } : State).askMap j.who (localOf t.va / 4096)

/-- Whether a fault is a PAGE on a page of this device that the runtime serves unseen (R328). -/
def State.awayFault (s : State) (ctx : Nat) (t : Trap) : Bool :=
  t.cause == .page && t.aux / 2 ^ 15 % 2 == 0 && s.pageAway ctx (localOf t.va / 4096)

/-- Runs a job's tile child when its requests are answered: done, a fault, or its far writes sent. DESIGN CHOICE (log
entry 60): RORG and CORG of a fault in a nested child are those of the issuing level's child (R194). -/
def State.runTile (s : State) (j : Job) (n index level exec : Nat) (op : TOp) : State :=
  let report (lvl : Nat) (t : Trap) : TileReport :=
    { level := lvl, index := index, rorg := op.ro, corg := op.co, trap := t }
  let fail (s : State) (lvl : Nat) (t : Trap) : State :=
    if level = 0 then s.kidFault j.who n j.id (report lvl t)
    else s.later (.tileChildFault j.who n index (report lvl t))
  -- a child of another device reports the level at which the fault arose; one that does not answer is of level 3
  let lvl := if level ≠ 4 ∨ exec = s.devloc.toNat then 0
    else match j.reqs.head?.bind ReqOut.answer with | some (.fault _ ((_, l) :: _)) => l | _ => 3
  match reqsFault j.reqs j.writing with
  | some r => fail s lvl r.trap
  | none =>
    if j.writing then s.kidDone j.who n index j.id (s.recOf j.who n).gfl
    else if level = 4 ∧ exec ≠ s.devloc.toNat then
      let gfl := match j.reqs.head?.bind ReqOut.answer with
        | some (.values ((_, v) :: _)) => v == 1 | _ => false
      s.kidDone j.who n index j.id gfl
    else
      match TRun.child (keyOf j.who) level exec (s.dieOfGroup j.who) (.group j.who) (TRun.start s j) op with
      | .error (lvl, t) =>
        if s.awayFault j.ctx t then
          s.waitPage j t (.tileChildComplete j.who n index) (some (.tileChildFault j.who n index (report lvl t))) default
        else fail (s.kidEnds j n op true) lvl t
      | .ok x =>
        let s1 := (x.s.countArray j.who (arrayCount level op)).kidEnds j n op false
        if x.out.isEmpty then s1.kidDone j.who n index j.id x.gfl
        else
          let r := s1.sendEng j.who j.ctx op.scope (farWriteReqs x.out)
          (r.2.toWriting j.id r.1 []).updRec j.who n fun c => { c with gfl := c.gfl || x.gfl }

/-! ### ACP (R141) -/

/-- Fresh free bytes as a number. -/
def State.freeBytes (s : State) : Nat → Nat × State
  | 0 => (0, s)
  | n + 1 =>
    let r := State.freeBytes { s with free := s.free + 1 } n
    ((Config.freeWord s.free).toNat % 256 + 256 * r.1, r.2)

/-- A local range as the engine sees it: at an offset of the scratchpad, or as spans of memory. -/
def acpSpans (s : State) (ctx addr n : Nat) (write : Bool) : List Span :=
  if winScratch ≤ localOf addr then [{ scratch := true, at_ := localOf addr - winScratch, len := n }]
  else (s.pageSpans ctx { write := write } (n / 4096 + 2) (localOf addr) n).1

/-- Bytes of spans, with the scratchpad of a group's block. -/
def State.readAs (s : State) (who : GRef) : List Span → Nat
  | [] => 0
  | p :: ps => BMap.readNat (if p.scratch then s.siteMem (.group who) else s.mem) p.at_ p.len +
      256 ^ p.len * s.readAs who ps

def State.writeAs (s : State) (who : GRef) : List Span → Nat → State
  | [], _ => s
  | p :: ps, v =>
    let s' := if p.scratch then s.updBlock who.launch who.block fun b => b.put p.at_ p.len v
      else s.writeMem p.at_ p.len v
    State.writeAs s' who ps (v / 256 ^ p.len)

/-- The physical runs that two lists of spans of memory share (R141). -/
def overlaps (a b : List Span) : List Span :=
  a.flatMap fun p => b.filterMap fun q =>
    let lo := max p.at_ q.at_
    let hi := min (p.at_ + p.len) (q.at_ + q.len)
    if !p.scratch && !q.scratch && decide (lo < hi) then
      some { scratch := false, at_ := lo, len := hi - lo } else none

/-- Bytes that map to the same physical bytes end undefined (R141). -/
def State.blur (s : State) : List Span → State
  | [] => s
  | p :: ps =>
    let r := s.freeBytes p.len
    State.blur (r.2.writeSpans [p] r.1) ps

/-- The granules that an ACP reads and writes. -/
def acpGranules (s : State) (dst src n : Nat) : List Nat × List Nat :=
  let g (a : Nat) : List Nat :=
    if s.isLocal a && decide (winScratch ≤ localOf a) then granules (localOf a - winScratch) n else []
  (g src, g dst)

/-- The fault that an ACP holds: FABRIC names the destination; its WR is 1 and its LANE 0 (DESIGN CHOICE, log entry
58). -/
def State.acpTrap (s : State) (dst : Nat) (t : Trap) : Trap :=
  if t.cause = .fabric then { cause := .fabric, va := dst, aux := memAux 0 0 (!s.isLocal dst) true 0 } else t

/-- Ends an ACP: the owner states return to T, and the token falls or holds the fault. -/
def State.endAcp (s : State) (j : Job) (token dst src n : Nat) (fault : Option Trap) : State :=
  let gr := acpGranules s dst src n
  let s1 := (s.dropJob j.id).updBlock j.who.launch j.who.block fun b => b.give gr.1 gr.2
  let s2 := match fault with
    | some t => s1.hold j.who { token := some token, send := false, release := true, trap := s.acpTrap dst t }
    | none => s1.lowerToken j.who token
  match s2.findGroup j.who with
  | none => s2
  | some g => s2.emitFor g 3 (0x85 + token * 2 ^ 8 + (if fault.isSome then 2 ^ 12 else 0) + n * 2 ^ 32)

/-- Runs an ACP whose requests are answered. -/
def State.runAcp (s : State) (j : Job) (token dst src n scope : Nat) : State :=
  match reqsFault j.reqs true with
  | some r => s.endAcp j token dst src n (some r.trap)
  | none =>
  if j.writing then s.endAcp j token dst src n none
  else
    let v := if s.isLocal src then s.readAs j.who (acpSpans s j.ctx src n false)
      else BMap.readNat (reqsData j.reqs) src n
    let s1 := if s.isLocal src && decide (localOf src < winPrivate) then
        s.touchPages j.ctx false (n / 4096 + 2) (localOf src) n else s
    let marks := if s.isLocal src then s.marksAs j.who (acpSpans s j.ctx src n false)
      else marksIn (reqsMarks j.reqs) src n
    if s.isLocal dst then
      let l := acpSpans s1 j.ctx dst n true
      let s2 := if localOf dst < winPrivate then
          s1.touchPages j.ctx true (n / 4096 + 2) (localOf dst) n else s1
      let s3 := (s2.writeAs j.who l v).putMarks j.who marks l
      let s4 := if s.isLocal src then s3.blur (overlaps l (acpSpans s3 j.ctx src n false)) else s3
      s4.endAcp j token dst src n none
    else
      let r := s1.sendEng j.who j.ctx scope
        (farWriteReqs [{ addr := dst, size := n, value := v, red := false, marks := marks }])
      r.2.toWriting j.id r.1 []

/-- Ends a BPF (R142): no value changes but that the walks of the range set A (R330); unmapped and window parts are
skipped. -/
def State.endBpf (s : State) (j : Job) (t : Target) (addr : Option Nat) (n : Nat) : State :=
  let s0 := s.dropJob j.id
  let s1 := match addr with
    | some a => if s.isLocal a then s0.touchPages j.ctx false (n / 4096 + 2) (localOf a) n else s0
    | none => s0
  let tok := match t with | .token t => t | .barrier _ => 0
  let s2 := match t with
    | .token t => s1.lowerToken j.who t
    | .barrier off =>
      match s1.engineArrive j.who off with
      | some s2 => s2
      | none => s1.hold j.who { token := none, send := false, release := false, trap := arrivalTrap off }
  match s2.findGroup j.who with
  | none => s2
  | some g => s2.emitFor g 3 (0x86 + tok * 2 ^ 8 + n * 2 ^ 32)

/-! ### The pod (R197) -/

/-- The array clk of another device's child count in this device's totals; its group's records are its own device's. -/
def State.chargeFor (s : State) (j : Job) : State :=
  (s.jobOps j isArray).foldl (fun s x =>
    s.account x.1 (splitSums (arraySplit j.id x.2 (s.arrayOpen x.1)) ++ [0])) s

/-- Runs a tile child for another device and reports to it. -/
def State.runFor (s : State) (j : Job) (m : Msg) : State :=
  match m.tile with
  | none => s.dropJob j.id
  | some op =>
    let key := m.who.launch + 2 ^ 32 * (m.src + 1)
    let answer (t : Option TileReport) (gfl : Bool) : Msg := { (default : Msg) with
      type := 0x0F, dst := m.src, src := s.devloc.toNat, ctx := m.ctx, who := m.who, kind := 1,
      rtag := m.rtag, trap := t.map TileReport.trap, count := (t.map TileReport.level).getD 0,
      operand := if gfl then 1 else 0 }
    let reply (s : State) (t : Option TileReport) (gfl : Bool) : State :=
      { s with fab := { s.fab with out := s.fab.out ++ [answer t gfl] } }
    match reqsFault j.reqs j.writing with
    | some r => (reply s (some { level := 0, index := 0, rorg := 0, corg := 0, trap := r.trap }) false).dropJob j.id
    | none =>
      if j.writing then (reply s none (j.data != [])).dropJob j.id
      else
        match TRun.instr key 3 0 (.stage 0 key) (TRun.start s j) op with
        | .error (lvl, t) =>
          let report : TileReport := { level := lvl, index := 0, rorg := 0, corg := 0, trap := t }
          if s.awayFault j.ctx t then
            s.waitPage j t (.engineOperationComplete j.id) none (answer (some report) false)
          else (reply (s.chargeFor j) (some report) false).dropJob j.id
        | .ok x =>
          let s1 := x.s.chargeFor j
          if x.out.isEmpty then (reply s1 none x.gfl).dropJob j.id
          else
            let r := s1.sendEng j.who j.ctx op.scope (farWriteReqs x.out)
            r.2.toWriting j.id r.1 (if x.gfl then [(0, 1)] else [])

/-! ### When work is due -/

/-- Whether a block is being flushed: its engine operations complete first (R356). -/
def State.flushing (s : State) (who : GRef) : Bool :=
  s.launches.any fun l => l.id == who.launch && l.runs.any fun r => r.index == who.block && r.preempt == .flush

/-- R204: whether the executors that a child of a level reaches, of its own device, have no other operation of its
launch in progress. -/
def State.execClear (s : State) (who : GRef) (n level exec : Nat) : Bool :=
  let key := keyOf who
  let die (d : Nat) : List Nat := (1000 + d) :: s.executors key d 2
  let reached := match level with
    | 2 => [exec]
    | 3 => die exec
    | 4 => 2000 :: (s.executors key 0 3).flatMap die
    | _ => []
  reached.all fun k => match (SMap.get [] s.execQ k).head? with
    | none => true
    | some x => x == (who, n) || x.1.launch != who.launch

/-- Whether a job's next event may take place: its requests are answered, its time has passed, its engine or sequencer
has come to it (R204, R318), and an array command has the lease and no earlier command of its state before it (R206,
R207). -/
def State.jobReady (s : State) (j : Job) : Bool :=
  (j.reqs.all fun q => q.answer.isSome) && decide (j.start + Config.engineNs j.id ≤ s.gtime) && s.engineTurn j &&
  !(s.pageWaits.any fun x => x.job == some j.id) &&
  (match j.kind with
    | .tile n _ level exec _ => s.execClear j.who n level exec && (level != 1 ||
      (match s.coreOf j.who with
        | some c => (SMap.get [] s.execQ c).head? == some (j.who, n) | none => false))
    | .reserve _ => false
    | _ => true) &&
  (j.writing || !j.isArray ||
    (!(s.jobs.any fun x => x.id < j.id && x.who == j.who && x.isArray) &&
     (match s.findGroup j.who with
      | some g => (s.leaseOf g.p.core).holder == some j.who && (!g.frozen || s.flushing j.who)
      | none => false)))

/-- The event that ends a job. -/
def Job.event (j : Job) : Instr :=
  match j.kind with
  | .tile n index level _ _ =>
    if level = 0 then .engineOperationComplete j.id else .tileChildComplete j.who n index
  | _ => .engineOperationComplete j.id

/-! ### The meanings -/

def execEngineOperationComplete (id : Nat) (s : State) : Out :=
  .next (match s.jobs.find? fun j => j.id == id with
    | none => s
    | some j => match j.kind with
      | .acp token dst src n scope => s.runAcp j token dst src n scope
      | .bpf t a n => s.endBpf j t a n
      | .tile n index level exec op => s.runTile j n index level exec op
      | .tileFor m => s.runFor j m
      | .reserve _ => s)

/-- The job of a record's child. -/
def State.kidJob (s : State) (who : GRef) (n child : Nat) : Option Job :=
  s.jobs.find? fun j => j.who == who && (match j.kind with | .tile m i _ _ _ => m == n && i == child | _ => false)

def execTileChildComplete (who : GRef) (n child : Nat) (s : State) : Out :=
  .next (match s.kidJob who n child with
    | none => s
    | some j => match j.kind with
      | .tile _ _ level exec op => s.runTile j n child level exec op
      | _ => s)

def execTileChildFault (who : GRef) (n child : Nat) (rep : TileReport) (s : State) : Out :=
  .next (match s.kidJob who n child with
    | none => s
    | some j => s.kidFault who n j.id { rep with index := child })

def execLeaseTenureEnd (core : Nat) (s : State) : Out :=
  .next (if s.leaseDue (s.leaseOf core) then s.passLease core true else s)

/-- The answer of a remote check, for the first check of the group that waits for one (R141). -/
def answerFirst (a : Answer) : List ReqOut → List ReqOut
  | [] => []
  | q :: qs => if q.answer.isNone then { q with answer := some a } :: qs else q :: answerFirst a qs

def execRemoteCheckReturn (who : GRef) (answer : Option Trap) (s : State) : Out :=
  let a : Answer := match answer with | none => .values [] | some t => .fault t []
  .next (s.updGroup who fun g =>
    match g.pend with
    | .remote true reqs d => { g with pend := .remote true (answerFirst a reqs) d }
    | .tile t reqs m => { g with pend := .tile t (answerFirst a reqs) m }
    | _ => g)

end Sys2Proof.Machine
end

