-- ==== Sys2Proof/Machine/Copy.lean ====
section
/-! DEFINITION. ACP and BPF (R141, R142). -/

namespace Sys2Proof.Machine

/-- One range of an ACP: an access of `c` bytes aligned to the unit. -/
def acpAcc (s : State) (lane : Nat) (loc : BitVec 15) (base : BitVec 64) (extra : Int) (c u : Nat)
    (write : Bool) (cls : Nat) : Acc :=
  { mkAcc s lane loc base extra c (!write) write cls with
    align := u, win := .noPrivate, thread := false, eats := false }

/-- The faults of an ACP in the order of R141: of one cause, the destination before the source, wherever they lie. `far`
gives the fault of a range that another device answered. A count that is no multiple of the unit and the faults of PROT
0x09 name the destination (DESIGN CHOICE, log entry 58). -/
def State.acpFaultsWith (s : State) (far : Acc → Option Ranked) (dst src : Acc) (c u : Nat) : List Ranked :=
  let da := dst.addr.getD 0
  let sa := src.addr.getD 0
  let of (a : Acc) : List Ranked := match s.check a with
    | .error r => [r]
    | .ok (.away _) => (far a).toList
    | .ok (.here _) => []
  let own := match dst.addr, src.addr, s.findBlock s.g.p.id.launch s.g.p.id.block with
    | some _, some _, some b =>
      let gr := acpGranules s da sa c
      let f (g : Nat) (a : Acc) : Ranked :=
        a.err 7 .owner (max (a.addr.getD 0)
          (a.addr.getD 0 - localOf (a.addr.getD 0) + winScratch + 4096 * g)) 0
      (match gr.2.find? fun g => b.ownerOf g != .t with | some g => [f g dst] | none => []) ++
      (match gr.1.find? fun g => b.ownerOf g == .e with | some g => [f g src] | none => [])
    | _, _, _ => []
  let sameDev := (s.isLocal da && s.isLocal sa) || locOf da == locOf sa
  let lap := sameDev && decide (localOf da < localOf sa + c) && decide (localOf sa < localOf da + c)
  let gr := acpGranules s da sa c
  let share := gr.1.any fun g => gr.2.contains g
  let size := if c % u ≠ 0 then [dst.err 5 .align da 0 (!s.isLocal da)] else []
  let struct_ := if 2 ^ 30 < c ∨ lap ∨ share then [dst.err 11 .prot da 9 (!s.isLocal da)] else []
  size ++ of dst ++ of src ++ own ++ struct_

/-- The faults of an ACP that need no other device. -/
def State.acpFaults (s : State) (dst src : Acc) (c u : Nat) : List Ranked :=
  s.acpFaultsWith (fun _ => none) dst src c u

def execAcp (f : FM) (w : W1) (s : State) : Out :=
  .next (s.issue f.g 16 [f.d.toNat, f.a.toNat, f.x.toNat] fun act rd s =>
    let lane := lowest act
    let u := szBytes f.sz
    let c := (rd f.x.toNat).toNat
    let tok := w.e2.toNat % 16
    let dst := acpAcc s lane (s.g.r.getN w.e1.toNat) (rd f.d.toNat) 0 c u true f.c.toNat
    let src := acpAcc s lane (s.g.r.getN f.n.toNat) (rd f.a.toNat) w.imm.toInt c u false f.c.toNat
    let local_ := s.acpFaults dst src c u
    let far := [dst, src].filter fun a => match a.addr with | some x => !s.isLocal x | none => false
    let da := dst.addr.getD 0
    let sa := src.addr.getD 0
    let go (s : State) : Eff :=
      let gr := acpGranules s da sa c
      let full := match s.findBlock s.g.p.id.launch s.g.p.id.block with
        | some b => b.full gr.1 | none => false
      let kind : JobKind := .acp tok da sa c w.scope.toNat
      if 15 ≤ s.g.r.getTok tok then .error (.wait .token)
      else if s.engineFull s.g.p.core kind || full then .error (.wait .memory)
      else
        let s1 := (s.updBlock s.g.p.id.launch s.g.p.id.block fun b => b.take gr.1 gr.2).mapR fun r =>
          r.setTok tok (r.getTok tok + 1)
        let s2 := s1.emit 2 (0x85 + tok * 2 ^ 8 + c * 2 ^ 32)
        .ok (s2.startJob s.g.p.id s.g.p.ctx w.scope.toNat kind (s.farReqs [src] false false))
    match s.g.pend with
    | .remote true reqs _ =>
      if reqs.any fun q => q.answer.isNone then .error (.wait .memory)
      else
        match firstWorst (s.acpFaultsWith (checkFault reqs) dst src c u) with
        | some r => .error (.trap r.trap)
        | none => go s
    | _ =>
      if far.isEmpty || c == 0 then
        match firstWorst local_ with
        | some r => .error (.trap r.trap)
        | none => go s
      else
        let r := s.sendEng s.g.p.id s.g.p.ctx w.scope.toNat (s.farReqs far false true)
        .error (.hold { r.2 with g := { r.2.g with pend := .remote true r.1 [] } } .memory))

/-- R142: the work of a BPF: the range's first 2^30 bytes. -/
def bpfKind (s : State) (f : FM) (w : W1) (rd : Nat → BitVec 64) (t : Target) : JobKind :=
  .bpf t (joinAddr (s.g.r.getN f.n.toNat) (rd f.a.toNat) w.imm.toInt).1 (min (rd f.x.toNat).toNat (2 ^ 30))

def execBpf (f : FM) (w : W1) (s : State) : Out :=
  let bar := w.e2.getLsbD 11
  .next (s.issue f.g 16 ([f.a.toNat, f.x.toNat] ++ (if bar then [w.e1.toNat] else [])) fun act rd s =>
    let lane := lowest act
    let start (t : Target) (s : State) : Eff :=
      let kind := bpfKind s f w rd t
      if s.engineFull s.g.p.core kind then .error (.wait .memory)
      else
        let tok := match t with | .token k => k | .barrier _ => 0
        let s1 := s.emit 2 (0x86 + tok * 2 ^ 8 + min (rd f.x.toNat).toNat (2 ^ 30) * 2 ^ 32)
        .ok (s1.startJob s.g.p.id s.g.p.ctx 0 kind [])
    if bar then
      -- the arrival is the engine's: no watchpoint matches it (R386)
      let a : Acc := { mkAcc s lane 0 (rd w.e1.toNat) 0 16 true true 0 with win := .scratchOnly }
      match s.check a.early with
      | .error r => .error (.trap r.trap)
      | .ok (.here (p :: _)) => start (.barrier p.at_) s
      | .ok _ => .error (.trap (a.err 6 .prot (a.addr.getD 0) 5).trap)
    else
      let tok := w.e2.toNat % 16
      if 15 ≤ s.g.r.getTok tok then .error (.wait .token)
      else start (.token tok) (s.mapR fun r => r.setTok tok (r.getTok tok + 1)))

end Sys2Proof.Machine
end

