-- ==== Sys2Proof/Machine/Exit.lean ====
section
/-! DEFINITION. EXIT and the ends of groups and blocks (R10, R162). -/

namespace Sys2Proof.Machine

def State.updLaunch (s : State) (id : Nat) (f : Launch → Launch) : State :=
  { s with launches := s.launches.map fun l => if l.id = id then f l else l }

def Launch.updRun (l : Launch) (block : Nat) (f : BlockRun → BlockRun) : Launch :=
  { l with runs := l.runs.map fun r => if r.index = block then f r else r }

/-- The ns that a block's present run has taken. -/
def BlockRun.elapsed (r : BlockRun) (now : Nat) : Nat :=
  match r.stat with
  | .running _ since => r.ran + (now - since)
  | _ => r.ran

/-- Adds a completed block to what the desks have learned of its kernel (R346, R353). -/
def learn (l : List Learned) (ctx kaddr energy time : Nat) : List Learned :=
  match l with
  | [] => [{ ctx := ctx, kaddr := kaddr, blocks := 1, energy := energy, time := time }]
  | x :: t =>
    if x.ctx = ctx ∧ x.kaddr = kaddr then
      { x with blocks := x.blocks + 1, energy := x.energy + energy, time := x.time + time } :: t
    else x :: learn t ctx kaddr energy time

/-- Bytes of a private region (R28). -/
def privSize (perLane : Nat) : Nat := (perLane + 3) / 4 * 128

/-- Releases the private regions of some groups (R10); one whose context has pages pinned waits until none is (R319,
R334). -/
def State.dropPrivate (s : State) (gs : List Group) : State :=
  gs.foldl (fun s g =>
    if s.pinned g.p.ctx then { s with unmaps := s.unmaps ++ [(g.p.ctx, g.u.pbase, privSize g.privBytes)] }
    else s.unmapRange g.p.ctx g.u.pbase (privSize g.privBytes)) s

/-- Notes that a core's block has left it. -/
def State.leaveCore (s : State) (launch block : Nat) : State :=
  match s.groups.find? fun g => g.p.id.launch == launch && g.p.id.block == block with
  | none => s
  | some g => { s with cores := SMap.set default s.cores g.p.core
                        { SMap.get default s.cores g.p.core with idleSince := s.gtime } }

/-- Removes a block's groups and its allocation from its core (R10). -/
def State.removeBlock (s : State) (launch block : Nat) : State :=
  let mine (g : Group) : Bool := g.p.id.launch == launch && g.p.id.block == block
  let s1 := s.leaveCore launch block
  State.dropPrivate { s1 with
    blocks := s1.blocks.filter fun b => !(b.launch == launch && b.block == block)
    others := s1.others.filter fun g => !mine g
    g := if mine s1.g then { s1.g with present := false } else s1.g } (s1.groups.filter mine)

/-- The log of a block that ends is kept for a replay (R396). -/
def State.keepLog (s : State) (launch block : Nat) : State :=
  match s.launches.find? fun l => l.id == launch, (s.findBlock launch block).bind Block.log with
  | some l, some log =>
    if log.replay then s
    else { s with oldLogs := (s.oldLogs.filter fun o => !(o.l.id == launch && o.block == block)) ++
             [{ l := l, block := block, log := log }] }
  | _, _ => s

/-- Whether a block replays its log: a run that its desk learns nothing from (R396). -/
def State.replays (s : State) (launch block : Nat) : Bool :=
  match (s.findBlock launch block).bind Block.log with | some log => log.replay | none => false

/-- R10: a block whose groups have all ended ends; the launch completes with its last block (R343). -/
def State.endBlock (s : State) (launch block : Nat) : State :=
  let mine := s.groups.filter fun g => g.p.id.launch == launch && g.p.id.block == block
  if !(mine.all fun g => g.ended) then s
  else
    let s1 := (s.keepLog launch block).removeBlock launch block
    match s.launches.find? fun l => l.id == launch with
    | none => s1
    | some l =>
      let run := (l.runs.find? fun r => r.index == block).getD default
      let energy := run.energy + Config.energyOfRun s.free
      let s2 := { s1 with free := s.free + 1,
                          learned := if s.replays launch block then s1.learned
                            else learn s1.learned l.ctx l.kaddr energy (run.elapsed s.gtime) }
      let s3 := s2.updLaunch launch fun l => { l.updRun block fun r =>
        { r with stat := .ended, preempt := .none, energy := energy } with ended := l.ended + 1 }
      if l.ended + 1 = l.count then s3.later (.launchComplete launch) else s3

/-- Marks lanes as exited at the EXIT's address (R13, R162). -/
def Regs.exitLanes (r : Regs) (ls : List Nat) (a : Nat) : Regs :=
  ls.foldl (fun r l => r.setPcv l (BitVec.ofNat 64 (2 ^ 63 + a % 2 ^ 57))) r

/-- R162 items 4 and 5: the group's bindings and lease are released, and it ends. -/
def State.endGroup (s : State) (act : List Nat) : State :=
  let who := s.g.p.id
  let s1 := s.releaseLease s.g.p.core who
  let s2 := { s1 with g := { s1.g with
    r := s1.g.r.exitLanes act s.pc, ended := true, stall := .exited, pend := .idle, kept := none, qbind := [],
    arr := ArraySt.new, lastExit := s.pc } }
  s2.endBlock who.launch who.block

/-- Whether the group still waits at its last EXIT (R162 item 1). -/
def State.undrained (s : State) : Bool :=
  ((List.range 16).any fun t => decide (0 < s.g.busy t)) ||
  (s.g.recs.any fun x => x.2.state == 1) ||
  (s.jobs.any fun j => j.who == s.g.p.id && (match j.kind with | .bpf (.barrier _) _ _ => true | _ => false)) ||
  !s.g.sends.isEmpty

def execExit (f : FR) (s : State) : Out :=
  .next (
    let act := s.g.r.active f.g
    if act.isEmpty then State.complete s s [] 8
    else if !(s.g.r.live.all fun l => act.contains l) then
      let s1 := State.complete s s [] 8
      s1.mapR fun r => r.exitLanes act s.pc
    else if s.undrained then s.stopWith (.wait .token)
    else
      match firstHeld s.g.held fun h => h.token.isSome with
      | some h => s.stopWith (s.raiseHeld h)
      | none =>
        match s.g.held with
        | h :: _ => s.stopWith (s.raiseHeld h)
        | [] => s.endGroup act)

end Sys2Proof.Machine
end

