-- ==== Sys2Proof/Machine/LaneOps.lean ====
section
/-! DEFINITION. The lane operations (R121 to R127). They read their source vectors in all 32 lanes. -/

namespace Sys2Proof.Machine
open Sys2Proof.Num

/-- R122. -/
def vpermE (f : FR) : RegEff :=
  let t := f.ty.toNat
  perLane t f.d.toNat fun r l => r.elem t f.a.toNat ((r.getV f.b.toNat l).toNat % 32)

/-- R123: the source index of a lane, when it lies in the group. -/
def shflIndex (minor l b : Nat) : Nat :=
  match minor with
  | 0 => if b ≤ l then l - b else l
  | 1 => if l + b ≤ 31 then l + b else l
  | _ => if Nat.xor l b ≤ 31 then Nat.xor l b else l

def vshflE (f : FR) : RegEff := fun act rd r =>
  let t := f.ty.toNat
  r.setElems t f.d.toNat (act.map fun l =>
    (l, r.elem t f.a.toNat (shflIndex f.min.toNat l (rd f.b.toNat).toNat)))

/-- R124: the reduction of the codes of some lanes. -/
def reduceCodes (t minor : Nat) (l : List Nat) : Nat :=
  let n := tyBits t
  let pick (big : Bool) (l : List Nat) : Nat :=
    match l with
    | [] => 0
    | [c] => if isNan (fVal t c) then fCode t .nan else c
    | c :: cs => cs.foldl (fPick t big false) c
  if t ≤ 7 then
    match minor with
    | 0 => codeOf (l.foldl (fun acc c => acc + intVal t c) 0) n
    | 1 => match l with | [] => 0 | c :: cs => cs.foldl (aluCode .min t) c
    | 2 => match l with | [] => 0 | c :: cs => cs.foldl (aluCode .max t) c
    | 3 => l.foldl (· &&& ·) (2 ^ n - 1)
    | 4 => l.foldl (· ||| ·) 0
    | _ => l.foldl (· ^^^ ·) 0
  else
    match minor with
    | 0 => fCode t (Num.sum (l.map (fVal t)))
    | 1 => pick false l
    | _ => pick true l

def vredE (f : FR) : RegEff := fun act _ r =>
  let t := f.ty.toNat
  let v := reduceCodes t f.min.toNat (act.map fun l => r.elem t f.a.toNat l)
  r.setElems t f.d.toNat (act.map fun l => (l, v))

/-- R125. -/
def vscanE (f : FR) : RegEff := fun act _ r =>
  let t := f.ty.toNat
  r.setElems t f.d.toNat (act.map fun l =>
    (l, reduceCodes t f.min.toNat ((act.filter (· ≤ l)).map fun j => r.elem t f.a.toNat j)))

/-- R126. -/
def vvoteE (f : FR) : RegEff := fun act _ r =>
  let m := BitVec.ofNat 32 (maskOf act)
  let km := r.getK f.a.toNat &&& m
  let v : BitVec 64 := match f.min.toNat with
    | 0 => km.setWidth 64
    | 1 => if km = 0 then 0 else 1
    | 2 => if km = m then 1 else 0
    | _ => match act with
      | [] => 0
      | l :: ls =>
        if ls.all fun j => r.getV f.a.toNat j == r.getV f.a.toNat l then 1 else 0
  r.setS f.d.toNat v

/-- R127. -/
def vpartE (f : FR) : RegEff := fun act _ r =>
  let k := r.getK (f.min.toNat % 8)
  let p := act.filter fun l => k.getLsbD l
  let q := act.filter fun l => !k.getLsbD l
  let vals := (p ++ q).map fun l => r.getV f.a.toNat l
  let r1 := (vals.zipIdx).foldl (fun r x => r.setV f.d.toNat x.2 x.1) r
  r1.setS f.b.toNat (BitVec.ofNat 64 p.length)

def execVperm (f : FR) (s : State) : Out := .next (s.vec f.g [] (vpermE f))
def execVshfl (f : FR) (s : State) : Out := .next (s.vec f.g [f.b.toNat] (vshflE f))
def execVred (f : FR) (s : State) : Out := .next (s.vec f.g [] (vredE f))
def execVscan (f : FR) (s : State) : Out := .next (s.vec f.g [] (vscanE f))
def execVvote (f : FR) (s : State) : Out := .next (s.vecPlain f.g [] (vvoteE f))
def execVpart (f : FR) (s : State) : Out := .next (s.vecPlain f.g [] (vpartE f))

end Sys2Proof.Machine
end

