-- ==== Sys2Proof/Machine/Pair.lean ====
section
/-! DEFINITION. The pair word (R75): one scalar and one vector operation that read their sources as
they stood before the pair. -/

namespace Sys2Proof.Machine

/-- The s sources and the effect of a word that may be a pair's vector half (majors 0x18 to 0x4F). -/
def vecHalf : Instr → Option (List Nat × RegEff)
  | .vadd f => some ([], vaddE f) | .vsub f => some ([], vsubE f) | .vmul f => some ([], vmulE f)
  | .vmulh f => some ([], vmulhE f) | .vmad f => some ([], vmadE f) | .vmin f => some ([], vminE f)
  | .vmax f => some ([], vmaxE f) | .vabs f => some ([], vabsE f) | .vand f => some ([], vandE f)
  | .vor f => some ([], vorE f) | .vxor f => some ([], vxorE f) | .vnot f => some ([], vnotE f)
  | .vshl f => some ([], vshlE f) | .vshr f => some ([], vshrE f) | .vsar f => some ([], vsarE f)
  | .vbfx f => some ([], vbfxE f) | .vbfi f => some ([], vbfiE f) | .vclz f => some ([], vclzE f)
  | .vpopc f => some ([], vpopcE f) | .vcmp f => some ([], vcmpE f) | .vsel f => some ([], vselE f)
  | .vmov f => some ([], vmovE f) | .vbcast f => some ([f.a.toNat], vbcastE f)
  | .viota f => some ([f.a.toNat, f.b.toNat], viotaE f) | .vdot4 f => some ([], vdot4E f)
  | .kop f => some ([], kopE f) | .kmovTos f => some ([], kmovTosE f)
  | .kmovFroms f => some ([f.a.toNat], kmovFromsE f) | .vfadd f => some ([], vfaddE f)
  | .vfsub f => some ([], vfsubE f) | .vfmul f => some ([], vfmulE f)
  | .vfma f => some ([], vfmaE f) | .vfmin f => some ([], vfminE f) | .vfmax f => some ([], vfmaxE f)
  | .vfcmp f => some ([], vfcmpE f) | .vfdiv f => some ([], vfdivE f)
  | .vfsqrt f => some ([], vfsqrtE f) | .vrcp f => some ([], vrcpE f) | .vrsq f => some ([], vrsqE f)
  | .vexp2 f => some ([], vexp2E f) | .vlog2 f => some ([], vlog2E f) | .vsin f => some ([], vsinE f)
  | .vcos f => some ([], vcosE f) | .vtanh f => some ([], vtanhE f)
  | .vround f => some ([], vroundE f)
  | .vcvt f => some (if f.ty == 14#4 || f.min.toNat / 16 == 14 then [f.b.toNat] else [], vcvtE f)
  | .vpack f => some ([], vpackE f) | .vunpack f => some ([], vunpackE f)
  | .vscale f => some ([], vscaleE f) | .vperm f => some ([], vpermE f)
  | .vshfl f => some ([f.b.toNat], vshflE f) | .vred f => some ([], vredE f)
  | .vscan f => some ([], vscanE f) | .vvote f => some ([], vvoteE f)
  | .vpart f => some ([], vpartE f)
  | _ => none

/-- The value of the scalar half (R75): SOP names the major, with MIN = 0. -/
def pairScalar (p : PairHead) (a b : BitVec 64) : BitVec 64 :=
  let op : Alu := match p.sop.toNat with
    | 0 => .add | 1 => .sub | 2 => .mul | 3 => .mulh | 4 => .div | 5 => .rem | 6 => .and | 7 => .or
    | 8 => .xor | 9 => .andn | 10 => .shift .shl | 11 => .shift .shr | 12 => .shift .sar
    | 13 => .shift .rot | 14 => .min | _ => .max
  if p.sop = 0x10#8 then setS 0 p.ty a b else aluS op p.ty a b

/-- The effect of a pair: both halves read the registers before it. -/
def pairEffect (p : PairHead) (e : RegEff) : RegEff := fun act rd r =>
  let b := if p.i = 1#1 then p.b.signExtend 64 else rd p.b.toNat
  (e act rd r).setS p.d.toNat (pairScalar p (rd p.a.toNat) b)

/-- Whether lane check covers a pair's vector half (R96). -/
def halfChecked : Instr → Bool
  | .kmovTos _ => false
  | .vvote _ => false
  | .vpart _ => false
  | _ => true

/-- R75, R94: the fault of a pair's vector half when the scalar half reads an unbound queue register: it is the one
reported. A vector half that waits for a queue register faults, if at all, only later. -/
def State.halfFault (s : State) (act : List Nat) (srcs : List Nat) (v : BitVec 64) (chk : Bool) : Option Stop :=
  match s.peekAll srcs with
  | .error e => some e
  | .ok _ =>
    let l := if chk then s.laneDiffs act else []
    if !l.isEmpty then some (.trap (laneTrap l))
    else if s.g.readsBadIn (aluReads v) (crossesLanes (opOf v).toNat) act then some (.trap (plainTrap .mchk))
    else none

/-- The guard of a pair is its header's; the vector word's own guard is 0000. -/
def execPair (p : PairHead) (v : BitVec 64) (s : State) : Out :=
  match (rawDecode v 0#64).bind fun i => (vecHalf i).map fun h => (halfChecked i, h) with
  | none => .next (s.stopWith (.trap (plainTrap .illop)))
  | some (chk, srcs, e) =>
    let act := s.g.r.active p.g
    let scalar := [p.a.toNat] ++ (if p.i = 1#1 then [] else [p.b.toNat])
    match (if !act.isEmpty && s.unbound scalar then s.halfFault act srcs v chk else none) with
    | some stop => .next (s.stopWith stop)
    | none =>
      .next (s.issue p.g 16 (scalar ++ srcs)
        fun act rd s =>
          if chk then s.checked act (pairEffect p e act rd) else .ok (s.mapR (pairEffect p e act rd)))

/-- R67, R78: a word that is no instruction raises ILLOP, before its guard. -/
def execUnassignedEncoding (_w0 _w1 : BitVec 64) (s : State) : Out :=
  .next (s.stopWith (.trap (plainTrap .illop)))

end Sys2Proof.Machine
end

