-- ==== Sys2Proof/Machine/Control.lean ====
section
/-! DEFINITION. Control transfers, EXIT, loops, WAITT, YIELD and NOP (R156 to R165). -/

namespace Sys2Proof.Machine

/-! ### Targets (R157) -/

/-- CANON and ALIGN of R157: %faultva holds the target modulo 2^64, for ALIGN too, and %faultaux the reported lane
(DESIGN CHOICE, log entry 58). -/
def targetTrap (c : Cause) (t : Int) (lane : Nat) : Ranked :=
  { rank := if c = .canon then 4 else 5, lane := lane,
    trap := { cause := c, va := (t % 2 ^ 64).toNat, aux := lane } }

/-- The check of a target that an offset gives. -/
def offTarget (x : Nat) (off : BitVec 32) : Int := x + 8 * off.toInt

def checkOff (t : Int) (lane : Nat) : Option Ranked :=
  if t < 0 ∨ 2 ^ 57 - 8 < t then some (targetTrap .canon t lane) else none

/-- The check of a target that a register gives. -/
def checkReg (t : BitVec 64) (lane : Nat) : Option Ranked :=
  if 2 ^ 57 - 8 < t.toNat then
    some (targetTrap .canon t.toNat lane)
  else if t.toNat % 8 ≠ 0 then some (targetTrap .align t.toNat lane)
  else none

/-- Moves the lanes given to their targets, and every other taking-part lane to the successor. -/
def Regs.transfer (r : Regs) (l : List (Nat × Nat)) : Regs :=
  let r1 := r.advance 8
  l.foldl (fun r x => r.setPc x.1 x.2) r1

/-- A uniform transfer to an offset target (R156): every taking-part lane moves when `cond`. A target that no lane moves
to is not checked (DESIGN CHOICE, log entry 58). -/
def Regs.uniform (r : Regs) (off : BitVec 32) (cond : Bool) (act : List Nat) : Except Trap Regs :=
  let t := offTarget (r.issueAddr.getD 0) off
  if cond then
    match checkOff t (lowest act) with
    | some e => .error e.trap
    | none => .ok (r.moveTo r.taking t.toNat)
  else .ok (r.advance 8)

def execBr (f : FB) (s : State) : Out :=
  .next (s.issueJump f.g [] fun act _ r => r.uniform f.off true act)

/-- R159. -/
def execBrc (f : FB) (s : State) : Out :=
  .next (s.issueJump f.g [f.a.toNat] fun act rd r =>
    r.uniform f.off (branchCond f.min.toNat (rd f.a.toNat).toInt) act)

def execBrk (f : FB) (s : State) : Out :=
  .next (s.issueJump f.g [] fun act _ r =>
    let k := r.getK f.a.toNat
    let go := act.filter fun l => k.getLsbD l == (f.min == 0#8)
    let t := offTarget (r.issueAddr.getD 0) f.off
    match go with
    | [] => .ok (r.advance 8)
    | l :: _ =>
      match checkOff t l with
      | some e => .error e.trap
      | none => .ok (r.transfer (go.map fun l => (l, t.toNat))))

/-- The register targets of the active lanes: an s register for every lane, or a vector pair (R160). -/
def regTargets (v : Bool) (a : BitVec 12) (act : List Nat) (rd : Nat → BitVec 64) (r : Regs) :
    List (Nat × BitVec 64) :=
  act.map fun l => (l, if v then r.getV64 a.toNat l else rd a.toNat)

/-- A per-lane transfer to register targets, after `link` has written the links (R160). -/
def Regs.jump (r : Regs) (ts : List (Nat × BitVec 64)) (link : Regs → Regs) : Except Trap Regs :=
  match worst (ts.filterMap fun x => checkReg x.2 x.1) with
  | some e => .error e.trap
  | none => .ok ((link r).transfer (ts.map fun x => (x.1, x.2.toNat)))

/-- Writes the link x + 8 into a pair of the active lanes. -/
def writeLinks (d : BitVec 12) (act : List Nat) (x : Nat) (r : Regs) : Regs :=
  act.foldl (fun r l => r.setV64 d.toNat l (BitVec.ofNat 64 (x + 8))) r

def jumpSrc (min : BitVec 8) (a : BitVec 12) : List Nat := if min = 0#8 then [a.toNat] else []

def execJmpi (f : FR) (s : State) : Out :=
  .next (s.issueJump f.g (jumpSrc f.min f.a) fun act rd r =>
    r.jump (regTargets (f.min == 1#8) f.a act rd r) id)

def execCall (f : FB) (s : State) : Out :=
  .next (s.issueJump f.g [] fun act _ r =>
    let x := r.issueAddr.getD 0
    let t := offTarget x f.off
    match checkOff t (lowest act) with
    | some e => .error e.trap
    | none => .ok ((writeLinks f.a act x r).transfer (act.map fun l => (l, t.toNat))))

def execCalli (f : FR) (s : State) : Out :=
  .next (s.issueJump f.g (jumpSrc f.min f.a) fun act rd r =>
    r.jump (regTargets (f.min == 1#8) f.a act rd r)
      (writeLinks f.d act (r.issueAddr.getD 0)))

def execRet (f : FR) (s : State) : Out :=
  .next (s.issueJump f.g [] fun act rd r => r.jump (regTargets true f.a act rd r) id)

/-- R161. -/
def execLoop (f : FB) (s : State) : Out :=
  .next (s.issueJump f.g [] fun act _ r =>
    let c := r.getLc f.a.toNat
    if 1 < c.toNat then (r.setLc f.a.toNat (c - 1)).uniform f.off true act
    else .ok ((r.setLc f.a.toNat 0).advance 8))

def execLbrk (f : FB) (s : State) : Out :=
  .next (s.issueJump f.g [] fun act _ r => (r.setLc f.a.toNat 0).uniform f.off true act)

/-! ### WAITT, YIELD and NOP -/

/-- R164. -/
def execWaitt (f : FI) (s : State) : Out :=
  .next (s.issue f.g 8 [] fun _ _ s =>
    let inMask (t : Nat) : Bool := f.imm.getLsbD t
    let c := f.imm.toNat / 2 ^ 16
    match firstHeld s.g.held fun h => match h.token with | some t => inMask t | none => false with
    | some h => .error (s.raiseHeld h)
    | none =>
      match firstHeld s.g.held fun h => h.token.isNone with
      | some h => .error (s.raiseHeld h)
      | none =>
        if (List.range 16).all fun t => !inMask t || decide (s.g.r.getTok t ≤ c) then .ok s
        else .error (.wait .token))

/-- R165: the group takes no part in the next opportunity of its partition (R351). -/
def execYield (f : FR) (s : State) : Out :=
  .next (s.issue f.g 8 [] fun _ _ s => .ok { s with g := { s.g with yielded := true } })

/-- R163. -/
def execNop (f : FR) (s : State) : Out := .next (s.issue f.g 8 [] fun _ _ s => .ok s)

end Sys2Proof.Machine
end

