-- ==== Sys2Proof/Machine/System.lean ====
section
/-! DEFINITION. Special registers (R20, R166 to R168), traps and services (R173, R174), code
modification (R175, R176), receive queues (R178 to R180), marks and hints (R181, R182). -/

namespace Sys2Proof.Machine

/-! ### Special registers -/

/-- %mode (R21). -/
def Setup.mode (u : Setup) : BitVec 64 :=
  BitVec.ofNat 64 ((if u.det then 1 else 0) + (if u.lchk then 2 else 0) + (if u.xchk then 4 else 0))

/-- %tokens (R17). -/
def Regs.tokens (r : Regs) : Nat :=
  (List.range 16).foldl (fun a t => a + r.getTok t * 2 ^ (4 * t)) 0

/-- %clock: the clk count of the group's core since its power-up (R20). -/
def State.clockOf (s : State) (core : Nat) : Nat := s.clk - (SMap.get default s.cores core).clk0

/-- The scalar special registers (R20). -/
def State.special (s : State) (sel : Nat) : BitVec 64 :=
  let g := s.g
  match sel with
  | 0x01 => BitVec.ofNat 64 g.p.id.group
  | 0x02 => BitVec.ofNat 64 g.p.id.block
  | 0x03 => BitVec.ofNat 64 g.p.id.launch
  | 0x04 => BitVec.ofNat 64 g.p.ctx
  | 0x05 => BitVec.ofNat 64 g.p.core
  | 0x06 => BitVec.ofNat 64 (dieOf g.p.core)
  | 0x07 => s.devloc.setWidth 64
  | 0x10 => BitVec.ofNat 64 (s.clockOf g.p.core)
  | 0x11 => BitVec.ofNat 64 s.gtime
  | 0x24 => g.r.fmtbase.setWidth 64
  | 0x30 => g.u.mode
  | 0x40 => g.r.faultcause
  | 0x41 => g.r.faultva
  | 0x42 => g.r.faultpc
  | 0x43 => g.r.faultaux
  | 0x50 => BitVec.ofNat 64 ((s.findCtx g.p.ctx).map Ctx.capbase |>.getD 0)
  | 0x52 => BitVec.ofNat 64 g.r.tokens
  | 0x70 => BitVec.ofNat 64 g.u.pbase
  | 0x80 => g.r.xctx.setWidth 64
  | _ =>
    if 0x20 ≤ sel ∧ sel ≤ 0x23 then (g.r.getLc (sel - 0x20)).setWidth 64
    else
      match NMap.get g.qbind (sel - 0x60) with
      | 0 => 0
      | q + 1 => BitVec.ofNat 64 (2 ^ 63 + q)

/-- R31: at U, an operation that requires S raises PRIV before its guard is evaluated. -/
def State.needS (s : State) (run : State) : State :=
  if s.g.u.super then run else s.stopWith (.trap (plainTrap .priv))

def execSrd (f : FI) (s : State) : Out :=
  let sel := f.imm.toNat
  let run :=
    if sel = 0 then
      s.issueRegs f.g [] fun act _ r => act.foldl (fun r l => r.setV f.d.toNat l (BitVec.ofNat 32 l)) r
    else if sel = 0x51 then
      s.issueRegs f.g [] fun _ _ r => lanes.foldl (fun r' l => r'.setV64 f.d.toNat l (r.getPcv l)) r
    else if sel = 0x10 ∨ sel = 0x11 then
      s.issue f.g 8 [] fun _ _ s =>
        if s.logFull then .error s.logWait
        else if s.replaying then
          .ok ((s.mapR fun r =>
            r.setS f.d.toNat (BitVec.ofNat 64 ((s.logFind 7 0).getD 0))).logSkip)
        else
          let v := s.special sel
          .ok ((s.mapR fun r => r.setS f.d.toNat v).logAll [(7, 0, v.toNat)])
    else s.issueRegs f.g [] fun _ _ r => r.setS f.d.toNat (s.special sel)
  .next (if sel = 0x80 then s.needS run else run)

/-- What SWR writes for a selector (R168, R31). -/
def Group.swr (g : Group) (sel : Nat) (v : BitVec 64) : Group :=
  if 0x20 ≤ sel ∧ sel ≤ 0x23 then { g with r := g.r.setLc (sel - 0x20) (v.setWidth 32) }
  else if sel = 0x24 then { g with r := { g.r with fmtbase := v.setWidth 32 } }
  else if sel = 0x30 then { g with u := { g.u with lchk := v.getLsbD 1 } }
  else { g with r := { g.r with xctx := v.setWidth 16 } }

def execSwr (f : FI) (s : State) : Out :=
  let sel := f.imm.toNat
  let run := s.issue f.g 8 [f.a.toNat] fun _ rd s => .ok { s with g := s.g.swr sel (rd f.a.toNat) }
  .next (if sel = 0x80 then s.needS run else run)

/-! ### Traps and services (R173, R174) -/

/-- TRAP and BKPT: the fault is taken with every taking-part lane already at the successor (R172). -/
def State.softTrap (s : State) (g : BitVec 4) (t : Trap) : State :=
  if (s.g.r.active g).isEmpty then State.complete s s [] 8
  else (State.complete s s [] 8).takeTrap t s.pc

def execTrap (f : FI) (s : State) : Out :=
  .next (s.softTrap f.g { cause := .trapi, va := 0, aux := f.imm.toNat })

/-- R174: BKPT stops the group for an attached debugger, behind the instruction; without one it raises BKPT. -/
def execBkpt (f : FI) (s : State) : Out :=
  .next (
    if s.debugged && !(s.g.r.active f.g).isEmpty then
      let s1 := State.complete s s [] 8
      { s1 with g := { s1.g with
          stall := .debug, dbg := { s1.g.dbg with stopped := true, cause := causeCode .bkpt } } }
    else s.softTrap f.g { cause := .bkpt, va := 0, aux := f.imm.toNat })

/-- Whether an address lies in the executable mappings of the group's context (R13, R173). -/
def State.canRun (s : State) (va : Nat) : Bool :=
  match s.leafOf s.g.p.ctx { fetch := true } va with
  | .ok _ => true
  | .error _ => false

/-- Whether a saved program counter lies on a page of the context that the runtime has made non-resident (R328). -/
def State.awayPc (s : State) (v : BitVec 64) : Bool :=
  match s.findCtx s.g.p.ctx with
  | some c => c.nonresident.contains (v.toNat % 2 ^ 57 / 4096) && pcvOk (fun _ => true) v
  | none => false

/-- The saved program counters of the live lanes, or the fault of reading one. -/
def State.savedPcvs (s : State) : Except Ranked (List (Nat × BitVec 64)) :=
  s.g.r.live.mapM fun l => (s.savedPcv l).map fun v => (l, v)

def execTret (f : FR) (s : State) : Out :=
  .next (
    if (s.g.r.active f.g).isEmpty then State.complete s s [] 8
    else if !s.g.inHandler then s.stopWith (.trap (plainTrap .illop))
    else
      match s.savedPcvs with
      | .error r => s.stopWith (.trap r.trap)
      | .ok l =>
        if l.all (fun x => pcvOk s.canRun x.2) && !(l.all fun x => x.2.getLsbD 63) then
          (s.touchAll (s.g.r.live.map (s.frameAcc false 8))).leaveHandler l
        else
          -- a page that the runtime has made non-resident is brought back first (R328)
          match l.find? fun x => s.awayPc x.2 with
          | some x => s.stopWith (.trap { cause := .page, va := x.2.toNat % 2 ^ 57, aux := 0 })
          | none => s.stopWith (.trap (plainTrap .illop)))

/-- A service that returns values in s8 and s9 at once. -/
def State.service (s : State) (g : BitVec 4) (f : Regs → Regs) : State :=
  s.issueRegs g [] fun _ _ r => f r

def execSvcVersion (f : FI) (s : State) : Out :=
  .next (s.service f.g fun r => r.setS 8 0x00010000)

/-- ABORT ends the process with a core dump that records s8, and never returns. -/
def execSvcAbort (f : FI) (s : State) : Out :=
  .next (
    if (s.g.r.active f.g).isEmpty then State.complete s s [] 8
    else
      let v := s.g.r.getS 8
      ((s.updCtx s.g.p.ctx fun c => { c with dumped := some v })).endProcess)

/-- R174. A request for more than 2^24 bytes per lane is refused at once (DESIGN CHOICE, log entry 58). -/
def execSvcPrivsize (f : FI) (s : State) : Out :=
  .next (s.issue f.g 8 [] fun _ _ s =>
    let want := (s.g.r.getS 8).toNat
    let done (s : State) (refused : Bool) : State :=
      s.mapR fun r => (r.setS 8 (BitVec.ofNat 64 s.g.privBytes)).setS 9 (if refused then 1 else 0)
    match s.g.pend with
    | .privsize _ (some b) => .ok (done s b)
    | .privsize _ none => .error (.wait .fault)
    | _ =>
      if want ≤ s.g.privBytes then .ok (done s false)
      else if 2 ^ 24 < want then .ok (done s true)
      else .error (.hold { s with g := { s.g with pend := .privsize want none } } .fault))

def execSvcDebugged (f : FI) (s : State) : Out :=
  .next (s.service f.g fun r => r.setS 8 (if s.debugged then 1 else 0))

def execSvcSleep (f : FI) (s : State) : Out :=
  .next (s.issue f.g 8 [] fun _ _ s =>
    match s.g.pend with
    | .sleep u passed =>
      if passed || decide (u ≤ s.gtime) then .ok (s.mapR fun r => r.setS 8 0) else .error (.wait .fault)
    | _ =>
      .error (.hold { s with g := { s.g with
        pend := .sleep (s.gtime + (s.g.r.getS 8).toNat) false } } .fault))

/-- The result of a service that the runtime does not know. -/
def unknownService (r : Regs) : Regs := (r.setS 8 (BitVec.allOnes 64)).setS 9 0

def execSvcUnknown (f : FI) (s : State) : Out := .next (s.service f.g unknownService)

/-- Helper services require S. The runtime's own helpers are not described, so each returns as an
unknown one does. -/
def execSvcHelper (f : FI) (s : State) : Out :=
  .next (s.needS (s.service f.g unknownService))

/-! ### Code modification (R175, R176) -/

/-- R175. %faultaux of CANON holds the lowest active lane (DESIGN CHOICE, log entry 58). -/
def execIcinv (f : FR) (s : State) : Out :=
  .next (s.issue f.g 8 [f.a.toNat, f.b.toNat] fun act rd s =>
    let start := (rd f.a.toNat).toNat
    if 2 ^ 57 ≤ start then
      .error (.trap { cause := .canon, va := Config.canonAddr 0 start % 2 ^ 72, aux := lowest act })
    else
      let e : Icinv := { id := s.icinvNext, who := s.g.p.id, ctx := s.g.p.ctx, start := start,
                         len := (rd f.b.toNat).toNat }
      let s1 := { s with icinvs := s.icinvs ++ [e], icinvNext := s.icinvNext + 1,
                         g := { s.g with icinvs := s.g.icinvs ++ [e.id] } }
      .ok (s1.later (.icinvComplete e.id)))

def execSynci (f : FR) (s : State) : Out :=
  .next (s.issue f.g 8 [] fun _ _ s =>
    if s.g.icinvs.isEmpty then .ok s else .error (.wait .xlate))

/-! ### Receive queues (R178 to R180) -/

def State.rxOf (s : State) (q : Nat) : RxQueue := SMap.get default s.rxq q

/-- Whether a receive queue is bound to another q register than qD of this group. -/
def State.boundElsewhere (s : State) (d q : Nat) : Bool :=
  (s.others.any fun g => (List.range 8).any fun i => NMap.get g.qbind i == q + 1) ||
  (List.range 8).any fun i => i != d && NMap.get s.g.qbind i == q + 1

def execQbind (f : FI) (s : State) : Out :=
  .next (s.issue f.g 8 [] fun _ _ s =>
    let q := f.imm.toNat
    if (s.rxOf q).ctx ≠ some s.g.p.ctx ∨ s.boundElsewhere f.d.toNat q = true then
      .error (.trap (plainTrap .qbad))
    else .ok { s with g := { s.g with qbind := NMap.set s.g.qbind f.d.toNat (q + 1) } })

def execQbindUn (f : FI) (s : State) : Out :=
  .next (s.issue f.g 8 [] fun _ _ s =>
    .ok { s with g := { s.g with qbind := NMap.set s.g.qbind f.d.toNat 0 } })

/-- Entries that a receive queue holds at most (R178). -/
def rxCap : Nat := 64

/-- The FABRIC fault of a SEND, held against its group (R180). -/
def sendTrap (o : SendOut) (remote : Bool) : Trap :=
  { cause := .fabric, va := o.pc, aux := if remote then 2 ^ 15 else 0 }

/-- Offers an outstanding SEND of a context to a queue of this device (R180, R380): accepted, refused
because full, or rejected. -/
def State.offer (s : State) (ctx q : Nat) (v : BitVec 64) : Option Bool × State :=
  let e := s.rxOf q
  if e.ctx ≠ some ctx then (none, s)
  else if rxCap ≤ e.entries.length then (some false, s)
  else (some true, { s with rxq := SMap.set default s.rxq q { e with entries := e.entries ++ [v] } })

/-- The SEND message of an outstanding SEND (R380). -/
def State.sendMsg (s : State) (g : Group) (o : SendOut) : Msg :=
  { (default : Msg) with
    type := 0x20, dst := o.loc, src := s.devloc.toNat, ctx := g.p.ctx, opc := o.queue,
    operand := o.value.toNat, who := g.p.id, count := o.index }

/-- Offers a SEND of a group: on this device at once, to another device as a message. -/
def State.trySend (s : State) (who : GRef) (o : SendOut) : State :=
  match s.findGroup who with
  | none => s
  | some g =>
    let drop (g : Group) : Group := { g with sends := g.sends.filter fun x => x.index != o.index }
    if o.loc < 2 ^ 14 ∨ o.loc = s.devloc.toNat then
      match s.offer g.p.ctx o.queue o.value with
      | (some true, s') => s'.updGroup who drop
      | (some false, s') => s'.updGroup who fun g =>
          { g with sends := g.sends.map fun x =>
              if x.index = o.index then { x with retryAt := s.gtime + 1000 } else x }
      | (none, s') => s'.updGroup who fun g =>
          { drop g with held := g.held ++ [{ token := none, send := true, release := false, trap := sendTrap o false }] }
    else { s with fab := { s.fab with out := s.fab.out ++ [s.sendMsg g o] } }

/-- R180. CANON names the location's first address, and the lowest active lane (DESIGN CHOICE, log entry 58). -/
def execSend (f : FR) (s : State) : Out :=
  .next (s.issue f.g 8 [f.a.toNat] fun act rd s =>
    let loc := (s.g.r.getN f.b.toNat).toNat
    let q := f.min.toNat
    if loc < 2 ^ 14 ∧ loc ≠ 0 then
      .error (.trap { cause := .canon, va := loc * 2 ^ 57, aux := lowest act })
    else
      match firstHeld s.g.held fun h => h.send with
      | some h => .error (s.raiseHeld h)
      | none =>
        let here := decide (loc < 2 ^ 14 ∨ loc = s.devloc.toNat)
        let same (x : SendOut) : Bool :=
          x.queue == q && (x.loc == loc || (here && (x.loc < 2 ^ 14 || x.loc == s.devloc.toNat)))
        if s.g.sends.any same then .error (.wait .queue)
        else
          let o : SendOut := {
            index := s.g.sendSeq, loc := loc, queue := q, value := rd f.a.toNat, pc := s.pc,
            retryAt := 0, deadline := s.gtime + 200000 }
          let s1 := { s with g := { s.g with sends := s.g.sends ++ [o], sendSeq := o.index + 1 } }
          .ok (s1.trySend s.g.p.id o))

/-! ### Marks and hints (R181, R182) -/

def execPmark (f : FI) (s : State) : Out :=
  .next (s.issue f.g 8 [f.a.toNat] fun _ rd s =>
    .ok (s.emit 0x09 (f.imm.toNat + (rd f.a.toNat).toNat * 2 ^ 64)))

/-- R79: a hint advances every taking-part lane by 8, whatever its fields and guard. -/
def State.hint (s : State) : State := State.complete s s [] 8

def execHpf (_body : BitVec 56) (s : State) : Out := .next s.hint
def execHbr (_body : BitVec 56) (s : State) : Out := .next s.hint
def execHhot (_op : BitVec 8) (_body : BitVec 56) (s : State) : Out := .next s.hint

end Sys2Proof.Machine
end

