-- ==== Sys2Proof/Machine/Tile.lean ====
section
/-! DEFINITION. The tile forms (R189 to R218): issue with its checks, the format table, the lease, and the
operation records. -/

namespace Sys2Proof.Machine

/-! ### Formats (R209 to R217, R57) -/

def fmtMoving : List Nat := [0, 1, 2, 3, 4, 5, 8, 9, 10, 12, 13]
def fmtMatrix : List Nat := [8, 9, 12, 13]
def fmtScan : List Nat := [8, 9, 10]
def fmtReadout : List Nat := [0, 1, 2, 4, 8, 9, 10, 12, 13]

/-- The formats that a form accepts for a role, and whether it accepts CW and SCALED there. DESIGN CHOICE (log entry
60): SCALED is accepted by TLD, WBLD, TMMA and TZERO, whose rules read it, and by no other form (R194 reason 0x01). -/
def accepts (opc role : Nat) : List Nat × Bool × Bool :=
  match opc, role with
  | 0xA0, _ => (fmtMoving, false, true)
  | 0xA3, _ => (fmtMatrix, true, true)
  | 0xA4, 0 => (fmtMatrix, false, true)
  | 0xA4, _ => (fmtMatrix, true, true)
  | 0xA5, 2 => (fmtReadout, false, false)
  | 0xA5, _ => (fmtScan, false, false)
  | 0xA6, _ => (List.range 16, true, true)
  | 0xA7, _ => (fmtReadout, false, false)
  | 0xA9, 0 => ([14, 30], false, false)
  | _, _ => (fmtMoving, false, false)

/-- The format-table entry that FT names now (R58). DESIGN CHOICE (log entry 60): %fmtbase counts as unsigned in the
exact difference, as R14 says of %lc. -/
def Group.ftEntry (g : Group) : Option FmtEntry :=
  if g.fmt.isEmpty then none
  else
    let d : Int := (g.r.getLc g.fmtN).toNat - (g.r.fmtbase.toNat : Int)
    g.fmt[(d % g.fmt.length).toNat]?

/-- Whether a form accepts FT in its descriptors (R209, R210, R212, R213, R215). -/
def takesFt (opc : Nat) : Bool := opc == 0xA3 || opc == 0xA4 || opc == 0xA7

/-- R58: resolves FT in a descriptor of a role; `none` is TILE 0x07. -/
def resolveFt (e : Option FmtEntry) (opc role : Nat) (d : TDesc) : Option TDesc :=
  if d.fmt ≠ 15 ∨ opc = 0xA6 ∨ opc = 0xA0 ∨ opc = 0xA1 then some d
  else
    match (if takesFt opc then e else none) with
    | none => none
    | some e =>
      match opc, role with
      | 0xA7, _ => some { d with fmt := e.outf, anchor := e.anchor }
      | 0xA4, 0 => some { d with fmt := e.af, anchor := e.anchor, scaled := e.scale % 2 == 1 }
      | _, _ => some { d with fmt := e.bf, anchor := e.anchor, scaled := decide (2 ≤ e.scale) }

/-- TRED .w128 works on words of 16 bytes (R216). -/
def widenDest (opc min : Nat) (d : TDesc) : TDesc :=
  if opc = 0xA9 ∧ min.testBit 2 ∧ d.fmt = 14 then { d with fmt := 30 } else d

/-! ### Validation (R184 to R186, R194, R198) -/

def reasonIf (c : Bool) (r : Nat) : List Nat := if c then [r] else []

/-- The TILE reasons that a descriptor's own fields give, as read (`raw`) and resolved. -/
def descReasons (opc min role level : Nat) (raw : TDesc) (iss : TIssue) (oneFt : Bool)
    (d : Option TDesc) : List Nat :=
  reasonIf iss.bad 0x0A ++
  match d with
  | none => [7]
  | some d =>
    let a := accepts opc role
    let d := if role = 0 then widenDest opc min d else d
    let mem := (memTiles { (default : TOp) with
      opc := opc, d := if role = 0 then some d else none, a := if role = 1 then some d else none,
      b := if role = 2 then some d else none } level)
    let b := isBside opc role
    reasonIf (oneFt && raw.fmt == 15) 7 ++
    reasonIf (!a.1.contains d.fmt || (d.cw && !(a.2.1 && (opc == 0xA6 || d.fmt == 12 || d.fmt == 13))) ||
      (d.scaled && !a.2.2)) 1 ++
    reasonIf (mem.any fun _ =>
      if d.cw then decide (d.stride < d.rows / 32 * d.pitch) else decide (d.stride < d.cols * d.e)) 2 ++
    reasonIf (opc != 0xA6 && d.scaled && (if b then d.rows else d.cols) % 32 != 0) 2 ++
    reasonIf (opc == 0xA3 && d.rows % 32 != 0) 2 ++
    reasonIf (opc == 0xA4 && role == 0 && d.cols % 32 != 0) 2 ++
    reasonIf (opc == 0xA5 && role == 2 && level == 0) 0x0C

/-- Whether the shapes of the operands agree (R211 to R217). DESIGN CHOICE (log entry 60): a TEW whose A is 0, which
R189 does not list among the fields that must be given, counts as a disagreement. -/
def shapesOk (op : TOp) : Bool :=
  let sh (d : TDesc) : Nat × Nat := (d.rows, d.cols)
  match op.opc, op.d, op.a, op.b with
  | 0xA2, some d, some a, _ => if op.min.testBit 0 then sh d == (a.cols, a.rows) else sh d == sh a
  | 0xA4, some a, some b, _ => a.cols == b.rows
  | 0xA5, some g, some o, none => sh g == sh o
  | 0xA5, some g, some o, some r => sh g == sh o && sh g == sh r
  | 0xA7, some d, _, _ => op.min % 4 != 2 || d.rows == 1
  | 0xA8, some d, _, _ => op.min % 4 != 2 || d.rows == 1
  | 0xA9, some d, some a, _ =>
    sh d == (match op.min % 4 with | 0 => sh a | 1 => (1, a.cols) | _ => (1, 1))
  | 0xAA, some d, some a, none => sh d == sh a
  | 0xAA, some d, some a, some b => sh d == sh a && sh d == sh b
  | 0xAA, _, none, _ => false
  | _, _, _, _ => true

/-- R184: whether DONE is valid for a block's allocation. -/
def doneTarget (v scratch : Nat) : Option Target :=
  if v.testBit 31 then
    let off := v % 2 ^ 20
    if v / 2 ^ 20 % 2 ^ 11 = 0 ∧ off % 16 = 0 ∧ off + 16 ≤ scratch then some (.barrier off) else none
  else if v / 16 = 0 then some (.token v) else none

/-- The launch of a group. -/
def State.launchOf (s : State) (who : GRef) : Option Launch :=
  s.launches.find? fun l => l.id == who.launch

/-- The address of plan p of the group's kernel (R198); 0 for none. -/
def State.planBytes (s : State) (p : Nat) : Nat :=
  match s.launchOf s.g.p.id with
  | none => 0
  | some l => if p = 0 then 0 else l.k.planbase + 32 * (p - 1)

/-- R198: plan p of the group's kernel as (extent, factor, kind); none when it is out of range, cannot
be read or has a reserved byte set. -/
def State.planAt (s : State) (p : Nat) : Option (List (Nat × Nat × Nat)) :=
  match s.launchOf s.g.p.id with
  | none => none
  | some l =>
    if l.k.nplan < p then none
    else
      match s.pageSpans s.g.p.ctx {} 3 (l.k.planbase + 32 * (p - 1)) 32 with
      | (_, some _) => none
      | (sp, none) =>
        let v := s.readSpans sp
        if (List.range 4).any fun i => v / 256 ^ (8 * i + 7) % 256 != 0 then none
        else some ((List.range 4).map fun i =>
          (v / 256 ^ (8 * i) % 2 ^ 32, v / 256 ^ (8 * i + 4) % 2 ^ 16, v / 256 ^ (8 * i + 6) % 256))

/-- The first byte of plan p that lies on a page which the runtime serves unseen (R328). -/
def State.planAway (s : State) (p : Nat) : Option Nat :=
  match s.launchOf s.g.p.id with
  | none => none
  | some l =>
    if p = 0 ∨ l.k.nplan < p then none
    else match s.pageSpans s.g.p.ctx {} 3 (l.k.planbase + 32 * (p - 1)) 32 with
      | (_, some (_, .page, _, va)) => if s.pageAway s.g.p.ctx (va / 4096) then some va else none
      | _ => none

/-- The lowest of the reasons of the first descriptor that has one. -/
def pickReason : List (Nat × List Nat) → Option (Nat × Nat)
  | [] => none
  | (va, rs) :: rest =>
    match leastOf rs with
    | some r => some (va, r)
    | none => pickReason rest

/-! ### Issue (R191) -/

/-- The descriptors of an instruction as read: role, descriptor and issue fields. -/
abbrev ReadDescs := List (Nat × TDesc × TIssue)

/-- The read of a descriptor at a register's value on this device. -/
def State.descAcc (s : State) (lane v : Nat) : Acc :=
  { lane := lane, addr := if v < 2 ^ 57 then some v else none,
    bad := Config.canonAddr 0 v % 2 ^ 72, size := 64, align := 64, read := true, ctx := s.g.p.ctx }

/-- Reads the descriptors at the kept addresses (R191). -/
def State.readDescs (s : State) (lane : Nat) (regs : List (Option Nat)) : Except Ranked ReadDescs :=
  let accs := regs.zipIdx.filterMap fun (r, role) => r.map fun v => (role, v, s.descAcc lane v)
  match firstWorst (accs.filterMap fun x => match s.check x.2.2 with | .error r => some r | .ok _ => none) with
  | some r => .error r
  | none => .ok (accs.filterMap fun x => match s.check x.2.2 with
      | .ok (.here l) => some (x.1, parseDesc x.2.1 (s.readSpans l))
      | _ => none)

def descOf (l : ReadDescs) (role : Nat) : Option (TDesc × TIssue) :=
  (l.find? fun x => x.1 == role).map fun x => x.2

/-- The children of an instruction, or the single one of level 0. -/
def State.kidsOf (s : State) (level : Nat) (op : TOp) : List Kid :=
  if level = 0 then [{ index := 0, spos := 0, wave := 0, clipped := false, op := op }]
  else match s.kids (keyOf s.g.p.id) (dieOf s.g.p.core) level op with
    | .ok l => l
    | .error _ => []

/-- The reasons that the images and regions of an operation's engine children give (R186): above level 1 those of the
dense weight images, which their descriptors give. -/
def State.partReasons (s : State) (level : Nat) (op : TOp) : List (Nat × Nat) :=
  let leaves := s.leafOps (keyOf s.g.p.id) level (dieOf s.g.p.core) op
  match level with
  | 0 => engineReasons op s.g.u.scratch
  | 1 => leaves.flatMap fun o => imageReasons o s.g.u.scratch
  | _ => leaves.flatMap weightReasons

/-- The operation that an instruction's descriptors make, and the reasons against it. -/
def State.buildOp (s : State) (k : TKept) (ds : ReadDescs) : TOp × Nat × List (Nat × List Nat) :=
  let level := ((descOf ds 0).map fun x => x.2.lvl).getD 0
  let e := s.g.ftEntry
  let fts := ds.filter fun x => x.2.1.fmt == 15
  let oneFt := k.opc == 0xA4 && fts.length == 1
  let res (role : Nat) : Option TDesc := (descOf ds role).bind fun x =>
    (resolveFt e k.opc role x.1).map fun d => if role = 0 then widenDest k.opc k.min d else d
  let plan := ((descOf ds 0).map fun x => x.2.plan).getD 0
  let acc := decide (0xA4 ≤ k.opc) && decide (k.opc ≤ 0xA8)
  let read := if plan = 0 then some [] else s.planAt plan
  let op : TOp := {
    opc := k.opc, min := k.min, d := res 0, a := res 1, b := res 2, exp := k.exp, scope := k.scope
    arow := if acc then k.imm / 16 % 128 else 0, acol := if acc then k.imm / 2 ^ 11 % 256 else 0
    ro := 0, co := 0, ko := 0, cons := [], plan := if level = 0 then [] else read.getD [] }
  let own := ds.map fun x => (x.2.1.addr,
    descReasons k.opc k.min x.1 level x.2.1 x.2.2 oneFt (resolveFt e k.opc x.1 x.2.1))
  let rlvl := ((s.launchOf s.g.p.id).map Launch.rlvl).getD 0
  let d0 := ((descOf ds 0).map fun x => x.1.addr).getD 0
  let clean := own.all fun x => x.2.isEmpty
  let kidReason := if !clean || level = 0 || decide (4 < level) then []
    else match s.kids (keyOf s.g.p.id) (dieOf s.g.p.core) level op with
      | .error r => [r]
      | .ok _ => []
  let cross :=
    reasonIf (decide (4 < level) || (decide (2 ≤ level) && decide (rlvl < level))) 5 ++
    (match read with | none => [6] | some p => reasonIf (!planOk k.opc p) 6) ++
    reasonIf ((doneTarget (((descOf ds 0).map fun x => x.2.done).getD 0) s.g.u.scratch).isNone) 8 ++
    reasonIf (clean && !shapesOk op) 0x0B ++ kidReason
  let parts := if clean then s.partReasons level op else []
  let named := own.map fun x => (x.1, x.2 ++ (parts.filter fun y => y.1 == x.1).map Prod.snd)
  (op, level, match named with
    | [] => [(d0, cross)]
    | (va, rs) :: rest => (va, rs ++ cross) :: rest)

/-- The granules of an image, without those outside an allocation. -/
def imageGranules (d : TDesc) : List Nat := if d.empty then [] else granules d.imageAt d.imageLen

/-- The images of an operation at level 0 or 1, with whether they are written, by descriptor in the order D, A, B
(R188, R191). -/
def State.imagesOf (s : State) (level : Nat) (op : TOp) : List (List (TDesc × Bool)) :=
  let l := if 2 ≤ level then []
    else (s.leafOps (keyOf s.g.p.id) level (dieOf s.g.p.core) op).flatMap fun o =>
      ((opImages o).1.map fun d => (d, false)) ++ (opImages o).2.map fun d => (d, true)
  [op.d, op.a, op.b].map fun d => l.filter fun x => d.any fun d => d.addr == x.1.addr

/-- R188: the granules that an operation at level 0 or 1 reads, and writes. -/
def State.tileGranules (s : State) (level : Nat) (op : TOp) : List Nat × List Nat :=
  let images := (s.imagesOf level op).flatten
  let of (w : Bool) : List Nat := ((images.filter fun x => x.2 == w).flatMap fun x => imageGranules x.1).eraseDups
  ((of false).filter fun g => !(of true).contains g, of true)

/-- OWNER of an operation's granules (R188): of the first descriptor that has one, the lowest granule (R191). -/
def State.tileOwner (s : State) (level : Nat) (op : TOp) (reads writes : List Nat) (lane : Nat) : Option Trap :=
  match s.findBlock s.g.p.id.launch s.g.p.id.block with
  | none => none
  | some b =>
    let order := (s.imagesOf level op).flatMap fun l =>
      sortBy (fun a b => decide (a ≤ b)) (l.flatMap fun x => imageGranules x.1)
    let only (g : Nat) (l : List Nat) : List Nat := if l.contains g then [g] else []
    (order.find? fun g => (b.refusal (only g reads) (only g writes)).isSome).map fun g =>
      { cause := .owner, va := winScratch + 4096 * g,
        aux := memAux 0 0 false (writes.contains g) lane }

/-- R194: a TILE fault at issue. -/
def issueTrap (level n va reason : Nat) : Trap :=
  { cause := .tile, va := va, aux := level % 8 * 2 ^ 52 + n * 2 ^ 42 + reason * 2 ^ 34 }

/-- Everything that R191 checks before the memory ranges: the operation ready to start. -/
def State.prepare (s : State) (lane n : Nat) (fresh : Bool) (k : TKept) : Except Stop TStart :=
  match s.readDescs lane k.regs with
  | .error r => .error (.trap r.trap)
  | .ok ds =>
    match s.planAway (((descOf ds 0).map fun x => x.2.plan).getD 0) with
    | some va => .error (.trap { cause := .page, va := va, aux := 0 })
    | none =>
    let (op, level, reasons) := s.buildOp k ds
    match pickReason reasons with
    | some (va, r) => .error (.trap (issueTrap level n va r))
    | none =>
      let kids := s.kidsOf level op
      let d0 := (op.d.map TDesc.addr).getD 0
      if !fresh && kids.length - 1 != (SMap.get default s.g.recs n).nch then
        .error (.trap (issueTrap level n d0 6))
      else
        let gr := s.tileGranules level op
        match s.tileOwner level op gr.1 gr.2 lane with
        | some t => .error (.trap t)
        | none =>
          .ok { rec_ := n, fresh := fresh, level := level, nch := kids.length - 1, op := op, kept := k,
                target := (doneTarget (((descOf ds 0).map fun x => x.2.done).getD 0) s.g.u.scratch).getD (.token 0),
                planAddr := s.planBytes (((descOf ds 0).map fun x => x.2.plan).getD 0)
                reads := gr.1, writes := gr.2 }

/-- R191: the record runs, the token rises, and the operation is handed over. DESIGN CHOICE (log entry 60): a fault of
the record that TRSM finds held and not yet raised stays held (R196 clears the record's own). -/
def State.startTile (s : State) (t : TStart) : State :=
  let old := SMap.get default s.g.recs t.rec_
  let r : TRec := {
    state := 1, level := t.level, nch := t.nch, bitmap := if t.fresh then [] else old.bitmap
    more := 0, gfl := if t.fresh then false else old.gfl, fault := none, kept := t.kept, op := t.op
    target := t.target, reports := [], reads := t.reads, writes := t.writes,
    at_ := s.tick }
  let regs := match t.target with
    | .token k => s.g.r.setTok k (s.g.r.getTok k + 1)
    | .barrier _ => s.g.r
  let s' := s.touchAll (t.kept.regs.filterMap fun v => v.map (s.descAcc 0))
  let s0 := if t.planAddr = 0 then s' else s'.touchPages s.g.p.ctx false 3 t.planAddr 32
  let s1 := { s0 with g := { s0.g with recs := SMap.set default s.g.recs t.rec_ r, r := regs } }
  let s2 := s1.emit 6 (t.kept.opc + t.rec_ * 2 ^ 8 + t.level * 2 ^ 12 + t.nch * 2 ^ 15)
  s2.handOver s.g.p.id s.g.p.ctx t.rec_

/-- From the memory checks on: the token and the queues have room, the owner states move, the lease is
obtained, and the operation starts. -/
def State.goTile (s : State) (t : TStart) (lane : Nat) : Eff :=
  let full := match t.target with
    | .token k => decide (15 ≤ s.g.r.getTok k)
    | .barrier _ => false
  let b := s.findBlock s.g.p.id.launch s.g.p.id.block
  match s.tileOwner t.level t.op t.reads t.writes lane with
  | some tr => .error (.trap tr)
  | none =>
    if full then .error (.wait .token)
    else if s.engineFull s.g.p.core (.tile t.rec_ 0 t.level 0 t.op) ||
        (match b with | some b => b.full t.reads | none => false) then .error (.wait .memory)
    else
      let s1 := s.updBlock s.g.p.id.launch s.g.p.id.block fun b => b.take t.reads t.writes
      if t.level ≤ 1 ∧ isArray t.kept.opc then
        let a := s1.askLease s1.g.p.core s1.g.p.id
        if a.1 then .ok (a.2.startTile t)
        else .error (.hold { a.2 with g := { a.2.g with pend := .tile t [] true } } .lease)
      else .ok (s1.startTile t)

/-- TileIssue of R191, from wherever the group stands in it. -/
def State.tileIssue (s : State) (lane n : Nat) (fresh : Bool) (k : TKept) : Eff :=
  match s.g.pend with
  | .tile t reqs moved =>
    if reqs.any fun q => q.answer.isNone then .error (.wait .memory)
    else if moved then
      let a := s.askLease s.g.p.core s.g.p.id
      if a.1 then .ok (a.2.startTile t) else .error (.hold a.2 .lease)
    else
      -- every remote check has returned: the report ranks remote ranges as local ones
      match s.rangeWith (checkFault reqs) t.op 0 s.g.p.ctx lane with
      | some r => .error (.trap r.trap)
      | none => s.goTile t lane
  | _ =>
    if (SMap.get default s.g.recs n).state = 1 then .error (.wait .token)
    else
      match s.prepare lane n fresh k with
      | .error e => .error e
      | .ok t =>
        let qs := if t.level = 0 then s.tileReqs t.op 0 s.g.p.ctx lane true else []
        if !qs.isEmpty then
          let r := s.sendEng s.g.p.id s.g.p.ctx t.op.scope qs
          .error (.hold { r.2 with g := { r.2.g with pend := .tile t r.1 false } } .memory)
        else
          match (if t.level = 0 then s.rangeFault t.op 0 s.g.p.ctx lane else none) with
          | some r => .error (.trap r.trap)
          | none => s.goTile t lane

/-- A tile form that issues an operation (R189, R191). -/
def State.tileForm (s : State) (opc : Nat) (f : FR) (w : W1) : State :=
  let field (r : BitVec 12) : List Nat := if r = 0#12 then [] else [r.toNat]
  s.issue f.g 16 (field f.d ++ field f.a ++ field f.b ++ field w.e1) fun act rd s =>
    let reg (r : BitVec 12) : Option Nat := if r = 0#12 then none else some (rd r.toNat).toNat
    s.tileIssue (lowest act) (w.imm.toNat % 16) true {
      opc := opc, min := f.min.toNat, regs := [reg f.d, reg f.a, reg f.b]
      exp := if w.e1 = 0#12 then 0 else (rd w.e1.toNat).toNat % 2 ^ 32
      scope := w.scope.toNat, imm := w.imm.toNat, pc := s.pc }

def execTld (f : FR) (w : W1) (s : State) : Out := .next (s.tileForm 0xA0 f w)
def execTst (f : FR) (w : W1) (s : State) : Out := .next (s.tileForm 0xA1 f w)
def execTcp (f : FR) (w : W1) (s : State) : Out := .next (s.tileForm 0xA2 f w)
def execWbld (f : FR) (w : W1) (s : State) : Out := .next (s.tileForm 0xA3 f w)
def execTmma (f : FR) (w : W1) (s : State) : Out := .next (s.tileForm 0xA4 f w)
def execTscan (f : FR) (w : W1) (s : State) : Out := .next (s.tileForm 0xA5 f w)
def execTzero (f : FR) (w : W1) (s : State) : Out := .next (s.tileForm 0xA6 f w)
def execTacrd (f : FR) (w : W1) (s : State) : Out := .next (s.tileForm 0xA7 f w)
def execTacwr (f : FR) (w : W1) (s : State) : Out := .next (s.tileForm 0xA8 f w)
def execTred (f : FR) (w : W1) (s : State) : Out := .next (s.tileForm 0xA9 f w)
def execTew (f : FR) (w : W1) (s : State) : Out := .next (s.tileForm 0xAA f w)

/-- TRSM (R196). -/
def execTrsm (f : FR) (w : W1) (s : State) : Out :=
  .next (s.issue f.g 16 [] fun act _ s =>
    let n := w.imm.toNat % 16
    let r := SMap.get default s.g.recs n
    match s.g.pend with
    | .tile _ _ _ => s.tileIssue (lowest act) n false r.kept
    | _ =>
      if r.state = 1 then .error (.wait .token)
      else if r.state = 3 then s.tileIssue (lowest act) n false r.kept
      else .ok s)

/-! ### The format table (R218, R57) -/

/-- An entry of the format table from its 8 bytes; none when it is invalid. -/
def fmtEntry (v : Nat) : Option FmtEntry :=
  if v / 2 ^ 14 % 2 ^ 34 = 0 ∧ fmtReadout.contains (v / 2 ^ 8 % 16) ∧
      fmtMatrix.contains (v / 2 ^ 4 % 16) ∧ fmtMatrix.contains (v % 16) then
    some { anchor := Num.signed (v / 2 ^ 48) 16, scale := v / 2 ^ 12 % 4, outf := v / 2 ^ 8 % 16,
           bf := v / 2 ^ 4 % 16, af := v % 16 }
  else none

/-- R218. DESIGN CHOICE (log entry 60): %faultva of its TILE 0x09 is the address of the first entry. -/
def execTfmt (f : FR) (w : W1) (s : State) : Out :=
  .next (s.issue f.g 16 [f.a.toNat] fun act rd s =>
    let _ := w
    let count := f.min.toNat % 32
    let lane := lowest act
    let base := (rd f.a.toNat).toNat
    let accs := (List.range count).map fun i =>
      let a := base + 8 * i
      ({ lane := lane, addr := if a < 2 ^ 57 ∧ base < 2 ^ 57 then some a else none,
         bad := Config.canonAddr 0 a % 2 ^ 72, size := 8, align := 8, read := true,
         ctx := s.g.p.ctx } : Acc)
    match s.checkAll accs with
    | .error r => .error (.trap r.trap)
    | .ok ws =>
      let vals := (herePart (accs.zip ws)).map fun x => s.readSpans x.2
      match vals.mapM fmtEntry with
      | none => .error (.trap (issueTrap 0 0 base 9))
      | some es =>
        let s1 := s.touchAll accs
        .ok { s1 with g := { s1.g with fmt := es, fmtN := f.min.toNat / 64 } })

/-! ### The lease (R207) -/

def execTlease (f : FR) (w : W1) (s : State) : Out :=
  .next (s.issue f.g 16 [] fun _ _ s =>
    let _ := w
    let a := s.askLease s.g.p.core s.g.p.id
    if a.1 then .ok a.2 else .error (.hold a.2 .lease))

def execTfree (f : FR) (w : W1) (s : State) : Out :=
  .next (s.issue f.g 16 [] fun _ _ s =>
    let _ := w
    if s.hasArrayWork s.g.p.id then .error (.wait .lease)
    else
      let s1 := s.releaseLease s.g.p.core s.g.p.id
      .ok (if f.min.getLsbD 0 then { s1 with g := { s1.g with arr := ArraySt.new } } else s1))

/-! ### TBMAP (R195) -/

/-- The status word of a record. -/
def TRec.status (r : TRec) : Nat :=
  min r.more 65535 * 2 ^ 32 + r.kept.opc % 256 * 2 ^ 13 + r.nch % 128 * 2 ^ 6 + r.level % 8 * 2 ^ 3 +
    (if r.gfl then 4 else 0) + r.state % 4

def execTbmap (f : FR) (w : W1) (s : State) : Out :=
  .next (s.issue f.g 16 [] fun _ _ s =>
    let r := SMap.get default s.g.recs (w.imm.toNat % 16)
    let v := match f.min.toNat with
      | 0 => bitmapOf r.bitmap
      | 1 => r.status
      | 2 => (r.fault.map fun x => x.trap.va % 2 ^ 64).getD 0
      | 3 => (if s.g.arr.gflush then 1 else 0) +
          (if (s.leaseOf s.g.p.core).holder = some s.g.p.id then 2 else 0)
      | _ => r.kept.pc
    .ok (s.mapR fun r => r.setS f.d.toNat (BitVec.ofNat 64 v)))

end Sys2Proof.Machine
end

