-- ==== Sys2Proof/Machine/NativeOps.lean ====
section
/-! DEFINITION. The operations that a slot of a native bundle may hold, with the meanings of their virtual
forms (R242). -/

namespace Sys2Proof.Machine

/-- The meaning of an operation that some slot accepts; none for a form that has no native form. -/
def runVirtual (i : Instr) (s : State) : Option Out :=
  match i with
  | .add f => some (execAdd f s)
  | .sub f => some (execSub f s)
  | .mul f => some (execMul f s)
  | .mulh f => some (execMulh f s)
  | .div f => some (execDiv f s)
  | .rem f => some (execRem f s)
  | .and f => some (execAnd f s)
  | .or f => some (execOr f s)
  | .xor f => some (execXor f s)
  | .andn f => some (execAndn f s)
  | .shl f => some (execShl f s)
  | .shr f => some (execShr f s)
  | .sar f => some (execSar f s)
  | .rot f => some (execRot f s)
  | .min f => some (execMin f s)
  | .max f => some (execMax f s)
  | .set f => some (execSet f s)
  | .clz f => some (execClz f s)
  | .ctz f => some (execCtz f s)
  | .popc f => some (execPopc f s)
  | .addi f => some (execAddi f s)
  | .logi f => some (execLogi f s)
  | .shi f => some (execShi f s)
  | .lih f => some (execLih f s)
  | .addpc f => some (execAddpc f s)
  | .nset f => some (execNset f s)
  | .nget f => some (execNget f s)
  | .vadd f => some (execVadd f s)
  | .vsub f => some (execVsub f s)
  | .vmul f => some (execVmul f s)
  | .vmulh f => some (execVmulh f s)
  | .vmad f => some (execVmad f s)
  | .vmin f => some (execVmin f s)
  | .vmax f => some (execVmax f s)
  | .vabs f => some (execVabs f s)
  | .vand f => some (execVand f s)
  | .vor f => some (execVor f s)
  | .vxor f => some (execVxor f s)
  | .vnot f => some (execVnot f s)
  | .vshl f => some (execVshl f s)
  | .vshr f => some (execVshr f s)
  | .vsar f => some (execVsar f s)
  | .vbfx f => some (execVbfx f s)
  | .vbfi f => some (execVbfi f s)
  | .vclz f => some (execVclz f s)
  | .vpopc f => some (execVpopc f s)
  | .vcmp f => some (execVcmp f s)
  | .vsel f => some (execVsel f s)
  | .vmov f => some (execVmov f s)
  | .vbcast f => some (execVbcast f s)
  | .viota f => some (execViota f s)
  | .vdot4 f => some (execVdot4 f s)
  | .kop f => some (execKop f s)
  | .kmovTos f => some (execKmovTos f s)
  | .kmovFroms f => some (execKmovFroms f s)
  | .vfadd f => some (execVfadd f s)
  | .vfsub f => some (execVfsub f s)
  | .vfmul f => some (execVfmul f s)
  | .vfma f => some (execVfma f s)
  | .vfmin f => some (execVfmin f s)
  | .vfmax f => some (execVfmax f s)
  | .vfcmp f => some (execVfcmp f s)
  | .vfdiv f => some (execVfdiv f s)
  | .vfsqrt f => some (execVfsqrt f s)
  | .vrcp f => some (execVrcp f s)
  | .vrsq f => some (execVrsq f s)
  | .vexp2 f => some (execVexp2 f s)
  | .vlog2 f => some (execVlog2 f s)
  | .vsin f => some (execVsin f s)
  | .vcos f => some (execVcos f s)
  | .vtanh f => some (execVtanh f s)
  | .vround f => some (execVround f s)
  | .vcvt f => some (execVcvt f s)
  | .vpack f => some (execVpack f s)
  | .vunpack f => some (execVunpack f s)
  | .vscale f => some (execVscale f s)
  | .vperm f => some (execVperm f s)
  | .vshfl f => some (execVshfl f s)
  | .vred f => some (execVred f s)
  | .vscan f => some (execVscan f s)
  | .vvote f => some (execVvote f s)
  | .vpart f => some (execVpart f s)
  | .ld f => some (execLd f s)
  | .ldi f => some (execLdi f s)
  | .st f => some (execSt f s)
  | .sti f => some (execSti f s)
  | .vld f => some (execVld f s)
  | .vldi f => some (execVldi f s)
  | .vst f => some (execVst f s)
  | .vsti f => some (execVsti f s)
  | .vldc f => some (execVldc f s)
  | .vstc f => some (execVstc f s)
  | .pld f => some (execPld f s)
  | .cwb f => some (execCwb f s)
  | .cinv f => some (execCinv f s)
  | .ldo f w => some (execLdo f w s)
  | .sto f w => some (execSto f w s)
  | .vldo f w => some (execVldo f w s)
  | .vsto f w => some (execVsto f w s)
  | .stf f w => some (execStf f w s)
  | .acp f w => some (execAcp f w s)
  | .bpf f w => some (execBpf f w s)
  | .nld f w => some (execNld f w s)
  | .nst f w => some (execNst f w s)
  | .fao f w => some (execFao f w s)
  | .faor f w => some (execFaor f w s)
  | .red f w => some (execRed f w s)
  | .cas f w => some (execCas f w s)
  | .enq f w => some (execEnq f w s)
  | .deq f w => some (execDeq f w s)
  | .waitc f w => some (execWaitc f w s)
  | .fence f w => some (execFence f w s)
  | .bari f w => some (execBari f w s)
  | .bara f w => some (execBara f w s)
  | .barw f w => some (execBarw f w s)
  | .br f => some (execBr f s)
  | .brc f => some (execBrc f s)
  | .brk f => some (execBrk f s)
  | .jmpi f => some (execJmpi f s)
  | .call f => some (execCall f s)
  | .calli f => some (execCalli f s)
  | .ret f => some (execRet f s)
  | .exit f => some (execExit f s)
  | .loop f => some (execLoop f s)
  | .lbrk f => some (execLbrk f s)
  | .waitt f => some (execWaitt f s)
  | .yield f => some (execYield f s)
  | .nop f => some (execNop f s)
  | .srd f => some (execSrd f s)
  | .swr f => some (execSwr f s)
  | .trap f => some (execTrap f s)
  | .tret f => some (execTret f s)
  | .bkpt f => some (execBkpt f s)
  | .svcVersion f => some (execSvcVersion f s)
  | .svcAbort f => some (execSvcAbort f s)
  | .svcPrivsize f => some (execSvcPrivsize f s)
  | .svcDebugged f => some (execSvcDebugged f s)
  | .svcSleep f => some (execSvcSleep f s)
  | .svcUnknown f => some (execSvcUnknown f s)
  | .svcHelper f => some (execSvcHelper f s)
  | .icinv f => some (execIcinv f s)
  | .synci f => some (execSynci f s)
  | .send f => some (execSend f s)
  | .qbind f => some (execQbind f s)
  | .qbindUn f => some (execQbindUn f s)
  | .pmark f => some (execPmark f s)
  | .tld f w => some (execTld f w s)
  | .tst f w => some (execTst f w s)
  | .tcp f w => some (execTcp f w s)
  | .wbld f w => some (execWbld f w s)
  | .tmma f w => some (execTmma f w s)
  | .tscan f w => some (execTscan f w s)
  | .tzero f w => some (execTzero f w s)
  | .tacrd f w => some (execTacrd f w s)
  | .tacwr f w => some (execTacwr f w s)
  | .tred f w => some (execTred f w s)
  | .tew f w => some (execTew f w s)
  | .tfmt f w => some (execTfmt f w s)
  | .tlease f w => some (execTlease f w s)
  | .tfree f w => some (execTfree f w s)
  | .tbmap f w => some (execTbmap f w s)
  | .trsm f w => some (execTrsm f w s)
  | _ => none

end Sys2Proof.Machine
end

