-- ==== Sys2Proof/Machine/Slice.lean ====
section
/-! DEFINITION. The home slices (R323), the shelf's timeouts and errors (R152, R407), ordered sets that time
out (R147), and the end of SVC SLEEP (R174). -/

namespace Sys2Proof.Machine

/-- R152: the compares of the WAITCs parked on a word, without a write. -/
def State.compareAt (s : State) (pa : Nat) : State :=
  let holds (e : ShelfEntry) : Bool :=
    e.pa == pa && e.who.isSome && waitHolds e.code e.size (BMap.readNat s.mem e.pa e.size) e.comparand
  (s.shelf.filter holds).foldl State.wakeOne { s with shelf := s.shelf.filter fun e => !holds e }

def execHomeSliceOperation (op : SliceOp) (s : State) : Out :=
  .next (match op with
    | .fetchOp pa size opc operand =>
      s.writeSpans (memSpan pa size) (newWord opc size (s.readSpans (memSpan pa size)) operand)
    | .compareSwap pa size cmp new =>
      if s.readSpans (memSpan pa size) = cmp then s.writeSpans (memSpan pa size) new else s
    | .flagIncrement pa => s.writeSpans (memSpan pa 8) (s.readSpans (memSpan pa 8) + 1)
    | .setAccessed pa seen dirty =>
      if Mem.read64 s.mem pa ||| 0xC0#64 = seen ||| 0xC0#64 then { s with mem := setAD s.mem pa dirty } else s
    | .compare pa => s.compareAt pa)

/-- Takes a group's shelf entry away and gives it a status of 0. -/
def State.unshelve (s : State) (who : GRef) : State :=
  ({ s with shelf := s.shelf.filter fun e => e.who != some who } : State).updGroup who fun g =>
    match g.pend with
    | .shelf none => { g with pend := .shelf (some false) }
    | _ => g

/-- Whether a group's entry has passed its timeout. -/
def State.shelfLate (s : State) (who : GRef) : Bool :=
  s.shelf.any fun e => e.who == some who &&
    (match e.deadline with | some d => decide (d ≤ s.gtime) | none => false)

def execWaitcTimeout (who : GRef) (s : State) : Out :=
  .next (if s.shelfLate who then s.unshelve who else s)

def execShelfEntryError (who : GRef) (s : State) : Out := .next (s.unshelve who)

/-- R147: every member of a set that is late raises FAORT, and members that wait try again. -/
def execFaorSetTimeout (pa : Nat) (s : State) : Out :=
  .next (match s.sets.find? fun o => o.pa == pa && decide (o.deadline ≤ s.gtime) with
    | none => s.retryJoins
    | some o =>
      let s1 := { s with sets := s.sets.filter fun x => x.pa != pa }
      (o.members.foldl (fun s m => s.faorGive m none) s1).retryJoins)

def execSvcSleepExpiry (who : GRef) (s : State) : Out :=
  .next (s.updGroup who fun g =>
    match g.pend with
    | .sleep u false => if u ≤ s.gtime then { g with pend := .sleep u true } else g
    | _ => g)

end Sys2Proof.Machine
end

