-- ==== Sys2Proof/Machine/Native.lean ====
section
/-! DEFINITION. Native bundles: fields and slots (R241 to R249), latencies (R250 to R252), and the view of the native
registers that an operation acts on. -/

namespace Sys2Proof.Machine

/-! ### Fields (R244, R245) -/

/-- A cluster's window (R243). -/
def windowOf (t : Translation) (cl : Nat) : Nat := max 1 (if cl = 0 then t.vw0 else t.vw1)

/-- The cluster of a vector field: `slot` is 0 S, 1 V0, 2 V1, 3 M. -/
def clusterOf (slot : Nat) (x : Bool) : Nat :=
  match slot with
  | 1 => if x then 1 else 0
  | 2 => if x then 0 else 1
  | _ => if x then 1 else 0

/-- A field as a register of the view: cluster 0 stands at v1024, cluster 1 at v2048, scalars at s0. A vector field
that is not 0 names a register of the view that is not v0. -/
def viewField (t : Translation) (ib : NMap) (slot : Nat) (c : NField) (f : BitVec 12) : BitVec 12 :=
  match c with
  | .other => f
  | .s => BitVec.ofNat 12 (f.toNat % 1024 % max 1 t.sw)
  | .v =>
    if slot = 0 then
      let cl := f.toNat / 512 % 2
      BitVec.ofNat 12 (1024 * (cl + 1) + f.toNat % 512 % windowOf t cl)
    else
      let cl := clusterOf slot (f.getLsbD 11)
      let i := if f.getLsbD 10 then
          (NMap.get ib (4 * cl + f.toNat / 256 % 4) + f.toNat % 256) % windowOf t cl
        else f.toNat % 1024 % windowOf t cl
      BitVec.ofNat 12 (1024 * (cl + 1) + i)

/-! ### Slots as virtual words (R242, R245, R246) -/

/-- R71: an X field of 0 is no index. -/
def viewIndex (t : Translation) (ib : NMap) (slot : Nat) (c : NField) (f : BitVec 12) : BitVec 12 :=
  if f = 0#12 then f else viewField t ib slot c f

/-- A word in layout FR with its fields as registers of the view. -/
def frWord (t : Translation) (ib : NMap) (slot : Nat) (op : BitVec 8) (f : FR) : Word64 :=
  let c := frFields op.toNat f.min.toNat f.ty.toNat
  FR.toWord op { f with
    d := viewField t ib slot c.1 f.d, a := viewField t ib slot c.2.1 f.a,
    b := viewField t ib slot c.2.2 f.b }

def fqWord (t : Translation) (ib : NMap) (slot : Nat) (op : BitVec 8) (f : FQ) : Word64 :=
  FQ.toWord op { f with
    d := viewField t ib slot .v f.d, a := viewField t ib slot .v f.a, b := viewField t ib slot .v f.b,
    c := if op = 0x2B#8 then f.c else viewField t ib slot .v f.c }

/-- Layouts of the S slot: 0 S-R, 1 S-A, 2 S-I, 3 S-B. -/
def sLayout (op lo : Nat) : Nat :=
  if [0x60, 0x61, 0x62, 0x64, 0x68, 0x69].contains op then 3
  else if op = 0x15 ∨ op = 0x16 ∨ (op = 0x17 ∧ (lo % 16 = 2 ∨ lo % 16 = 3)) then 1
  else if [0x17, 0x6A, 0x6C, 0x70, 0x71, 0x72, 0x74, 0x75, 0x79, 0x7A, 0xF0].contains op then 2
  else 0

/-- The S slot's operation as a virtual word. -/
def sWord (t : Translation) (ib : NMap) (b : BitVec 48) : Word64 :=
  let op := b.extractLsb' 40 8
  let g := b.extractLsb' 36 4
  let r1 : BitVec 12 := (b.extractLsb' 26 10).setWidth 12
  let r2 : BitVec 12 := (b.extractLsb' 16 10).setWidth 12
  let r3 : BitVec 12 := (b.extractLsb' 6 10).setWidth 12
  let lo := (b.extractLsb' 0 6).toNat
  let ty : BitVec 4 := BitVec.ofNat 4 (4 + lo / 16)
  let m4 : BitVec 4 := BitVec.ofNat 4 lo
  let fld (c : NField) (f : BitVec 12) := viewField t ib 0 c f
  let o := op.toNat
  match sLayout o lo with
  | 3 =>
    let cond := decide (o = 0x61 ∨ o = 0x62)
    let off : BitVec 32 := if cond then (b.extractLsb' 0 24).signExtend 32 else (b.extractLsb' 0 26).signExtend 32
    let c : NField := if o = 0x61 then .s else if o = 0x64 then .v else .other
    FB.toWord op { g := g, a := fld c r1, off := off,
                   min := if cond then (b.extractLsb' 24 2).setWidth 8 else 0 }
  | 1 =>
    let dc : NField := if o = 0x17 ∧ lo % 16 = 2 then .other else .s
    let ac : NField := if o = 0x17 ∧ lo % 16 = 3 then .other else .s
    FI.toWord op { g := g, d := fld dc r1, a := fld ac r2, imm := (b.extractLsb' 6 10).signExtend 20,
                   min4 := m4, ty := if o = 0x17 then 0 else ty }
  | 2 =>
    let imm := b.extractLsb' 6 20
    let z : BitVec 12 := 0
    let vec := decide (imm.toNat = 0 ∨ imm.toNat = 0x51)
    let d := if o = 0x17 then fld .s r1 else if o = 0x70 then fld (if vec then .v else .s) r1
      else if o = 0x71 ∨ o = 0x7A then z else r1
    let a := if o = 0x71 ∨ o = 0x7A then fld .s r1 else z
    FI.toWord op { g := g, d := d, a := a, imm := imm, min4 := m4, ty := 0 }
  | _ =>
    let typed := decide (o ≤ 0x11)
    frWord t ib 0 op { g := g, d := r1, a := r2, b := r3, la := 0,
                       min := if typed then BitVec.ofNat 8 (lo % 16) else BitVec.ofNat 8 lo,
                       ty := if typed then ty else 0 }

/-- A V slot's operation as a virtual word. -/
def vWord (t : Translation) (ib : NMap) (slot : Nat) (w : Word64) : Word64 :=
  let op := opOf w
  if isFQ op.toNat then fqWord t ib slot op (FQ.ofWord w) else frWord t ib slot op (FR.ofWord w)

/-- The M slot's word 0 and a long operation's word 1 as virtual words. -/
def mWords (t : Translation) (ib : NMap) (w0 w1 : Word64) : Word64 × Word64 :=
  let op := opOf w0
  let o := op.toNat
  if o = 0x15 then
    let f := FI.ofWord w0
    (FI.toWord op { f with d := viewField t ib 3 .s f.d, a := viewField t ib 3 .s f.a }, 0)
  else if o = 0x97 then (w0, w1)
  else if 0xA0 ≤ o then
    let w := W1.ofWord w1
    (frWord t ib 3 op (FR.ofWord w0), W1.toWord { w with e1 := viewField t ib 3 .s w.e1 })
  else
    let c := fmFields o
    let f := FM.ofWord w0
    let w := W1.ofWord w1
    (FM.toWord op { f with
        d := viewField t ib 3 c.1 f.d, a := viewField t ib 3 .s f.a,
        x := viewIndex t ib 3 c.2.1 f.x, la := 0 },
     -- E1 of NLD and NST is an offset register or none (R139); elsewhere E1 and E2 name data
     W1.toWord { w with
        e1 := if o = 0x87 ∨ o = 0x88 then viewIndex t ib 3 c.2.2.1 w.e1 else viewField t ib 3 c.2.2.1 w.e1
        e2 := viewField t ib 3 c.2.2.2 w.e2 })

/-! ### Validity (R249) -/

def sMajor (o : Nat) : Bool :=
  decide (o ≤ 0x11) || (decide (0x15 ≤ o) && decide (o ≤ 0x17)) || o == 0x2E || o == 0x2F ||
  (decide (0x60 ≤ o) && decide (o ≤ 0x6C)) || (decide (0x70 ≤ o) && decide (o ≤ 0x7A)) || o == 0xF0

def vMajor (o : Nat) : Bool :=
  (decide (0x18 ≤ o) && decide (o ≤ 0x2D)) || (decide (0x30 ≤ o) && decide (o ≤ 0x44)) ||
  (decide (0x48 ≤ o) && decide (o ≤ 0x4D))

def mMajor (o : Nat) : Bool :=
  o == 0x15 || (decide (0x50 ≤ o) && decide (o ≤ 0x5C)) || (decide (0x80 ≤ o) && decide (o ≤ 0x88)) ||
  (decide (0x90 ≤ o) && decide (o ≤ 0x9A)) || (decide (0xA0 ≤ o) && decide (o ≤ 0xAF)) || o == 0xF1

def bundleC (b : BitVec 256) : Bool := b.getLsbD 255
def bundleX (b : BitVec 256) : Bool := b.getLsbD 254
def bundleRow (b : BitVec 256) : Nat := (b.extractLsb' 240 12).toNat
def slotS (b : BitVec 256) : BitVec 48 := b.extractLsb' 192 48
def slotV (b : BitVec 256) (i : Nat) : Word64 := if i = 0 then b.extractLsb' 128 64 else b.extractLsb' 64 64
def slotM (b : BitVec 256) : Word64 := b.extractLsb' 0 64

/-- The class of each register field of an operation's words: D, A, B or X, C, E1 and E2, with the fields. -/
def fieldList (w0 w1 : Word64) : List (NField × BitVec 12) :=
  let op := (opOf w0).toNat
  let f := FR.ofWord w0
  let q := FQ.ofWord w0
  let w := W1.ofWord w1
  if op = 0x15 then [(.s, f.d), (.s, f.a)]
  else if op = 0x97 then []
  else if isFQ op then
    [(.v, q.d), (.v, q.a), (.v, q.b), (if op = 0x2B then .other else .v, q.c)]
  else if op ≤ 0x4D ∨ 0xA0 ≤ op then
    let c := frFields op f.min.toNat f.ty.toNat
    [(c.1, f.d), (c.2.1, f.a), (c.2.2, f.b)] ++ (if 0xA0 ≤ op then [(.s, w.e1)] else [])
  else
    let c := fmFields op
    [(c.1, f.d), (.s, f.a), (c.2.1, (FM.ofWord w0).x)] ++
      (if longOp (opOf w0) then [(c.2.2.1, w.e1), (c.2.2.2, w.e2)] else [])

/-- R244: a field of class s, k, t, n or lc of a V or M slot has X and B clear. An immediate or a count that stands in
such a place is no register field. -/
def plainFields (w0 w1 : Word64) : Bool :=
  (fieldList w0 w1).all fun x => x.1 != .s || x.2.toNat < 1024

/-- The sources of a V slot that X takes from the other cluster. -/
def crossCount (w : Word64) : Nat :=
  let f := FQ.ofWord w
  let c := frFields (opOf w).toNat (FR.ofWord w).min.toNat (FR.ofWord w).ty.toNat
  let one (c : NField) (r : BitVec 12) : Nat := if c = .v ∧ r.getLsbD 11 then 1 else 0
  if w = 0 then 0
  else if isFQ (opOf w).toNat then
    one .v f.a + one .v f.b + (if opOf w = 0x2B#8 then 0 else one .v f.c)
  else one c.2.1 f.a + one c.2.2 f.b

/-- Whether a destination of a V slot keeps to its own cluster. -/
def ownDst (w : Word64) : Bool := !(FQ.ofWord w).d.getLsbD 11

/-- Whether T and MIN6 of an S slot hold only what its layout has: MIN6 is a minor of S-I, and T of 0x17 is 0. -/
def sMinorOk (o lo : Nat) : Bool :=
  match sLayout o lo with
  | 2 => lo < 16
  | 1 => o != 0x17 || lo < 16
  | _ => true

/-- Whether an S slot's fields are as its layout has them: IBSET and NOP here, the others by decoding. -/
def sSlotOk (t : Translation) (b : BitVec 48) : Bool :=
  let o := (b.extractLsb' 40 8).toNat
  let r := b.extractLsb' 26 10
  if b = 0 then true
  else if !sMajor o then false
  else if o = 0xF0 then
    r &&& 0x1FC#10 == 0 && b.extractLsb' 16 10 == 0 && b.extractLsb' 0 6 == 0
  else if o = 0x6C then r == 0 && b.extractLsb' 0 6 == 0
  else sMinorOk o (b.extractLsb' 0 6).toNat && (match decodeWords (sWord t [] b) 0#64 with
    | .unassignedEncoding _ _ => false | _ => true)

def vSlotOk (t : Translation) (slot : Nat) (w : Word64) : Bool :=
  if w = 0 then true
  else vMajor (opOf w).toNat && ownDst w && (isFQ (opOf w).toNat || w.extractLsb' 0 4 == 0) && plainFields w 0 &&
    (match decodeWords (vWord t [] slot w) 0#64 with | .unassignedEncoding _ _ => false | _ => true)

def mSlotOk (t : Translation) (w0 w1 : Word64) : Bool :=
  let o := (opOf w0).toNat
  if w0 = 0 then true
  else if !mMajor o then false
  else if o = 0xF1 then (FR.ofWord w0).b == 0
  else if 0x50 ≤ o ∧ o ≤ 0x9A ∧ o ≠ 0x97 ∧ w0.extractLsb' 4 3 ≠ 0 then false
  else if 0xA0 ≤ o ∧ o ≤ 0xAF ∧ w0.extractLsb' 0 4 ≠ 0 then false
  else plainFields w0 w1 && (match decodeWords (mWords t [] w0 w1).1 (mWords t [] w0 w1).2 with
    | .unassignedEncoding _ _ => false | _ => true)

/-- Whether an S slot and an M slot make a joined immediate (R246). -/
def joined (b : BitVec 256) : Bool :=
  let s := slotS b
  let m := slotM b
  s.extractLsb' 40 8 == 0x17#8 && s.extractLsb' 0 4 == 0 && opOf m == 0x15#8 && !bundleX b &&
  (FI.ofWord m).d == (s.extractLsb' 26 10).setWidth 12 && (FI.ofWord m).a == (FI.ofWord m).d

/-- R246: IMM20[19:12] of a joined immediate's ADDI holds the sign extension of lo. -/
def joinedOk (b : BitVec 256) : Bool :=
  let lo := (FI.ofWord (slotM b)).imm
  !joined b || lo == (lo.extractLsb' 0 12).signExtend 20

/-- A long operation's first bundle. -/
def startsLong (b : BitVec 256) : Bool := !bundleX b && longOp (opOf (slotM b)) && opOf (slotM b) != 0xF1#8

/-- R249: whether bundle i of a translation is valid. -/
def bundleOk (t : Translation) (i : Nat) : Bool :=
  match t.bundles[i]? with
  | none => false
  | some b =>
    let prevLong := i != 0 && (match t.bundles[i - 1]? with | some p => startsLong p | none => false)
    let next := t.bundles[i + 1]?
    sSlotOk t (slotS b) && vSlotOk t 1 (slotV b 0) && vSlotOk t 2 (slotV b 1) &&
    decide (crossCount (slotV b 0) + crossCount (slotV b 1) ≤ 1) &&
    (bundleX b == prevLong) && joinedOk b &&
    (if bundleX b then true
     else if startsLong b then
       (match next with | some n => bundleX n && mSlotOk t (slotM b) (slotM n) | none => false)
     else mSlotOk t (slotM b) 0)

/-! ### Latencies (R95, R250) -/

/-- The class latency of a major, with its type and whether every access lies in the scratchpad. A VCVT counts as an
F64 form when its destination is F64 (log entry 56). -/
def latencyOf (op ty : Nat) (scratch : Bool) : Nat :=
  let f64 := decide (ty = 11)
  if op = 0x02 ∨ op = 0x03 then 3
  else if op = 0x04 ∨ op = 0x05 then 12
  else if op ≤ 0x17 ∨ op = 0x2E ∨ op = 0x2F then 1
  else if op = 0x1A ∨ op = 0x1B ∨ op = 0x1C ∨ op = 0x2D then 4
  else if op ≤ 0x2F then 2
  else if op = 0x37 ∨ op = 0x38 then 16
  else if 0x39 ≤ op ∧ op ≤ 0x3F then 12
  else if op ≤ 0x44 then (if f64 then 8 else 4)
  else if op = 0x4A ∨ op = 0x4B then 8
  else if op ≤ 0x4D then 6
  else if op ≤ 0x5C ∨ op = 0x80 ∨ op = 0x82 ∨ op = 0x87 then (if scratch then 8 else 24)
  else 1

/-! ### The view and the results in flight -/

/-- The lanes' least bundle index. -/
def Group.bundleIndex (g : Group) : Nat := (leastOf (g.r.live.map fun l => NMap.get g.nat.npc l)).getD 0

def Group.bundleLanes (g : Group) : List Nat :=
  g.r.live.filter fun l => NMap.get g.nat.npc l == g.bundleIndex

/-- The type of an operation: TY of its layout. -/
def tyOf (w : Word64) : Nat :=
  if isFQ (opOf w).toNat then (FQ.ofWord w).ty.toNat else (FR.ofWord w).ty.toNat

/-- The registers that a native operation acts on, with the lanes given at `pc`. -/
def Group.view (g : Group) (pc : Nat) (ls : List Nat) : Regs :=
  { g.r with
    v := (g.nat.va.map fun x => (x.1 + 32768, x.2)) ++ g.nat.vb.map fun x => (x.1 + 65536, x.2)
    s := g.nat.sn
    pcv := g.r.live.foldl (fun m l => BMap.set m l
      (BitVec.ofNat 64 (if ls.contains l then pc else 2 ^ 57 - 8))) g.r.pcv }

/-- Writes one result. -/
def Group.land (g : Group) (f : Flight) : Group :=
  match f.place with
  | .vec 0 i l => { g with nat := { g.nat with va := BMap.set g.nat.va (32 * i + l) (BitVec.ofNat 32 f.value) } }
  | .vec _ i l => { g with nat := { g.nat with vb := BMap.set g.nat.vb (32 * i + l) (BitVec.ofNat 32 f.value) } }
  | .sca 0 => g
  | .sca i => { g with nat := { g.nat with sn := BMap.set g.nat.sn i (BitVec.ofNat 64 f.value) } }
  | .pred i l => { g with r := g.r.setKBit i l (f.value != 0) }
  | .loc i => { g with r := g.r.setN i (BitVec.ofNat 15 f.value) }
  | .lc i => { g with r := g.r.setLc i (BitVec.ofNat 32 f.value) }

/-- Writes the results that some condition selects, in the order of their dues and issues (R251). -/
def Group.landAll (g : Group) (p : Flight → Bool) : Group :=
  let due := sortBy (fun a b : Flight => decide (a.due < b.due) || (a.due == b.due && decide (a.seq ≤ b.seq)))
    (g.nat.flight.filter p)
  let g1 := due.foldl Group.land g
  { g1 with nat := { g1.nat with flight := g1.nat.flight.filter fun f => !p f } }

/-- The places of a register of the view, over some lanes. -/
def RName.places (ls : List Nat) : RName → List NPlace
  | .v i => ls.map fun l => .vec (i / 1024 - 1) (i % 1024) l
  | .s i => [.sca i]
  | .k i => ls.map fun l => .pred i l
  | .n i => [.loc i]
  | .lc i => [.lc i]

/-- What stands at a place of the view. -/
def Regs.at_ (r : Regs) : NPlace → Nat
  | .vec c i l => (r.getV (1024 * (c + 1) + i) l).toNat
  | .sca i => (r.getS i).toNat
  | .pred i l => if (r.getK i).getLsbD l then 1 else 0
  | .loc i => (r.getN i).toNat
  | .lc i => (r.getLc i).toNat

/-- The lanes in which an operation's vector destination is written: those active, VPART's by position, and every lane
for SRD %pcv (R13, R127). -/
def destLanes (w0 : Word64) (act : List Nat) : List Nat :=
  let op := (opOf w0).toNat
  if op = 0x4D then List.range act.length
  else if op = 0x70 ∧ (FI.ofWord w0).imm.toNat = 0x51 then lanes
  else act

/-- The results of an operation: its destinations, changed or not (R251); none with no lane active. -/
def results (w0 w1 : Word64) (act : List Nat) (r : Regs) : List (NPlace × Nat) :=
  if act.isEmpty then []
  else (((wordWrites w0 w1).flatMap (RName.places (destLanes w0 act))).filter fun p =>
    p != .sca 0 && p != .loc 0).map fun p => (p, r.at_ p)

end Sys2Proof.Machine
end

