-- ==== Sys2Proof/Machine/Region.lean ====
section
/-! DEFINITION. Commit regions: how a group enters and leaves a translation, the store gate and the collation table
(R254 to R258), late faults (R259), comparisons (R260), and the issue of a bundle (R242, R252). -/

namespace Sys2Proof.Machine

/-! ### Leaving a translation (R258, R264) -/

/-- The row that a bundle names: its own commit point's, or the one at which its region began (R241). -/
def rowOf (t : Translation) (i : Nat) : ConcRow :=
  t.rows.getD (match t.bundles[i]? with | some b => bundleRow b | none => 0) default

/-! ### The virtual address that a lane has reached (R259, R261, R391) -/

/-- An operation with its branch, as one lane issued it. -/
abbrev Step1 := Nat × Bool

/-- The operations of the region that a lane has issued, in order. -/
def Group.stepsOf (g : Group) (l : Nat) : List Step1 :=
  (g.nat.trail.filter fun x => x.lanes.contains l).map fun x => (x.op, x.took)

/-- The major by which an instruction's operations are known in bundles; none for one that a translator need not give an
operation of its own: a branch always taken, a NOP, and the forms without a native major (R242). -/
def majorOf (w0 w1 : Word64) : Option Nat :=
  let op := (opOf w0).toNat
  if op = 0xF8 then some (opOf w1).toNat
  else if (op = 0x60 ∧ (FR.ofWord w0).g = 0#4) ∨ op = 0x6C ∨ op = 0x12 ∨ op = 0x13 ∨ op = 0x14 then none
  else some op

/-- One instruction of virtual code with the operations that a lane has issued: whether its own is among them, the address
behind it, and the operations that are left. -/
def stepWords (words : List (Nat × Word64)) (a : Nat) (l : List Step1) : Option (Bool × Nat × List Step1) :=
  match SMap.find? words a with
  | none => none
  | some w0 =>
    let next := a + (if longOp (opOf w0) then 16 else 8)
    match majorOf w0 ((SMap.find? words (a + 8)).getD 0) with
    | none => some (true, if opOf w0 = 0x60#8 then branchTo a w0 else next, l)
    | some op =>
      match l.find? fun x => x.1 == op with
      | some x => some (true, if x.2 then branchTo a w0 else next, l.erase x)
      | none => some (false, next, l)

/-- The first instruction from an address on whose operation a lane has not issued. An instruction's operation counts as
issued when as many operations of its major have been (DESIGN CHOICE, log entry 56). -/
def reached (words : List (Nat × Word64)) : Nat → Nat → List Step1 → Nat
  | 0, a, _ => a
  | n + 1, a, l =>
    match stepWords words a l with
    | some (true, b, m) => reached words n b m
    | _ => a

/-- The address of the operation of some major that a lane issues next: the first instruction of it from an address on
whose own operation the lane has not issued. -/
def addrOf (words : List (Nat × Word64)) (op : Nat) : Nat → Nat → List Step1 → Nat
  | 0, a, _ => a
  | n + 1, a, l =>
    match stepWords words a l with
    | none => a
    | some (own, b, m) =>
      if !own && (SMap.find? words a).map (fun w => (opOf w).toNat) == some op then a else addrOf words op n b m

/-- The row at which a lane's region began. -/
def Group.laneRow (g : Group) (t : Translation) (l : Nat) : Nat := (rowOf t (NMap.get g.nat.check.npc l)).vpc

/-- The virtual instruction that a lane of a region has reached. -/
def Group.laneAddr (g : Group) (t : Translation) (l : Nat) : Nat :=
  reached t.words 65 (g.laneRow t l) (g.stepsOf l)

/-- The virtual address of the operation that some lanes issue now (R259). -/
def Group.opAddr (g : Group) (t : Translation) (op : Nat) (ls : List Nat) : Nat :=
  let l := lowest ls
  addrOf t.words op 65 (g.laneRow t l) (g.stepsOf l)

/-- Places the virtual registers that a row names into their homes. -/
def Group.toHomes (g : Group) (row : ConcRow) : Regs :=
  row.entries.foldl (fun r e =>
    if e.1 then { r with s := BMap.set r.s e.2.1 (BMap.get g.nat.sn e.2.2.2) }
    else lanes.foldl (fun r l => r.setV e.2.1 l
      (BMap.get (if e.2.2.1 = 0 then g.nat.va else g.nat.vb) (32 * e.2.2.2 + l))) r) g.r

/-- The live lanes' program counters, each at the row that its bundle names. -/
def rowPcs (t : Translation) (npc : NMap) (r : Regs) : BMap 64 :=
  r.live.foldl (fun m l => BMap.set m l (BitVec.ofNat 64 (rowOf t (NMap.get npc l)).vpc)) r.pcv

/-- Whether the operation that waits is a region of its own (R254): it belongs to the virtual instruction at the row. -/
def Group.waitsOwn (g : Group) (t : Translation) : Bool :=
  let vpc := (t.rows.getD g.nat.row default).vpc
  g.nat.mid.isSome && (match SMap.find? t.words vpc with
    | some w0 => isRegionOfItsOwn w0 ((SMap.find? t.words (vpc + 8)).getD 0)
    | none => false)

/-- A group whose gate is being drained has issued its region whole, and some of its stores have been performed: it
leaves for the virtual instruction that follows, whose companion drains the rest first (R258: no effect beyond the group
is performed twice). -/
def Group.leaveDraining (g : Group) (t : Translation) : Group :=
  let g1 := g.landAll fun _ => true
  let row := match g.nat.mid with
    | some _ => t.rows.getD g.nat.row default
    | none => rowOf t g.bundleIndex
  let r1 := g1.toHomes row
  let r2 := { r1 with pcv := rowPcs t g.nat.npc r1 }
  let r3 := match g.nat.mid with
    | some it => r2.moveTo it.lanes (g.laneAddr t (lowest it.lanes))
    | none => r2
  let n2 : Native := { (default : Native) with
    tid := g.nat.tid, home := g.nat.home, late := g.nat.late, pos := g.nat.pos, gate := g.nat.gate, draining := true, hold := true }
  { g1 with r := r3, nat := n2 }

/-- Discards the region in progress (R258): the checkpoint is restored, and the group stands at the row of
its commit point, where the companion runs. An operation that is a region of its own goes on there with what it has
begun, so that it is performed once (R132). -/
def Group.discard (g : Group) (t : Translation) : Group :=
  if g.nat.draining then g.leaveDraining t else
  let c := g.nat.check
  let g1 := g.landAll fun f => decide (f.seq < c.seq)
  let r1 := g1.toHomes (t.rows.getD g.nat.row default)
  let r2 := { r1 with k := c.k, n := c.n, lc := c.lc, fmtbase := c.fmtbase, pcv := rowPcs t c.npc r1 }
  let n2 : Native := { (default : Native) with tid := g.nat.tid, home := g.nat.home, late := g.nat.late, hold := true }
  { g1 with r := r2, u := { g1.u with lchk := c.lchk }, fmt := c.fmt, fmtN := c.fmtN, nat := n2,
            pend := if g.waitsOwn t then g.pend else .idle, kept := if g.waitsOwn t then g.kept else none,
            stall := if g.waitsOwn t then g.stall else .none }

/-- Leaves the translation at the commit point of its region for the virtual instruction there, or for another
procedure: every result lands, and the lanes stand at their rows. -/
def Group.depart (g : Group) (t : Translation) : Group :=
  let g1 := g.landAll fun _ => true
  let r1 := g1.toHomes (t.rows.getD g.nat.row default)
  let n2 : Native := { (default : Native) with late := g.nat.late, hold := true }
  { g1 with r := { r1 with pcv := rowPcs t g.nat.npc r1 }, nat := n2, pend := .idle, kept := none, stall := .none }

/-- Leaves for the virtual instruction of the row, and stays with the translation: its index bases are kept
(R247). -/
def Group.stepOut (g : Group) (t : Translation) : Group :=
  let g1 := g.depart t
  { g1 with nat := { g1.nat with tid := g.nat.tid, home := g.nat.home, pos := g.nat.pos, ib := g.nat.ib,
                                 ibPend := g.nat.ibPend } }

/-- The translation that a group runs or may rejoin: installed, or replaced and still in use (R271). -/
def State.xlatOf (s : State) (g : Group) : Option Translation :=
  let mine (t : Translation) : Bool := t.id == g.nat.tid && t.ctx == g.p.ctx && t.entry == g.nat.home
  match s.xlats.find? mine with
  | some t => some t
  | none => (s.olds.find? fun o => mine o.t).map OldXlat.t

def State.profile (s : State) (id : Nat) : Profile := SMap.get default s.profiles id

def State.setProfile (s : State) (id : Nat) (p : Profile) : State :=
  { s with profiles := SMap.set default s.profiles id p }

/-- Discards the focus group's region, and counts an abort of a hoist site or a fault of a bundle. -/
def State.abort (s : State) (t : Translation) (index : Nat) (site : Option Nat) : State :=
  let p := s.profile t.id
  let p1 := match site with
    | some i => { p with aborts := NMap.bump p.aborts i }
    | none => { p with faults := NMap.bump p.faults index }
  ({ s with g := s.g.discard t } : State).setProfile t.id p1

/-! ### Entering a translation (R243, R258, R266) -/

/-- The row at which a lane may enter a translation: a commit point of the one it left, an entry, or the return point of
a call (R266). -/
def entryRow (t : Translation) (same : Bool) (pc : Nat) : Option ConcRow :=
  t.rows.find? fun r => r.vpc == pc && (same || r.flags % 2 == 1 || r.flags / 8 % 2 == 1)

/-- Whether a translation is the one that a group's companion belongs to. -/
def Group.left (g : Group) (t : Translation) : Bool := t.id == g.nat.tid && t.entry == g.nat.home

/-- Whether every live lane of a group may enter a translation. -/
def Group.mayEnter (g : Group) (t : Translation) : Bool :=
  !t.bundles.isEmpty && t.ctx == g.p.ctx && t.xchk == g.u.xchk &&
  g.r.live.all fun l => (entryRow t (g.left t) (g.r.pc l)).isSome

/-- R243: whether a partition's register files hold the windows of its groups, this one's those of `t`. -/
def State.windowsFit (s : State) (t : Translation) : Bool :=
  let mine := s.groups.filter fun g => g.p.core == s.g.p.core && g.p.part == s.g.p.part && g.p.id != s.g.p.id && !g.ended
  let held := mine.filterMap fun g => if g.nat.on then s.xlatOf g else none
  let sum (f : Translation → Nat) : Nat := held.foldl (fun n x => n + f x) (f t)
  decide (sum Translation.vw0 ≤ 1024) && decide (sum Translation.vw1 ≤ 1024) && decide (sum Translation.sw ≤ 4096)

def Group.enter (g : Group) (t : Translation) : Group :=
  let row (l : Nat) : ConcRow := (entryRow t (g.left t) (g.r.pc l)).getD default
  let npc : NMap := g.r.live.foldl (fun m l => NMap.set m l (row l).boff) []
  let load (n : Native) (e : Bool × Nat × Nat × Nat) : Native :=
    if e.1 then { n with sn := BMap.set n.sn e.2.2.2 (if e.2.1 = 0 then 0 else BMap.get g.r.s e.2.1) }
    else lanes.foldl (fun n l =>
      let v := g.r.getV e.2.1 l
      if e.2.2.1 = 0 then { n with va := BMap.set n.va (32 * e.2.2.2 + l) v }
      else { n with vb := BMap.set n.vb (32 * e.2.2.2 + l) v }) n
  let n0 : Native := { (default : Native) with
    on := true, tid := t.id, home := t.entry, npc := npc, late := g.nat.late, pos := g.nat.pos
    ib := if g.left t then g.nat.ib else [], ibPend := if g.left t then g.nat.ibPend else [] }
  let n1 := ((g.r.live.map row).eraseDups.flatMap ConcRow.entries).foldl load n0
  let first := (g.r.issueAddr.bind (entryRow t (g.left t))).getD default
  let check : Check := {
    k := g.r.k, n := g.r.n, lc := g.r.lc, fmtbase := g.r.fmtbase, lchk := g.u.lchk, fmt := g.fmt,
    fmtN := g.fmtN, npc := npc, seq := 0 }
  { g with claims := [], nat := { n1 with row := (t.rows.findIdx? fun r => r == first).getD 0, check := check } }

/-- The focus group enters a translation when one that its partition has room for is installed for where it stands, or
rejoins the one it left for its companion. A group that a debugger watches or whose block logs stays in the
companion. -/
def State.tryEnter (s : State) : State :=
  let free := s.g.present && !s.g.nat.on && !s.g.nat.hold && s.g.pend == .idle && s.g.nat.gate.isEmpty && s.g.dbg.bp.isEmpty &&
    s.g.dbg.stepping.isNone && s.g.dbg.viewing.isNone && s.g.badRegs.isEmpty && s.rlog.isNone
  let fits (t : Translation) : Bool := s.g.mayEnter t && s.windowsFit t
  if !free then s
  else
    match (match s.xlatOf s.g with
      | some t => if fits t then some t else s.xlats.find? fits
      | none => s.xlats.find? fits) with
    | none => s
    | some t =>
      let p := s.profile t.id
      -- R260: a comparison that failed and has not failed again was a soft error that has been corrected
      let s1 := if s.g.nat.checking.isSome then s.countRel 4 1 else s
      ({ s1 with g := s.g.enter t } : State).setProfile t.id { p with entries := p.entries + 1 }

/-! ### Running one operation -/

/-- How an attempt at an operation ends. -/
inductive Attempt where
  /-- it has completed -/
  | done (u : State)
  /-- it waits, with what it has begun -/
  | waits (u : State)
  /-- it has faulted; the state after the fault is taken -/
  | faults (u : State)
  /-- it has no native form -/
  | none

/-- Whether a group has taken a fault, or waits for its delivery or for the service of a page. -/
def tookFault (s t : State) : Bool :=
  t.g.inHandler != s.g.inHandler || t.g.stall == .debug ||
  (t.g.stall == .fault && (match t.g.pend with | .log _ => false | _ => true))

/-- Tries an operation of the focus group on some registers. `resume` holds when it goes on with what it has
begun. -/
def State.attempt (s : State) (i : Instr) (r : Regs) (resume : Bool) : Attempt :=
  let s0 := { s with g := { s.g with
    r := r, pend := if resume then s.g.pend else .idle, kept := if resume then s.g.kept else none, stall := .none } }
  match runVirtual i s0 with
  | some (.next t) =>
    if t.g.p.id != s.g.p.id || !t.g.present || t.g.ended then .done t
    else if tookFault s0 t then .faults t
    else if t.g.stall == .none && t.g.pend == .idle then .done t
    else .waits t
  | _ => .none

/-- One register file's value after an operation that saw `before`: what the operation changed, and else what the
group holds. -/
def carried {α : Type} [DecidableEq α] (s before u : α) : α := if u = before then s else u

/-- A group's registers after an operation on registers of the view: the native results are not here yet. -/
def Regs.carry (s before u : Regs) : Regs :=
  { s with
    tok := carried s.tok before.tok u.tok, fmtbase := carried s.fmtbase before.fmtbase u.fmtbase
    faultcause := carried s.faultcause before.faultcause u.faultcause, faultva := carried s.faultva before.faultva u.faultva
    faultpc := carried s.faultpc before.faultpc u.faultpc, faultaux := carried s.faultaux before.faultaux u.faultaux
    lc := carried s.lc before.lc u.lc
    xctx := carried s.xctx before.xctx u.xctx }

/-- The state after an operation, with the group's own registers. -/
def State.kept (s u : State) (before : Regs) : State := { u with g := { u.g with r := s.g.r.carry before u.g.r } }

/-! ### The accesses of plain forms -/

/-- The accesses that a load, store or RED makes with the group's registers, in lane order, none where no lane is active;
a far pointer of another device that is not read yet has no target among them. -/
def State.memAccs (s : State) (i : Instr) : List Acc :=
  let rd := s.g.r.getS
  let one (f : FM) (write : Bool) (off : Int) : List Acc :=
    if (s.g.r.active f.g).isEmpty then []
    else [mkAcc s (lowest (s.g.r.active f.g)) (s.g.r.getN f.n.toNat) (rd f.a.toNat) off (szBytes f.sz) (!write) write f.c.toNat]
  let per (f : FM) (write : Bool) (off : Nat → Int) : List Acc := (s.g.r.active f.g).map fun l =>
    mkAcc s l (s.g.r.getN f.n.toNat) (rd f.a.toNat) (off l) (szBytes f.sz) (!write) write f.c.toNat
  let row (f : FM) (l : Nat) : Int := sIndex f (szBytes f.sz) rd + l * szBytes f.sz
  let far (f : FM) (w : W1) (write : Bool) : List Acc :=
    let ps := farAccs s f w (s.g.r.active f.g) rd
    let near := ps.filterMap fun p => match s.check p with | .ok (.here l) => some (p.lane, s.readSpans l) | _ => none
    ps ++ ps.filterMap fun p => ((near ++ s.g.pend.stash).find? fun x => x.1 == p.lane).map fun x =>
      targetAcc s f w write p x.2
  match i with
  | .ld f => one f false (sIndex f (szBytes f.sz) rd)
  | .ldi f => one f false (offOf f (szBytes f.sz))
  | .st f => one f true (sIndex f (szBytes f.sz) rd)
  | .sti f => one f true (offOf f (szBytes f.sz))
  | .ldo f w => one f false (sIndex f (szBytes f.sz) rd + w.imm.toInt)
  | .sto f w => one f true (sIndex f (szBytes f.sz) rd + w.imm.toInt)
  | .vld f => per f false (vIndex f (szBytes f.sz) s.g.r)
  | .vldi f => per f false fun _ => offOf f (szBytes f.sz)
  | .vst f => per f true (vIndex f (szBytes f.sz) s.g.r)
  | .vsti f => per f true fun _ => offOf f (szBytes f.sz)
  | .vldc f => per f false (row f)
  | .vstc f => per f true (row f)
  | .vldo f w => per f false fun l => vIndex f (szBytes f.sz) s.g.r l + w.imm.toInt
  | .vsto f w => per f true fun l => vIndex f (szBytes f.sz) s.g.r l + w.imm.toInt
  | .red f w => per f true fun l => vIndex f (szBytes f.sz) s.g.r l + w.imm.toInt
  | .stf f w => if (s.g.r.active f.g).isEmpty then []
      else (per f true fun l => vIndex f (szBytes f.sz) s.g.r l + w.imm.toInt) ++
        [flagAcc s f (s.g.r.active f.g) (rd w.e1.toNat)]
  | .nld f w => far f w false
  | .nst f w => far f w true
  | _ => []

/-- The same accesses made with some registers. -/
def State.accsWith (s : State) (r : Regs) (i : Instr) : List Acc :=
  State.memAccs { s with g := { s.g with r := r } } i

/-- Whether two accesses share a byte. -/
def shareByte (a b : Acc) : Bool :=
  match a.addr, b.addr with
  | some x, some y => decide (x < y + b.size) && decide (y < x + a.size)
  | _, _ => false

/-- The lowest and highest address of some accesses. -/
def accHull (l : List Acc) : Option (Nat × Nat) :=
  match leastOf (l.filterMap Acc.addr) with
  | none => none
  | some lo => some (lo, (l.filterMap fun a => a.addr.map fun x => x + a.size - 1).foldl max lo)

/-- Whether an access shares a byte with a collation entry. -/
def CollEntry.meets (e : CollEntry) (a : Acc) : Bool :=
  match a.addr with
  | some x => decide (x ≤ e.hi) && decide (e.lo < x + a.size)
  | none => false

/-! ### The store gate (R256) -/

/-- Forms that enter the gate: stores, STF and RED, and scoped stores without a wide release. -/
def isGated (op scope ord : Nat) : Bool :=
  [0x52, 0x53, 0x56, 0x57, 0x59, 0x84, 0x92].contains op ||
  ([0x81, 0x83, 0x88].contains op && !(decide (ord / 2 % 2 = 1) && decide (1 ≤ scope)))

/-- Loads that a gate forwards to. -/
def isLoad (op : Nat) : Bool := [0x50, 0x51, 0x54, 0x55, 0x58, 0x80, 0x82, 0x87].contains op

/-- Whether a store has passed its checks and begun to write at another device. -/
def Pend.writes : Pend → Bool
  | .remote false reqs _ => reqs.any fun q => q.msg.type != 8 && q.msg.type != 0x0E
  | _ => false

/-- What a group has begun at other devices, as if they had answered. -/
def Pend.answered : Pend → Pend
  | .remote c reqs d => .remote c (reqs.map fun q => { q with answer := some (.values []) }) d
  | p => p

/-- A state with the memory that another one holds for the group: this device's, the scratchpads, and the private lines. -/
def State.memoryOf (s u : State) : State :=
  { s with mem := u.mem, poison := u.poison, blocks := u.blocks
           g := { s.g with priv := u.g.priv, privPoison := u.g.privPoison } }

/-- What this device's memory holds for the group once a gated store of it has been performed. -/
def State.seeStore (s : State) (e : GateEntry) : State :=
  let s1 : State := { s with g := { s.g with pend := e.pend.answered, kept := e.kept } }
  match s1.attempt e.op e.r e.pend.writes with
  | .done u => s.memoryOf u
  | _ => s

/-- What a gated store writes at other devices: address, bytes and value, and no value for a word that the device there
computes (RED, and the flag of STF). -/
def GateEntry.far (e : GateEntry) : List (Nat × Nat × Option Nat) :=
  match e.pend with
  | .remote false reqs _ => reqs.flatMap fun q =>
      let m := q.msg
      let put (o : Nat × Nat × Nat) : Nat × Nat × Option Nat :=
        (m.dst * 2 ^ 57 + o.2.1, o.2.2 / 2 ^ 128, some (o.2.2 % 2 ^ 128))
      if m.type = 9 then m.ops.map put
      else if m.type = 0x0A then
        (m.ops.take 1).map (fun o => (m.dst * 2 ^ 57 + o.2.1, 8, none)) ++ (m.ops.drop 1).map put
      else if m.type = 0x0B then [(m.dst * 2 ^ 57 + m.addr, 2 ^ m.sz, none)]
      else []
  | _ => []

/-- The bytes from `a` on, of value `v`, with those that some stores write. -/
def overlay (stores : List (Nat × Nat × Option Nat)) (a size v : Nat) : Nat :=
  stores.foldl (fun v x =>
    match x.2.2 with
    | none => v
    | some y => (List.range size).foldl (fun v i =>
        if x.1 ≤ a + i ∧ a + i < x.1 + x.2.1 then
          v - v / 256 ^ i % 256 * 256 ^ i + y / 256 ^ (a + i - x.1) % 256 * 256 ^ i
        else v) v) v

/-- A load's answers from other devices, with the bytes of the gated stores there. -/
def Pend.through (stores : List (Nat × Nat × Option Nat)) : Pend → Pend
  | .remote c reqs d => .remote c (reqs.map fun q =>
      match q.answer with
      | some (.values vs) =>
        if q.msg.type = 8 then { q with answer := some (.values (vs.map fun x =>
          match q.msg.ops.find? fun o => o.1 == x.1 with
          | some o => (x.1, overlay stores (q.msg.dst * 2 ^ 57 + o.2.1) (o.2.2 % 2 ^ 128) x.2)
          | none => x)) }
        else q
      | _ => q) d
  | p => p

/-- R256: what a load of the group sees: memory with the gated stores performed, in group order. None where it reads a
word that another device computes for a gated RED or flag (log entry 56). -/
def State.seen (s : State) (before : Regs) (i : Instr) : Option State :=
  let stores := s.g.nat.gate.flatMap GateEntry.far
  let u := s.g.nat.gate.foldl State.seeStore s
  let v : State := { u with g := { u.g with pend := u.g.pend.through stores } }
  let unknown (a : Acc) : Bool := match a.addr with
    | some x => stores.any fun y => y.2.2.isNone && decide (x < y.1 + y.2.1) && decide (y.1 < x + a.size)
    | none => false
  if (v.accsWith before i).any unknown then none else some v

/-- The fault that a group has taken, or whose service it waits for. -/
def State.faultTaken (u : State) : Trap :=
  match u.g.pend with
  | .service t _ => t
  | .deliver t _ _ => t
  | _ =>
    let codes : List Cause := [.illop, .priv, .align, .page, .prot, .rsvd, .canon, .owner, .detv, .tile, .faort,
      .fabric, .check, .mchk, .trapi, .bkpt, .watch, .img, .xlat, .qbad]
    { cause := (codes.find? fun c => causeCode c == u.g.r.faultcause.toNat).getD .mchk
      va := u.g.r.faultva.toNat + u.g.r.faultaux.toNat / 2 ^ 56 * 2 ^ 64
      aux := u.g.r.faultaux.toNat % 2 ^ 56 }

/-- Drains the gate in group order: each entry is performed as its virtual form states. A fault that comes back is
kept for the next commit bundle (R259). `none` with a state: the store at the head waits for another device. -/
def State.drainGate (s : State) : Nat → Bool × State
  | 0 => (true, s)
  | n + 1 =>
    match s.g.nat.gate with
    | [] => (true, s)
    | e :: rest =>
      let pop (u : State) (late : List (Trap × Nat × Nat)) : State :=
        { u with g := { u.g with
            r := s.g.r, pend := .idle, kept := none, stall := .none
            nat := { s.g.nat with gate := rest, draining := false, late := s.g.nat.late ++ late } } }
      match s.attempt e.op e.r s.g.nat.draining with
      | .done u => State.drainGate (pop u []) n
      | .waits u => (false, { u with g := { u.g with r := s.g.r, nat := { s.g.nat with draining := true } } })
      | .faults u => State.drainGate (pop s [(u.faultTaken, e.vpc, s.g.nat.pos)]) n
      | .none => State.drainGate (pop s []) n

/-! ### IBSET and XCMP (R247, R248, R260) -/

/-- The lanes of the focus group's bundle whose guard is true. -/
def Group.bundleActive (g : Group) (p : BitVec 4) : List Nat :=
  g.bundleLanes.filter fun l => g.r.guard p l

/-- An IBSET of the present bundle: seen from the second bundle after it. -/
def Group.ibset (g : Group) (r : BitVec 10) (imm : BitVec 20) : Group :=
  let key := 4 * (r.toNat / 512) + r.toNat % 4
  { g with nat := { g.nat with ibPend := g.nat.ibPend ++ [(g.nat.pos + 2, key, imm.toNat % 1024)] } }

def execIbset (g : BitVec 4) (r : BitVec 10) (imm : BitVec 20) (s : State) : Out :=
  .next (if (s.g.bundleActive g).isEmpty then s else { s with g := s.g.ibset r imm })

/-- Whether the duplicates differ in some of the lanes given. -/
def Group.differs (g : Group) (t : Translation) (ls : List Nat) (d a : BitVec 12) : Bool :=
  let v := g.view 0 []
  let rd := (viewField t g.nat.ib 3 .v d).toNat
  let ra := (viewField t g.nat.ib 3 .v a).toNat
  ls.any fun l => v.getV rd l != v.getV ra l

/-- A comparison in some lanes finds a difference: in the registers, or by a soft error (log entry 49). -/
def State.mismatch (s : State) (t : Translation) (ls : List Nat) (d a : BitVec 12) : Bool :=
  !ls.isEmpty && (s.g.differs t ls d a || Config.softError s.tick s.free)

/-- R260: a mismatch discards the region, and the companion runs with checking up to the virtual instruction whose
result differed. -/
def State.xcmp (s : State) (t : Translation) (index : Nat) (ls : List Nat) (d a : BitVec 12) (voff : BitVec 16) :
    Option State :=
  if s.mismatch t ls d a then
    let vpc := (t.rows.getD s.g.nat.row default).vpc
    let s1 := s.abort t index none
    some { s1 with g := { s1.g with nat := { s1.g.nat with checking := some (vpc + 8 * voff.toNat) } } }
  else none

def execXcmp (g : BitVec 4) (d a : BitVec 12) (voff : BitVec 16) (s : State) : Out :=
  .next (match s.xlatOf s.g with
    | none => s
    | some t => (s.xcmp t s.g.bundleIndex (s.g.bundleActive g) d a voff).getD s)

/-! ### Commit (R255, R256, R259) -/

/-- A commit point, with the gate drained: the checkpoint is taken and the collation table is cleared. -/
def State.commit (s : State) (t : Translation) (row : Nat) : State :=
  let r := s.g.r.moveTo s.g.bundleLanes (t.rows.getD row default).vpc
  { s with g := { s.g with
      r := r
      nat := { s.g.nat with
        coll := [], row := row, trail := []
        check := { k := r.k, n := r.n, lc := r.lc, fmtbase := r.fmtbase, lchk := s.g.u.lchk,
                   fmt := s.g.fmt, fmtN := s.g.fmtN, npc := s.g.nat.npc, seq := s.g.nat.seq } } } }

/-- The address of a late fault that arose in no instruction: it is raised where the commit point is (R408). -/
def atCommit : Nat := 2 ^ 64

/-- Raises a late fault, with %faultpc at its store. -/
def State.takeLate (s : State) (x : Trap × Nat × Nat) : State :=
  s.takeTrap x.1 (if x.2.1 = atCommit then s.pc else x.2.1)

/-- R259: a fault that came for a drained store before the position `before_` is raised, with the virtual state of this
commit point and %faultpc at the store. -/
def State.raiseLate (s : State) (t : Translation) (before_ : Nat) : Option State :=
  match s.g.nat.late.find? fun x => decide (x.2.2 < before_) with
  | none => none
  | some x =>
    let g1 := s.g.discard t
    let g2 := { g1 with nat := { g1.nat with late := s.g.nat.late.filter fun y => y != x } }
    some (({ s with g := g2 } : State).takeLate x)

/-! ### The slots of a bundle -/

/-- How a slot's operation goes on: with its results in flight, with the region's end, or waiting. -/
inductive SlotEnd where
  | on (s : State)
  | stop (s : State)
  | waits (s : State)

/-- Puts results in flight. -/
def Group.launch (g : Group) (rs : List (NPlace × Nat)) (lat : Nat) (missing : Bool) : Group :=
  { g with nat := { g.nat with
      seq := g.nat.seq + 1
      flight := g.nat.flight ++ rs.map fun x =>
        { due := g.nat.pos + lat, seq := g.nat.seq, place := x.1, value := x.2, missing := missing } } }

/-- A store at the gate: its address has been checked; a byte that a hoisted load has read, or a gate of 64 entries,
ends the region (R256, R257). -/
def State.gateStore (s : State) (t : Translation) (it : Issue) (i : Instr) (op : Nat) (p : Pend)
    (kept : Option (List Where)) : SlotEnd :=
  match s.g.nat.coll.find? fun e => ((s.accsWith it.before i).filter Acc.write).any e.meets with
  | some e => .stop (s.abort t it.index (some e.site))
  | none =>
    if 64 ≤ s.g.nat.gate.length then .stop (s.abort t it.index none)
    else
      let e : GateEntry := {
        op := i, r := it.before, vpc := s.g.opAddr t op it.lanes, kept := kept
        pend := if p.writes then p else .idle }
      .on { s with g := { s.g with
        pend := .idle, kept := none, stall := .none
        nat := { s.g.nat with gate := s.g.nat.gate ++ [e] } } }

/-- The program counters that SRD %pcv reads in native code: of the lanes that issue it, its own address, and of others
the instruction that they have reached. -/
def State.nativePcv (s : State) (t : Translation) (it : Issue) (d : Nat) : List (NPlace × Nat) :=
  lanes.flatMap fun l =>
    let v := if s.g.r.exited l then (s.g.r.getPcv l).toNat
      else if it.lanes.contains l then s.g.opAddr t 0x70 it.lanes else s.g.laneAddr t l
    [(.vec (d / 1024 - 1) (d % 1024) l, v % 2 ^ 32), (.vec (d / 1024 - 1) (d % 1024 + 1) l, v / 2 ^ 32)]

/-- Runs one operation on the registers as they stood before the bundle. `h` marks a hoisted load. -/
def State.runSlot (s : State) (t : Translation) (it : Issue) (i : Instr) (w0 w1 : Word64) (cross : Nat)
    (h resume : Bool) : SlotEnd :=
  let op := (opOf w0).toNat
  let w := W1.ofWord w1
  let act := it.lanes.filter fun l => it.before.guard (FR.ofWord w0).g l
  let load := isLoad op
  let gated := isGated op w.scope.toNat w.ord.toNat
  let reads := load && !s.g.nat.gate.isEmpty
  match (if reads then s.seen it.before i else some s) with
  | none => .stop (s.abort t it.index none)
  | some v =>
    match v.attempt i it.before resume with
    | .none => .stop (s.abort t it.index none)
    | .faults _ => .stop (s.abort t it.index none)
    | .waits u =>
      if gated && u.g.pend.writes then s.gateStore t it i op u.g.pend u.g.kept
      else .waits (s.kept (if reads then u.memoryOf s else u) it.before)
    | .done u1 =>
      let accs := if load then v.accsWith it.before i else []
      if gated then if act.isEmpty then .on (s.kept u1 it.before) else s.gateStore t it i op .idle none
      else if load && h && decide (32 ≤ s.g.nat.coll.length) then .stop (s.abort t it.index none)
      else
        let u := if reads then (u1.memoryOf s).touchAll accs else u1
        let scratch := !accs.isEmpty && accs.all fun a => (a.addr.map fun x => decide (winScratch ≤ localOf x)).getD false
        let rs := if op = 0x70 ∧ (FI.ofWord w0).imm.toNat = 0x51 ∧ !act.isEmpty then
            s.nativePcv t it (FI.ofWord w0).d.toNat
          else results w0 w1 act u.g.r
        let miss := load && (Config.freeWord s.free).getLsbD 0
        let kept := s.kept u it.before
        let g1 := kept.g.launch rs (latencyOf op (tyOf w0) scratch + cross) miss
        let g2 := match (if load && h then accHull accs else none) with
          | some (lo, hi) => { g1 with nat := { g1.nat with
              coll := g1.nat.coll ++ [{ lo := lo, hi := hi, site := it.index }] } }
          | none => g1
        .on { kept with g := g2, free := kept.free + 1 }

/-- The address at which a bundle's branches count: 8 for each bundle, from 2^40 (R245 S-B). -/
def branchPc (i : Nat) : Nat := 2 ^ 40 + 8 * i

/-- Whether a lane other than those given waits inside a region, at a bundle that is no commit bundle: no row states its
virtual registers. -/
def Group.straggles (g : Group) (t : Translation) (ls : List Nat) : Bool :=
  g.r.live.any fun l => !ls.contains l && (match t.bundles[NMap.get g.nat.npc l]? with
    | some b => !bundleC b
    | none => false)

/-- Ends a region that is not at its commit point by an operation that leaves the translation: the gate drains first. A
lane that waits inside its region has the companion run the region (log entry 56). -/
def State.closing (s : State) (t : Translation) (it : Issue) (k : State → SlotEnd) : SlotEnd :=
  if s.g.straggles t it.lanes then .stop { s with g := s.g.discard t }
  else
    let d := s.drainGate 65
    if d.1 then k d.2 else .waits d.2

/-- The first of some targets that can be executed and that no translation holds: the transfer waits for the service
there (R266, R267). -/
def State.untranslated (s : State) (l : List Nat) : Option Nat :=
  l.find? fun a => decide (a < bindBase) && (s.translated a).isNone && (s.wordAt s.g.p.ctx a).toOption.isSome

/-- Forms at which a group steps out of its translation to run the virtual instruction of its row. -/
def isLeaving (op : Nat) : Bool := [0x67, 0x72, 0x73, 0x74, 0x75].contains op

/-- The link register of the virtual instruction at a row (R160). -/
def linkAt (t : Translation) (vpc : Nat) : Nat := (FR.ofWord ((SMap.find? t.words vpc).getD 0)).d.toNat

/-- Leaves by a call, jump or return of some major: each active lane goes to its target, the other lanes of the bundle
go on behind the instruction, and the virtual link is written where the virtual instruction has it. -/
def State.transferOut (s : State) (t : Translation) (it : Issue) (op : Nat) (targets : List (Nat × Nat)) : State :=
  let link := decide (op = 0x64 ∨ op = 0x65)
  let vpc := s.g.opAddr t op it.lanes
  let g1 := s.g.depart t
  let r1 := g1.r.moveTo it.lanes (vpc + 8)
  let r2 := targets.foldl (fun r x => r.setPc x.1 x.2) r1
  let r3 := if link then
      targets.foldl (fun r x => r.setV64 (linkAt t vpc) x.1 (BitVec.ofNat 64 (vpc + 8))) r2
    else r2
  { s with g := { g1 with r := r3, nat := { g1.nat with hold := false } } }

/-- A native call by its entry word, read at the bundle's issue (R266): it leaves for the callee, or stands at the stub,
where the service resumes it to call again. -/
def State.runCall (s : State) (t : Translation) (it : Issue) (index : Nat) (act : List Nat) : SlotEnd :=
  let callee := t.calls.getD index (0, none)
  let stands := match callee.2 with
    | some nba => s.xlats.any fun x => x.nba == nba && x.ctx == s.g.p.ctx && x.entry == callee.1 && x.xchk == t.xchk
    | none => false
  if act.isEmpty then .on s
  else if stands then .stop (s.transferOut t it 0x64 (act.map fun l => (l, callee.1)))
  else .waits { s with g := { s.g with stall := .xlate, pend := .xlate callee.1 s.gtime } }

/-- A branch within the translation: the lanes' bundles move, and loop registers that it changes are results. -/
def State.runBranch (s : State) (t : Translation) (it : Issue) (i : Instr) (w0 : Word64) : SlotEnd :=
  match s.attempt i { it.before with pcv := (s.g.view (branchPc it.index) it.lanes).pcv } false with
  | .done u =>
    let npc := it.lanes.foldl (fun m l => NMap.set m l ((u.g.r.pc l - 2 ^ 40) / 8)) s.g.nat.npc
    let act := it.lanes.filter fun l => it.before.guard (FR.ofWord w0).g l
    let g1 := { s.g with nat := { s.g.nat with npc := npc } }
    .on { s with g := g1.launch (results w0 0 act u.g.r) 1 false }
  | _ => .stop (s.abort t it.index none)

/-- The S slot. -/
def State.runS (s : State) (t : Translation) (b : BitVec 256) (it : Issue) (resume : Bool) : SlotEnd :=
  let w := slotS b
  let op := (w.extractLsb' 40 8).toNat
  let act := it.lanes.filter fun l => it.before.guard (w.extractLsb' 36 4) l
  let row := (t.rows.getD s.g.nat.row default).vpc
  let at_ (pc : Nat) : Issue := { it with before := { it.before with pcv := (s.g.view pc it.lanes).pcv } }
  if w = 0 ∨ op = 0x6C then .on s
  else if op = 0xF0 then
    if act.isEmpty then .on s
    else .on { s with g := s.g.ibset (w.extractLsb' 26 10) (w.extractLsb' 6 20) }
  else
    let vw := sWord t s.g.nat.ib w
    let i := decodeWords vw 0#64
    if joined b then
      -- one result, in the lanes' scalar register, when both halves' guards have an active lane (log entry 56)
      let hi : BitVec 64 := (w.extractLsb' 6 20).signExtend 64
      let lo : BitVec 64 := ((FI.ofWord (slotM b)).imm.extractLsb' 0 12).signExtend 64
      let d := (viewField t [] 0 .s ((w.extractLsb' 26 10).setWidth 12)).toNat
      if act.all fun l => !it.before.guard (FI.ofWord (slotM b)).g l then .on s
      else if d = 0 then .on s
      else .on { s with g := s.g.launch [(.sca d, (hi * 4096#64 + lo).toNat)] 1 false }
    else if op = 0x64 then s.runCall t it (w.extractLsb' 0 26).toNat act
    else if op = 0x63 ∨ op = 0x65 ∨ op = 0x66 then
      if act.isEmpty then .on s
      else
        match s.attempt i (at_ row).before resume with
        | .done u =>
          match s.untranslated (act.map u.g.r.pc) with
          | some a => .waits { s with g := { s.g with stall := .xlate, pend := .xlate a s.gtime } }
          | none => s.closing t it fun s => .stop (s.transferOut t it op (act.map fun l => (l, u.g.r.pc l)))
        | .waits u => .waits (s.kept u it.before)
        | _ => .stop (s.abort t it.index none)
    else if isLeaving op then s.closing t it fun s => .stop { s with g := s.g.stepOut t }
    else if [0x60, 0x61, 0x62, 0x68, 0x69].contains op then s.runBranch t it i vw
    else s.runSlot t (at_ (if op = 0x17 ∧ w.extractLsb' 0 4 = 1#4 then t.entry else row)) i vw 0 0 false resume

/-- A V slot. -/
def State.runV (s : State) (t : Translation) (b : BitVec 256) (it : Issue) (c : Nat) (resume : Bool) : SlotEnd :=
  let w := slotV b c
  if w = 0 then .on s
  else
    let vw := vWord t s.g.nat.ib (c + 1) w
    s.runSlot t it (decodeWords vw 0#64) vw 0 (crossCount w) false resume

/-- The M slot: a long operation runs with its second word, in the bundle after its first. DESIGN CHOICE (log entry 60):
that bundle counts as its issue, for its sources and its latency (R250). -/
def State.runM (s : State) (t : Translation) (b : BitVec 256) (it : Issue) (resume : Bool) : SlotEnd :=
  let w := slotM b
  if bundleX b then
    match s.g.nat.word0 with
    | none => .on s
    | some w0 =>
      let ws := mWords t s.g.nat.ib w0 w
      match s.runSlot t it (decodeWords ws.1 ws.2) ws.1 ws.2 0 (w0.getLsbD 7 && isLoad (opOf w0).toNat) resume with
      | .on u => .on { u with g := { u.g with nat := { u.g.nat with word0 := none } } }
      | e => e
  else if w = 0 ∨ joined b then .on s
  else if opOf w = 0xF1#8 then
    let f := FR.ofWord w
    match s.xcmp t it.index (it.lanes.filter fun l => it.before.guard f.g l) f.d f.a (f.min ++ w.extractLsb' 0 8) with
    | some s1 => .stop s1
    | none => .on { s with free := s.free + 1 }
  else if longOp (opOf w) then .on { s with g := { s.g with nat := { s.g.nat with word0 := some w } } }
  else
    let ws := mWords t s.g.nat.ib w 0
    s.runSlot t it (decodeWords ws.1 0#64) ws.1 0 0 (w.getLsbD 7 && isLoad (opOf w).toNat) resume

/-- The repeat count of a bundle's NOP (R245). -/
def nopCount (b : BitVec 256) : Nat :=
  if (slotS b).extractLsb' 40 8 = 0x6C#8 then ((slotS b).extractLsb' 6 20).toNat else 0

/-- Index-base values that the present bundle sees (R247). -/
def Group.ibLand (g : Group) : Group :=
  let due := g.nat.ibPend.filter fun x => decide (x.1 ≤ g.nat.pos)
  { g with nat := { g.nat with
      ib := due.foldl (fun m x => NMap.set m x.2.1 x.2.2) g.nat.ib
      ibPend := g.nat.ibPend.filter fun x => !decide (x.1 ≤ g.nat.pos) } }

/-- Whether a bundle's S slot holds a branch (R245 S-B) other than CALL. -/
def isBranch (b : BitVec 256) : Bool :=
  [0x60, 0x61, 0x62, 0x68, 0x69].contains ((slotS b).extractLsb' 40 8).toNat

/-- After a bundle: every lane that took part goes to the next bundle, or stands where a branch sent it. -/
def Group.nextBundle (g : Group) (ls : List Nat) (n : Nat) (branched : Bool) : Group :=
  let npc := if branched then g.nat.npc
    else ls.foldl (fun m l => NMap.set m l (NMap.get m l + 1)) g.nat.npc
  { g with pend := .idle, kept := none, stall := .none, nat := { g.nat with mid := none, pos := g.nat.pos + 1 + n, npc := npc } }

/-- The major of a slot's operation, with the second bundle of a long one standing for it. -/
def slotMajor (g : Group) (b : BitVec 256) (slot : Nat) : Option Nat :=
  let word (w : Word64) : Option Nat := if w = 0 then none else some (opOf w).toNat
  match slot with
  | 1 => if slotS b = 0 then none else some ((slotS b).extractLsb' 40 8).toNat
  | 2 => word (slotV b 0)
  | 3 => word (slotV b 1)
  | _ => if bundleX b then g.nat.word0.map fun w => (opOf w).toNat
    else if longOp (opOf (slotM b)) && opOf (slotM b) != 0xF1#8 then none else word (slotM b)

/-- An operation that has issued joins the region's trail, the lanes that its branch moved apart from the others. -/
def State.trailed (u s : State) (b : BitVec 256) (it : Issue) : State :=
  match slotMajor s.g b it.slot with
  | none => u
  | some op =>
    let took (l : Nat) : Bool := it.slot == 1 && NMap.get u.g.nat.npc l != NMap.get s.g.nat.npc l &&
      NMap.get u.g.nat.npc l != it.index + 1
    let turns : List Turn := [{ lanes := it.lanes.filter fun l => !took l, op := op, took := false },
      { lanes := it.lanes.filter took, op := op, took := true }]
    { u with g := { u.g with nat := { u.g.nat with trail := u.g.nat.trail ++ turns.filter fun x => !x.lanes.isEmpty } } }

/-- One slot of a bundle. -/
def State.runOne (s : State) (t : Translation) (b : BitVec 256) (it : Issue) (resume : Bool) : SlotEnd :=
  match it.slot with
  | 1 => s.runS t b it resume
  | 2 => s.runV t b it 0 resume
  | 3 => s.runV t b it 1 resume
  | _ => s.runM t b it resume

/-- The slots of a bundle from one on, in the order S, V0, V1, M. A slot whose operation waits freezes the group there
(R252); the first one goes on with what it has begun when `resume` holds. -/
def State.runSlots (s : State) (t : Translation) (b : BitVec 256) (it : Issue) : Nat → Bool → State
  | 0, _ => { s with g := s.g.nextBundle it.lanes (nopCount b) (isBranch b) }
  | n + 1, resume =>
    match s.runOne t b it resume with
    | .stop u => u
    | .waits u => { u with g := { u.g with nat := { u.g.nat with mid := some it } } }
    | .on u0 =>
      let u := u0.trailed s b it
      State.runSlots { u with g := { u.g with pend := .idle, kept := none, stall := .none } } t b
        { it with slot := it.slot + 1 } n false

/-- Issues one valid bundle, or goes on with one that waited. -/
def State.runBundle (s : State) (t : Translation) (b : BitVec 256) : State :=
  match s.g.nat.mid with
  | some it => s.runSlots t b it (5 - it.slot) true
  | none =>
    let late (f : Flight) : Bool := decide (f.due ≤ s.g.nat.pos)
    -- a commit point at which a lane waits inside a region has no row for it (log entry 56)
    if bundleC b && s.g.straggles t [] then { s with g := s.g.discard t }
    else if s.g.nat.flight.any fun f => late f && f.missing then s.setStall .memory
    else
      let s1 := { s with g := (s.g.landAll late).ibLand }
      let d := if bundleC b then s1.drainGate 65 else (true, s1)
      if !d.1 then d.2
      else
        let s2 := if bundleC b then d.2.commit t (bundleRow b) else d.2
        match (if bundleC b then s2.raiseLate t s2.g.nat.pos else none) with
        | some u => u
        | none =>
          let ls := s2.g.bundleLanes
          let p := s2.profile t.id
          let s3 := s2.setProfile t.id { p with clk := p.clk + 1 }
          let it : Issue := { slot := 1, index := s2.g.bundleIndex, lanes := ls,
                              before := s2.g.view (t.rows.getD s2.g.nat.row default).vpc ls }
          s3.runSlots t b it 4 false

/-- R242: one bundle of the focus group. A group that runs no bundles enters a translation where it can. -/
def execBundleIssue (s : State) : Out :=
  let s1 := s.tryEnter
  if !s1.g.nat.on then .next s1
  else
    match s1.xlatOf s1.g with
    | none => .next { s1 with g := { s1.g with nat := { s1.g.nat with on := false } } }
    | some t =>
      let i := match s1.g.nat.mid with | some it => it.index | none => s1.g.bundleIndex
      match t.bundles[i]? with
      | none => .next { s1 with g := s1.g.discard t }
      | some b => if bundleOk t i then .next (s1.runBundle t b) else .fault .invalidBundle

/-- R252: missing data arrives. -/
def execResultArrival (who : GRef) (index : Nat) (s : State) : Out :=
  .next (s.updGroup who fun g =>
    { g with
      stall := if g.stall = .memory ∧ g.nat.on then .none else g.stall
      nat := { g.nat with flight := g.nat.flight.zipIdx.map fun (f, i) =>
        if i = index then { f with missing := false } else f } })

end Sys2Proof.Machine
end

