-- ==== Sys2Proof/Machine/Debug.lean ====
section
/-! DEFINITION. The debug service (R384 to R389), breakpoints (R385), and the GROUP note's layout (R397). -/

namespace Sys2Proof.Machine

/-! ### Results (R384) -/

/-- Writes the RESULT word of a request, as a release at device scope; an address that cannot be written gets
none. -/
def State.writeResult (s : State) (ctx a status : Nat) : State :=
  if a % 8 ≠ 0 then s else (s.writeCtx ctx a 8 status).getD s

/-- Whether a group still works at the request with some context and RESULT: a STEP, a STOP that waits for the group's
save, or a READ. -/
def Dbg.owes (d : Dbg) (x : Nat × Nat) : Bool :=
  d.stepping == some x || d.stopAt.contains x ||
    (match d.viewing with | some v => v.req.ctx == x.1 && v.req.result == x.2 | none => false)

/-- Writes a request's RESULT once no group works at it any more: STATUS comes last (R384, R387). -/
def State.answerDebug (s : State) (x : Nat × Nat) (status : Nat) : State :=
  if s.groups.any fun g => g.dbg.owes x then s else s.writeResult x.1 x.2 status

/-- R389: a STEP that is over writes its RESULT, the last of several groups'. -/
def State.endStep (s : State) (who : GRef) (status : Nat) : State :=
  match (s.findGroup who).bind fun g => g.dbg.stepping with
  | none => s
  | some x => (s.updGroup who fun g => { g with dbg := { g.dbg with stepping := none } }).answerDebug x status

/-- Stops a group with a cause in the debugger's view (R387); a STEP in progress is over. -/
def State.stopGroup (s : State) (cause : Nat) (who : GRef) : State :=
  (s.updGroup who fun g => { g with stall := .debug, dbg := { g.dbg with stopped := true, cause := cause } }).endStep
    who 0

/-- A group leaves what a debugger has asked of it: every request that it works at is answered. -/
def State.leaveDebugger (s : State) (who : GRef) (status : Nat) : State :=
  match s.findGroup who with
  | none => s
  | some g =>
    let xs := g.dbg.stepping.toList ++ g.dbg.stopAt ++ (g.dbg.viewing.map fun v => (v.req.ctx, v.req.result)).toList
    xs.foldl (fun s x => s.answerDebug x status)
      (s.updGroup who fun g => { g with dbg := { g.dbg with stepping := none, stopAt := [], viewing := none } })

/-- R387: a group whose save is complete stops in the saved state, and the STOPs that waited for it are answered. -/
def State.stopSaved (s : State) (who : GRef) : State :=
  match (s.findGroup who).map fun g => g.dbg.stopAt with
  | none => s
  | some [] => s
  | some xs => xs.foldl (fun s x => s.answerDebug x 0)
      ((s.stopGroup 0 who).updGroup who fun g => { g with dbg := { g.dbg with stopAt := [] } })

/-- R385: the group stops with BKPT before the instruction has any effect. -/
def execBreakpointHit (index : Nat) (s : State) : Out :=
  let b := BMap.get s.g.dbg.bp index
  let hit := match s.g.r.issueAddr with
    | some a => b.getLsbD 63 && b.toNat % 2 ^ 57 / 8 == a / 8
    | none => false
  .next (if hit then s.stopGroup 0x10 s.g.p.id else s)

/-! ### Requests -/

/-- The groups that a request names, or its status when it names none that it may reach. -/
def State.targets (s : State) (q : DbgReq) : Except Nat (List Group) :=
  if q.all then .ok (s.groups.filter fun g => g.p.ctx == q.ctx && !g.ended)
  else match s.findGroup q.who with
    | none => .error 1
    | some g => if g.p.ctx ≠ q.ctx then .error 5 else if g.ended then .error 4 else .ok [g]

/-- R384: a request attaches its debugger to the process. -/
def State.attach (s : State) (ctx : Nat) : State := s.updCtx ctx fun c => { c with debugged := true }

/-- Performs a request on the groups that it names, then writes its status once they are done with it. -/
def State.dbgOn (s : State) (q : DbgReq) (f : State → Group → Except Nat State) : State :=
  let s0 := s.attach q.ctx
  match s0.targets q with
  | .error e => s0.writeResult q.ctx q.result e
  | .ok gs =>
    match gs.foldlM f s0 with
    | .error e => s0.writeResult q.ctx q.result e
    | .ok s1 => s1.answerDebug (q.ctx, q.result) 0

/-- Whether a block is being saved. -/
def State.beingSaved (s : State) (who : GRef) : Bool :=
  s.launches.any fun l => l.id == who.launch && l.runs.any fun r =>
    r.index == who.block && r.preempt == .save && (match r.stat with | .running _ _ => true | _ => false)

/-- R387: a group that is being saved completes its save before it stops. -/
def execDbgStop (q : DbgReq) (s : State) : Out :=
  .next (s.dbgOn q fun s g => .ok (
    if g.dbg.stopped then s
    else if s.beingSaved g.p.id then s.updGroup g.p.id fun g =>
      { g with dbg := { g.dbg with stopAt := g.dbg.stopAt ++ [(q.ctx, q.result)] } }
    else s.stopGroup 0 g.p.id))

/-- Lets a stopped group issue again; its breakpoint there does not fire at the first issue (R385, R389). -/
def Group.resume (g : Group) : Group :=
  { g with stall := .none, dbg := { g.dbg with stopped := false, cause := 0, skipBp := g.r.issueAddr } }

def execDbgResume (q : DbgReq) (s : State) : Out :=
  .next (s.dbgOn q fun s g =>
    if g.dbg.stopped then .ok (s.updGroup g.p.id Group.resume) else if q.all then .ok s else .error 2)

/-- R389: one virtual instruction of a stopped group; RESULT is written when it has issued. -/
def execDbgStep (q : DbgReq) (s : State) : Out :=
  .next (s.dbgOn q fun s g =>
    if g.dbg.stopped then .ok (s.updGroup g.p.id fun g =>
      let h := g.resume
      { h with dbg := { h.dbg with stepping := some (q.ctx, q.result) } })
    else .error 2)

def execSetbp (q : DbgReq) (s : State) : Out :=
  .next (s.dbgOn q fun s g =>
    if q.arg1.extractLsb' 57 6 ≠ 0#6 ∨ q.arg1.extractLsb' 0 3 ≠ 0#3 then .error 3
    else .ok (s.updGroup g.p.id fun g =>
      { g with dbg := { g.dbg with bp := BMap.set g.dbg.bp (q.arg0.toNat % 4) q.arg1 } }))

/-- R386. -/
def execSetwp (q : DbgReq) (s : State) : Out :=
  let start := q.arg0.toNat % 2 ^ 57
  let len := q.arg1.toNat % 2 ^ 30
  let n := q.arg0.toNat / 2 ^ 62
  .next (s.dbgOn q fun s g =>
    if q.arg0.extractLsb' 57 5 ≠ 0#5 ∨ len = 0 ∨ 2 ^ 57 < start + len then .error 3
    else .ok (s.updGroup g.p.id fun g =>
      { g with dbg := { g.dbg with wpStart := BMap.set g.dbg.wpStart n (BitVec.ofNat 64 start),
                                   wpCtl := BMap.set g.dbg.wpCtl n q.arg1 } }))

/-- R384: every breakpoint and watchpoint of the process is cleared, its stopped groups resume, what a request still asks
of them is over, and the debugger is no longer attached. -/
def execDetach (q : DbgReq) (s : State) : Out :=
  let free (g : Group) : Group :=
    if g.p.ctx = q.ctx then
      let h := if g.dbg.stopped then g.resume else g
      { h with dbg := { h.dbg with bp := [], wpStart := [], wpCtl := [] } }
    else g
  let s0 := ((s.groups.filter fun g => g.p.ctx == q.ctx).map fun g => g.p.id).foldl (fun s w => s.leaveDebugger w 0) s
  let s1 : State := { s0 with g := free s0.g, others := s0.others.map free }
  .next ((s1.updCtx q.ctx fun c => { c with debugged := false }).writeResult q.ctx q.result 0)

/-! ### The GROUP note (R397) -/

/-- A stall reason's code (R391). -/
def Stall.code : Stall → Nat
  | .none => 0 | .fault => 1 | .save => 2 | .debug => 3 | .xlate => 4 | .barrier => 5 | .shelf => 6
  | .token => 7 | .memory => 8 | .gate => 9 | .queue => 10 | .lease => 11 | .detwave => 12 | .ready => 13
  | .exited => 14

/-- GROUP of R384: block and group index. -/
def GRef.word (r : GRef) : Nat := r.block % 2 ^ 24 * 32 + r.group % 32

/-- A format-table entry's 8 bytes (R57). -/
def FmtEntry.word (e : FmtEntry) : Nat :=
  (e.anchor % 2 ^ 16).toNat * 2 ^ 48 + e.scale * 2 ^ 12 + e.outf * 2 ^ 8 + e.bf * 2 ^ 4 + e.af

/-- A field of a note: offset, bytes, value. -/
abbrev Field := Nat × Nat × Nat

/-- Fields of equal size, one after another. -/
def fieldRow (off size : Nat) (l : List Nat) : List Field := l.zipIdx.map fun (v, i) => (off + i * size, size, v)

/-- The register part of the GROUP note, from byte 64 on. -/
def groupRegs (g : Group) : List Field :=
  let r := g.r
  fieldRow 64 8 (lanes.map fun l => (r.getPcv l).toNat) ++
  fieldRow 320 4 ((List.range 8).map fun i => (r.getK i).toNat) ++
  fieldRow 352 2 ((List.range 16).map fun i => (r.getN i).toNat) ++
  fieldRow 384 4 ((List.range 4).map fun i => (r.getLc i).toNat) ++
  [(400, 8, r.fmtbase.toNat), (408, 8, g.u.mode.toNat), (416, 8, r.faultcause.toNat), (424, 8, r.faultva.toNat),
   (432, 8, r.faultpc.toNat), (440, 8, r.faultaux.toNat)] ++
  fieldRow 448 8 ((List.range 8).map fun i =>
    match NMap.get g.qbind i with | 0 => 0 | q + 1 => 2 ^ 63 + q) ++
  fieldRow 512 8 ((List.range 16).map fun i => (g.fmt[i]?.map FmtEntry.word).getD 0) ++
  [(640, 8, g.fmt.length + g.fmtN * 64), (648, 120, 0)] ++
  fieldRow 768 8 ((List.range 4096).map fun i => if 4088 ≤ i then 0 else (r.getS i).toNat) ++
  fieldRow 33536 4 ((List.range 4096).flatMap fun i => lanes.map fun l => (r.getV i l).toNat)

/-- The whole note, of a kind, with the reason at the stop and the recorded address. -/
def groupNote (g : Group) (kind reason vpc : Nat) : List Field :=
  [(0, 4, g.p.id.launch), (4, 4, GRef.word g.p.id), (8, 2, g.p.core), (10, 1, g.p.part), (11, 1, g.p.slot),
   (12, 1, kind), (13, 1, reason), (14, 2, 0), (16, 8, vpc), (24, 8, g.u.pbase), (32, 4, maskOf g.r.live),
   (36, 28, 0)] ++ groupRegs g

/-- Bytes of a GROUP note. -/
def groupNoteSize : Nat := 33536 + 524288

/-- Writes fields at an address of a context; none when a byte cannot be written. -/
def State.writeFields (s : State) (ctx base : Nat) (l : List Field) : Option State :=
  l.foldlM (fun s f => s.writeCtx ctx (base + f.1) f.2.1 f.2.2) s

/-- The virtual view of a group (R261, R388): a region in progress is discarded, and the group stays in the
companion. -/
def State.viewOf (s : State) (g : Group) : Group :=
  if g.nat.on then
    match s.xlatOf g with
    | some t => { g.discard t with stall := g.stall }
    | none => g
  else g

/-- The address at which a group stands: that of its last EXIT once it has ended (R391). -/
def Group.atAddr (g : Group) : Nat := if g.ended then g.lastExit else g.r.issueAddr.getD 0

/-- R397: the kind of a recorded group. -/
def Group.kind (g : Group) (saved : Bool) : Nat :=
  if g.ended then 2 else if g.stall = .fault ∨ g.dbg.cause ≠ 0 then 1 else if saved then 3 else 0

/-- R388: the group stays stopped at its view `v`, which is written to the buffer. -/
def State.giveView (s : State) (q : DbgReq) (v : Group) : Except Nat State :=
  let s1 := s.updGroup v.p.id fun _ => { v with dbg := { v.dbg with viewing := none, viewed := true } }
  match s1.writeFields q.ctx q.buf (groupNote v (v.kind v.frozen) v.stall.code v.atAddr) with
  | some s2 => .ok s2
  | none => .error 3

/-- R388: the view of a group in a region is built by its companion, from the region's row on. -/
def execDbgRead (q : DbgReq) (s : State) : Out :=
  .next (s.dbgOn q fun s g =>
    if !g.dbg.stopped then .error 2
    else if q.buf % 64 ≠ 0 then .error 3
    else
      let v := s.viewOf g
      if g.nat.on then .ok (s.updGroup g.p.id fun _ => { v with dbg := { v.dbg with
        viewed := true, viewing := some { req := q, trail := g.nat.trail, left := 65 } } })
      else s.giveView q v)

/-- The view is built: it is written, and RESULT after it. -/
def State.endView (s : State) (v : View) : State :=
  match s.giveView v.req { s.g with stall := .debug } with
  | .ok t => t.answerDebug (v.req.ctx, v.req.result) 0
  | .error e => ({ s with g := { s.g with stall := .debug, dbg := { s.g.dbg with viewing := none } } } : State).answerDebug
      (v.req.ctx, v.req.result) e

/-! ### WRITE (R388) -/

/-- A table of words read from a buffer: entry `i` of `n` with key `i + base`. -/
def readTable (w size off n : Nat) (v : Nat) : BMap w :=
  (List.range n).foldl (fun m i => BMap.set m i (BitVec.ofNat w (fieldAt v (off + size * i) size))) []

/-- The register files of a buffer in the layout of the GROUP note. -/
def regsOf (old : Regs) (v : Nat) : Regs :=
  { old with
    pcv := readTable 64 8 64 32 v, k := BMap.set (readTable 32 4 320 8 v) 0 0
    n := readTable 15 2 352 16 v, lc := readTable 32 4 384 4 v, fmtbase := BitVec.ofNat 32 (fieldAt v 400 4)
    faultcause := BitVec.ofNat 64 (fieldAt v 416 8), faultva := BitVec.ofNat 64 (fieldAt v 424 8)
    faultpc := BitVec.ofNat 64 (fieldAt v 432 8), faultaux := BitVec.ofNat 64 (fieldAt v 440 8)
    s := readTable 64 8 768 4088 v
    v := readTable 32 4 33536 131072 v }

/-- The binding that a %qbind word gives (0 for none), or none where it names a queue that the group may not
bind (R179). -/
def State.bindOf (s : State) (g : Group) (w : Nat) : Option Nat :=
  if w = 0 then some 0
  else
    let q := w - 2 ^ 63
    let other := s.groups.any fun h => h.p.id != g.p.id && h.qbind.any fun x => x.2 == q + 1
    if 2 ^ 63 ≤ w ∧ q < 64 ∧ (SMap.get default s.rxq q).ctx = some g.p.ctx ∧ other = false then some (q + 1) else none

/-- The format-table entry that 8 bytes hold (R57). -/
def rawEntry (v : Nat) : FmtEntry :=
  { anchor := (BitVec.ofNat 16 (v / 2 ^ 48)).toInt, scale := v / 2 ^ 12 % 4, outf := v / 2 ^ 8 % 16,
    bf := v / 16 % 16, af := v % 16 }

/-- The bindings that a buffer gives; a %qbind word that names a queue which the group may not bind, or one that an
earlier word names, leaves its q register unbound (log entry 39). -/
def State.bindsFrom (s : State) (g : Group) (v : Nat) : List Nat :=
  (List.range 8).foldl (fun l i =>
    let b := (s.bindOf g (fieldAt v (448 + 8 * i) 8)).getD 0
    l ++ [if l.contains b then 0 else b]) []

/-- The group that a buffer gives; none where a value breaks R13 or R14. What waited at an instruction that the group
leaves is over. -/
def State.groupFrom (s : State) (g : Group) (v : Nat) : Option Group :=
  let r := regsOf g.r v
  let okPc (l : Nat) : Bool :=
    let w := r.getPcv l
    w.extractLsb' 57 6 == 0#6 && w.extractLsb' 0 3 == 0#3 &&
      (w.getLsbD 63 || (match s.leafOf g.p.ctx { fetch := true } (w.toNat % 2 ^ 57) with
        | .ok _ => true
        | .error _ => s.pageAway g.p.ctx (w.toNat % 2 ^ 57 / 4096)))
  let hard := fieldAt v 320 4 == 2 ^ 32 - 1 && fieldAt v 768 8 == 0 && fieldAt v 352 2 == 0 &&
    ((List.range 16).all fun i => decide (fieldAt v (352 + 2 * i) 2 < 2 ^ 15))
  let stays := !g.nat.on && (lanes.all fun l => r.getPcv l == g.r.getPcv l)
  if lanes.all okPc && hard && !r.live.isEmpty then
    some { g with
      r := r, fmt := (List.range (min (fieldAt v 640 8 % 32) 16)).map fun i => rawEntry (fieldAt v (512 + 8 * i) 8)
      fmtN := fieldAt v 640 8 / 64 % 4, u := { g.u with lchk := fieldAt v 408 8 / 2 % 2 == 1 }
      qbind := (s.bindsFrom g v).zipIdx.foldl (fun m (b, i) => NMap.set m i b) []
      pend := if stays then g.pend else .idle, kept := if stays then g.kept else none
      badRegs := [], nat := { (default : Native) with hold := true }, dbg := { g.dbg with viewed := true } }
  else none

def execDbgWrite (q : DbgReq) (s : State) : Out :=
  .next (s.dbgOn q fun s g =>
    if !g.dbg.stopped then .error 2
    else if q.buf % 64 ≠ 0 then .error 3
    else match s.readCtx q.ctx q.buf groupNoteSize with
      | none => .error 3
      | some v => match s.groupFrom g v with
        | none => .error 3
        | some h => .ok (s.updGroup g.p.id fun _ => h))

end Sys2Proof.Machine
end

