-- ==== Sys2Proof/Machine/Caps.lean ====
section
/-! DEFINITION. What the runtime sets up for a context: its page tables, its rings, and its capability list with
the structures that the list names (R36, R290, R406). -/

namespace Sys2Proof.Machine

/-- R348: the distance of a core to a stack; a core of another die counts at least 8 hops more than any
core of the stack's own die. -/
def distance (core stack : Nat) : Nat :=
  if dieOf core = stack / 3 then Config.hops core stack
  else max (Config.hops core stack)
    (8 + ((allCores.filter fun c => dieOf c == stack / 3).map fun c => Config.hops c stack).foldl max 0)

/-- The little-endian bytes of a number. -/
def bytesOf (v n : Nat) : List Nat := (List.range n).map fun i => fieldAt v i 1

/-- R406: the capabilities of a context, with the bytes used and the payload of each. -/
def State.capList (s : State) (c : Ctx) : List (Nat × Nat × Nat) :=
  [(1, 6, 0x0100 + (Config.steppingFamilyPred % 65535 + 1) * 2 ^ 16 + Config.translatorVersion % 65536 * 2 ^ 32),
   (2, 8, capAddr 2), (3, 8, c.loader), (4, 8, c.dbgRing), (5, 8, c.profRing), (6, 8, capAddr 6),
   (7, 8, capAddr 7 + s.relcount % 4096), (8, 4, s.devloc.toNat + s.host.linksAtBoot % 4096 * 2 ^ 15),
   (9, 8, c.rxMask % 2 ^ 64), (10, 8, capAddr 10), (0x100, 0, 0), (0x101, 0, 0)]

/-- R36: the 16 bytes of an entry. -/
def capEntry (last : Bool) (x : Nat × Nat × Nat) : Nat :=
  x.1 + 2 ^ 16 + x.2.1 * 2 ^ 24 + (if last then 0 else 16) * 2 ^ 32 + x.2.2 * 2 ^ 64

/-- Writes a context's capability list. -/
def State.writeCaps (s : State) (ctx : Nat) : State :=
  match s.findCtx ctx with
  | none => s
  | some c =>
    let l := s.capList c
    l.zipIdx.foldl (fun s (x, i) =>
      s.placeCtx ctx (c.capbase + 16 * i) (bytesOf (capEntry (i + 1 == l.length) x) 16)) s

/-- Maps physical bytes that the device already holds. -/
def State.mapBytes (s : State) (ctx va pa n : Nat) (w : Bool) : State :=
  (List.range ((pa % 4096 + n + 4095) / 4096)).foldl
    (fun s i => s.mapAt ctx (va + 4096 * i) (pa / 4096 * 4096 + 4096 * i) w false) s

/-- Maps a ring of 32 entries of 64 bytes: its control block, then its entries. -/
def State.mapRing (s : State) (ctx va : Nat) : State :=
  (s.mapPage ctx va true false).placeCtx ctx (va + 16) (bytesOf (va + 64) 8 ++ [5, 64])

/-- R348, R406: the table of distances. -/
def coreDist : List Nat := allCores.flatMap fun c => (List.range 12).map fun t => distance c t % 256

/-- The runtime sets a context up, when there is none with the identifier. -/
def State.needCtx (s : State) (id : Nat) : State :=
  if s.ctxs.any fun c => c.id == id && c.live then s
  else
    let f := s.newFrame
    let ring := Config.ringPage % privPages * 4096
    let caps := Config.capPage % privPages * 4096
    let c : Ctx := { (default : Ctx) with
      frames := 1, id := id, live := true, root := some f.1, capbase := caps, loader := ring, dbgRing := capAddr 4, profRing := capAddr 5
      dumpTo := Config.dumpPage id }
    let s1 := { f.2 with ctxs := f.2.ctxs.filter (fun x : Ctx => x.id != id) ++ [c] }
    let s2 := ((s1.mapRing id ring).mapRing id (capAddr 4)).mapRing id (capAddr 5)
    let s3 := (s2.mapBytes id (capAddr 2) s.queueTable 4096 true).mapBytes id (capAddr 7) s.relcount 4096 false
    let s4 := (s3.mapPage id (capAddr 10) false false).placeCtx id (capAddr 10) coreDist
    (s4.mapPage id caps false false).writeCaps id

end Sys2Proof.Machine
end

