-- ==== Sys2Proof/Machine/Queues.lean ====
section
/-! DEFINITION. Device queues as the desk serves them (R335 to R341, R414), dependences (R342), and completion
actions (R343). -/

namespace Sys2Proof.Machine

/-! ### Queues and watches -/

/-- The die whose desk serves a queue (R337). -/
def State.deskOf (s : State) (q : Nat) : Nat := dieOfPa (s.cbAt q)

/-- Whether a slice has a shelf entry for a desk's watch (R324, R337): one of a control block's line comes first. -/
def State.deskRoom (s : State) (slice : Nat) (i : Instr) : Bool :=
  decide ((s.shelf.filter fun e => e.slice == slice).length +
    (match i with | .deviceQueueWake _ => 0 | _ => s.cbLines slice) < 256)

/-- R337: a desk's watch on a line; when the slice has no entry, the desk tries again later. -/
def State.deskWatch (s : State) (line : Nat) (i : Instr) : State :=
  let left := s.wants.filter fun x => !(x.1 == line && x.2 == i)
  if s.shelf.any fun e => e.who.isNone && e.pa == 128 * line && e.wake == some i then { s with wants := left }
  else if s.deskRoom (sliceOf (128 * line)) i then
    let e : ShelfEntry := {
      slice := sliceOf (128 * line), pa := 128 * line, size := 128, code := 0, comparand := 0, ctx := 0,
      who := none, deadline := none, wake := some i }
    { s with shelf := s.shelf ++ [e], wants := left }
  else { s with wants := left ++ [(line, i)] }

/-- R336: the desk rewrites the fields of a control block that it and the runtime own. ERR stays set until
the context clears it. -/
def State.writeCb (s : State) (q : Nat) (err : Bool) : State :=
  let d := s.queueOf q
  let kept := BMap.readNat s.mem (s.cbAt q + 45) 1 / 4 % 2 == 1
  let state := (if d.enable then 1 else 0) + (if d.hosten then 2 else 0) + (if err || kept then 4 else 0)
  let w := state + d.ctx.getD 0 % 2 ^ 16 * 2 ^ 8 + d.rejects % 2 ^ 32 * 2 ^ 24 + d.errcode % 256 * 2 ^ 56
  let s1 := s.writeSpans (memSpan (s.cbAt q + 45) 8) w
  s1.writeSpans (memSpan (s.cbAt q + 56) 8) (d.accepted % 2 ^ 64)

def State.updQueue (s : State) (q : Nat) (f : DQueue → DQueue) : State :=
  { s with queues := SMap.set default s.queues q (f (s.queueOf q)) }

/-- A failure without a rejection (R341, R342). -/
def State.queueErr (s : State) (q code : Nat) : State :=
  (s.updQueue q fun d => { d with errcode := code }).writeCb q true

/-- A rejection or a failed completion (R340, R343). -/
def State.queueReject (s : State) (q code : Nat) : State :=
  (s.updQueue q fun d => { d with errcode := code, rejects := (d.rejects + 1) % 2 ^ 32 }).writeCb q true

/-- A QEVT record (R392). -/
def State.queueEvent (s : State) (q ctx launch kind value : Nat) : State :=
  s.emitHub ctx launch 0x08 (q + kind * 2 ^ 6 + value * 2 ^ 64)

/-! ### Records (R339, R340) -/

/-- A kernel descriptor from its 64 bytes (R278). -/
def kdescOf (v : Nat) : KDesc :=
  { entry := fieldAt v 0 8, trap := fieldAt v 8 8, planbase := fieldAt v 16 8, circbase := fieldAt v 24 8,
    scratch := fieldAt v 32 4, priv := fieldAt v 36 4, stage := fieldAt v 40 4, groups := fieldAt v 44 1,
    modes := fieldAt v 45 1, nplan := fieldAt v 46 2, ncirc := fieldAt v 48 2, kver := fieldAt v 50 2,
    name := fieldAt v 52 4, rsvd := fieldAt v 56 8 }

/-- The descriptor at an address, when it is that of a kernel loaded in the context. -/
def State.kernelAt (s : State) (ctx a : Nat) : Option KDesc :=
  if (s.objects.any fun o => o.ctx == ctx && o.kdescs.contains a) ||
      (ctx == 0 && a == Config.translatorKernel) then
    (s.readCtx ctx a 64).map kdescOf
  else none

/-- DEP0 to DEP3 with V = 1: counter index and value. -/
def recDeps (r : Nat) : List (Nat × Nat) :=
  (List.range 4).filterMap fun i =>
    let d := fieldAt r (48 + 4 * i) 4
    if d.testBit 31 then some (d / 2 ^ 20 % 2 ^ 11, d % 2 ^ 20) else none

/-- R340: the codes of the validations that a record fails, but for 0x01. -/
def State.recErrors (s : State) (ctx ctrbase : Nat) (k : KDesc) (r : Nat) : List Nat :=
  let blocks := fieldAt r 20 4
  let flags := fieldAt r 25 1
  let ckind := flags / 16 % 4
  let rlvl := fieldAt r 27 1
  let cores := fieldAt r 28 1
  let dies := fieldAt r 29 1
  let rset := fieldAt r 30 1
  let carg := fieldAt r 36 4
  let caddr := fieldAt r 40 8
  let lvl := rlvl % 8
  let bad2 := blocks == 0 || decide (2 ^ 24 < blocks)
  let bad3 := !(fieldAt r 24 1 == 0 || fieldAt r 24 1 == k.groups)
  let bad4 := decide (64 ≤ flags) || ckind == 3 || decide (16 ≤ fieldAt r 26 1) || decide (8 ≤ rlvl) ||
    decide (16 ≤ rset) || fieldAt r 31 1 != 0 || (ckind == 2 && decide (64 ≤ carg))
  let bad5 := lvl == 1 || decide (5 ≤ lvl) ||
    (lvl == 0 && (cores != 0 || dies != 0 || rset != 0)) ||
    (decide (2 ≤ lvl) && !(decide (1 ≤ cores) && decide (cores ≤ 36) && decide (1 ≤ dies) && decide (dies ≤ 4))) ||
    (lvl == 2 && dies != 1) || (decide (lvl < 4) && rset != 0) ||
    (lvl == 4 && (SMap.find? s.podSets (ctx * 16 + rset)).isNone)
  let target := carg % 64
  let bad6 := (ckind == 1 && caddr % 8 != 0) || (ckind == 2 && caddr % 64 != 0) ||
    (ckind != 0 && decide (2 ^ 57 ≤ caddr)) ||
    (ckind == 2 && ((s.queueOf target).ctx != some ctx || (target == 0 && ctx != 0))) ||
    (ctrbase % 4096 != 0 && !(recDeps r).isEmpty)
  (if bad2 then [2] else []) ++ (if bad3 then [3] else []) ++ (if bad4 then [4] else []) ++
    (if bad5 then [5] else []) ++ (if bad6 then [6] else [])

/-- R341: a %launchid that no live launch has. -/
def State.nextLaunch (s : State) : Nat :=
  ((List.range (s.launches.length + 1)).map fun i => (s.launchNext + i) % 2 ^ 32).find?
    (fun n => !(s.launches.any fun l => l.id == n)) |>.getD 0

/-- The launch that a record makes (R339, R341). -/
def State.recLaunch (s : State) (q ctx ctrbase prio : Nat) (k : KDesc) (r : Nat) : Launch :=
  let flags := fieldAt r 25 1
  let stride := fieldAt r 16 4
  { id := s.nextLaunch, ctx := ctx, queue := q, die := s.deskOf q, priority := prio, kaddr := fieldAt r 0 8,
    k := k, affbase := fieldAt r 8 8,
    affstride := if stride < 2 ^ 31 then (stride : Int) else (stride : Int) - 2 ^ 32,
    count := fieldAt r 20 4, det := k.modes.testBit 0 || flags.testBit 0,
    lchk := k.modes.testBit 1 || flags.testBit 1, xchk := flags.testBit 2, idem := flags.testBit 3,
    eclass := fieldAt r 26 1 % 16, rlvl := fieldAt r 27 1 % 8, rcores := fieldAt r 28 1,
    rdies := fieldAt r 29 1, rset := ctx * 16 + fieldAt r 30 1 % 16, pbound := fieldAt r 32 4,
    ckind := flags / 16 % 4, carg := fieldAt r 36 4, caddr := fieldAt r 40 8,
    deps := (recDeps r).map fun d => (ctrbase + 8 * d.1, d.2), ready := false, readySince := 0,
    waitSince := [], unfit := none, next := 0, runs := [], ended := 0, res := none, complete := false,
    logBase := 0, logCap := 0, replays := [] }

/-! ### Dependences (R342) -/

/-- The address that stands for a dependence that never holds. -/
def neverHolds : Nat := 2 ^ 57

def State.launchById (s : State) (id : Nat) : Option Launch := s.launches.find? fun l => l.id == id

/-- What a desk's read of a counter finds. -/
inductive DepState where
  | holds | waits (line : Nat) | never
  deriving DecidableEq, Repr

/-- Reads one counter. -/
def State.depState (s : State) (ctx : Nat) (d : Nat × Nat) : DepState :=
  match s.ctxSpans ctx d.1 8 false with
  | some l => if d.2 ≤ s.readSpans l then .holds else .waits ((l.head?.map Span.at_).getD 0 / 128)
  | none => .never

/-- R342: reads the counters of a launch that is not ready; it becomes ready, or its counters are watched. -/
def State.checkReady (s : State) (id : Nat) : State :=
  match s.launchById id with
  | none => s
  | some l =>
    if l.ready || l.complete then s
    else
      let states := l.deps.map fun d => (d, s.depState l.ctx d)
      let newly := states.any fun x => x.2 == .never && x.1.1 != neverHolds
      -- the walks to the counters set A (R330)
      let s := states.foldl (fun s x => if x.2 = .never then s else s.touchPages l.ctx false 2 x.1.1 8) s
      let s1 := if newly then s.queueErr l.queue 0x06 else s
      let deps := states.map fun x => if x.2 = .never then (neverHolds, x.1.2) else x.1
      let ready := states.all fun x => x.2 == .holds
      let upd (l : Launch) : Launch :=
        if l.id = id then { l with deps := deps, ready := ready, readySince := s.gtime } else l
      let s2 := { s1 with launches := s1.launches.map upd }
      if ready then s2.queueEvent l.queue l.ctx l.id 2 l.id
      else states.foldl (fun s x => match x.2 with
        | .waits line => s.deskWatch line (.counterWatchWake line)
        | _ => s) s2

/-- Performs a step of a desk at once, or once the die that it takes place on is awake (R360). -/
def State.onceAwake (s : State) (die : Option Nat) (i : Instr) (s' : State) : State :=
  let waits : State := { s with host := { s.host with waits := s.host.waits ++ [i] } }
  if s.devPower = 4 then waits.later (.powerWake .device)
  else match die with
    | some d => if (s.dieSt d).power = 3 then waits.later (.powerWake (.die d)) else s'
    | none => s'

/-- Whether a launch waits for a counter on a line. -/
def State.waitsOn (s : State) (line : Nat) (l : Launch) : Bool :=
  !l.ready && l.deps.any fun d => match s.depState l.ctx d with
    | .never => false
    | .holds => (match s.ctxSpans l.ctx d.1 8 false with
      | some (p :: _) => p.at_ / 128 == line | _ => false)
    | .waits n => n == line

def execCounterWatchWake (line : Nat) (s : State) : Out :=
  .next (s.onceAwake (homeDie (128 * line)) (.counterWatchWake line)
    ((s.launches.filter (s.waitsOn line)).foldl (fun s l => s.checkReady l.id)
      { s with wants := s.wants.filter fun x => !(x.2 == .counterWatchWake line) }))

/-! ### Dequeue (R341) -/

/-- Records that a desk's pending table holds. -/
def pendingCap : Nat := 256

/-- Whether a launch stands in its desk's pending table. -/
def Launch.pending (l : Launch) : Bool := decide (l.next < l.count) && !l.complete

def State.pendingOf (s : State) (die : Nat) : Nat := (s.launches.filter fun l => l.die == die && l.pending).length

/-- R341: when a desk has room again, its queues are read again. -/
def State.roomAgain (s before : State) : State :=
  if (List.range 4).any fun d => decide (pendingCap ≤ before.pendingOf d) && decide (s.pendingOf d < pendingCap) then
    (s.queues.filter fun x => x.2.enable).foldl (fun s x => s.later (.deviceQueueWake x.1)) s
  else s

/-- One dequeued record: rejected, or made a launch whose counters are read. -/
def State.takeRecord (s : State) (q ctx r : Nat) : State :=
  let ctrbase := BMap.readNat s.mem (s.cbAt q + 32) 8
  let prio := BMap.readNat s.mem (s.cbAt q + 44) 1 % 8
  let reject (code : Nat) : State := (s.queueReject q code).queueEvent q ctx (2 ^ 32 - 1) 1 code
  match s.kernelAt ctx (fieldAt r 0 8) with
  | none => reject 1
  | some k =>
    -- the desk's walk to the descriptor sets A (R330)
    let s := s.touchPages ctx false 2 (fieldAt r 0 8) 64
    match s.recErrors ctx ctrbase k r with
    | code :: _ => reject code
    | [] =>
      let l := s.recLaunch q ctx ctrbase (if q = 0 then 0 else prio) k r
      let s1 := (s.updQueue q fun d => { d with accepted := (d.accepted + 1) % 2 ^ 64 }).writeCb q false
      let s2 := { s1 with launches := s1.launches ++ [l], launchNext := (l.id + 1) % 2 ^ 32 }
      (s2.queueEvent q ctx l.id 0 l.id).checkReady l.id

/-- R341: one DEQ of an enabled queue; whether a record was dequeued. -/
def State.serveQueue (s : State) (q : Nat) : Bool × State :=
  let d := s.queueOf q
  if !d.enable || (s.dieSt (s.deskOf q)).off || decide (pendingCap ≤ s.pendingOf (s.deskOf q)) then (false, s)
  else
    let ctx := d.ctx.getD 0
    let r := s.ringAt (s.cbAt q)
    if r.valid && r.esize != 64 then (false, s.queueErr q 0x08)
    else match s.deqAt ctx (s.cbAt q) 0 with
      | .error _ => (false, s.queueErr q 0x08)
      | .ok (st, elem, _, s1) => if st = ringFull then (false, s1) else (true, s1.takeRecord q ctx elem)

/-- Whether a launch waits to enqueue its follow-up record on a queue (R343). -/
def Launch.waitsFor (l : Launch) (q : Nat) : Bool := l.complete && l.ckind == 2 && l.carg % 64 == q

/-- R359: the least LATTOL among the enabled queues; none for no bound. -/
def State.leastLattol (s : State) : Option Nat :=
  leastOf ((s.queues.filter fun x => x.2.enable).filterMap fun x =>
    let v := BMap.readNat s.mem (s.cbAt x.1 + 40) 4
    if v = 2 ^ 32 - 1 then none else some v)

/-- Whether a wake time is within L. -/
def State.latencyOk (s : State) (ns : Nat) : Bool :=
  match s.leastLattol with | none => true | some l => decide (ns ≤ l)

/-- R358: the wake time of a core's power state. -/
def coreWake (power : Nat) : Nat := if power = 2 then 15000 else 100

/-- R359: the units whose state L no longer allows wake. -/
def State.latencyWakes (s : State) : State :=
  let cores := (s.cores.filter fun c => c.2.power != 0 && !s.latencyOk (coreWake c.2.power)).map fun c =>
    Instr.powerWake (.core c.1)
  let dies := (s.dies.filter fun d => d.2.power == 3 && !s.latencyOk 1500000).map fun d =>
    Instr.powerWake (.die d.1)
  { s with agenda := s.agenda ++ dies ++ cores }

/-- R341: the desk serves the two queues of a control-block line, and goes on until nothing is left; then
it watches the line again. -/
def execDeviceQueueWake (queue : Nat) (s : State) : Out :=
  let q := queue / 2 * 2
  let wake : Instr := .deviceQueueWake q
  let s := { s with wants := s.wants.filter fun x => x.2 != wake }
  let a := s.serveQueue q
  let b := a.2.serveQueue (q + 1)
  let s1 := (b.2.launches.filter fun l => l.waitsFor q || l.waitsFor (q + 1)).foldl
    (fun s l => s.later (.completionActionRetry l.id)) b.2.latencyWakes
  .next (s.onceAwake (some (s.deskOf q)) wake
    (if a.1 || b.1 then s1.later wake
    else if (s1.queueOf q).enable || (s1.queueOf (q + 1)).enable then s1.deskWatch (s1.cbAt q / 128) wake
    else s1))

/-! ### Completion (R343) -/

/-- What a completion action comes to. -/
inductive ActionEnd where
  | done (s : State)
  | full
  | fault

/-- Performs a completion action. -/
def State.actionOf (s : State) (l : Launch) : ActionEnd :=
  match l.ckind with
  | 1 =>
    let acc : Acc := { lane := 0, addr := some l.caddr, size := 8, align := 8, read := true, write := true,
                       win := .globalOnly, host := false, thread := false, ctx := l.ctx }
    match s.check acc with
    | .ok (.here p) => .done ((s.touch acc).writeSpans p ((s.readSpans p + l.carg) % 2 ^ 64))
    | _ => .fault
  | 2 =>
    let q := l.carg % 64
    if (s.queueOf q).ctx ≠ some l.ctx then .fault
    else match s.readCtx l.ctx l.caddr 64 with
      | none => .fault
      | some v =>
        match (s.touchPages l.ctx false 2 l.caddr 64).enqAt l.ctx (s.cbAt q) 0 64 v with
        | .error _ => .fault
        | .ok (st, s1) => if st = ringFull then .full else .done s1
  | _ => .done s

/-- Performs the completion action of a launch that has completed; the launch is over unless the target
queue is full. -/
def State.finishLaunch (s : State) (id : Nat) : State :=
  match s.launchById id with
  | none => s
  | some l =>
    if !l.complete then s
    else
      let drop (s : State) : State := { s with launches := s.launches.filter fun x => x.id != id }
      match s.actionOf l with
      | .done s1 => drop (if l.ckind = 0 then s1 else s1.queueEvent l.queue l.ctx l.id 3 l.id)
      | .full => s.deskWatch (s.cbAt (l.carg % 64) / 128) (.deviceQueueWake (l.carg % 64 / 2 * 2))
      | .fault => drop (if (s.queueOf l.queue).ctx = some l.ctx then s.queueReject l.queue 0x07 else s)

/-- Frees a reservation's staging regions, launch array states and circuit plans (R205, R347, R379). -/
def State.freeRes (s : State) (key : Nat) : State :=
  let mine := (s.plans.filter fun x => x.2 == key + 1).map Prod.fst
  let s1 := s.idleFrom ((s.stages.filter fun g => g.key == key).map fun g => g.core)
  { s1 with
    stages := s.stages.filter fun g => g.key != key
    routers := s.routers.filter fun x => !mine.contains (x.1 / 256)
    plans := s.plans.filter fun x => x.2 != key + 1 }

/-- A message about a launch's reservation: kind 2 asks for it, 3 frees it (log entry 21). -/
def State.podMsg (s : State) (l : Launch) (kind dst tag : Nat) : Msg :=
  { (default : Msg) with
    type := 0x0F, dst := dst, src := s.devloc.toNat, ctx := l.ctx, kind := kind
    addr := (((l.affbase : Int)) % 2 ^ 57).toNat
    who := { launch := l.id, block := 0, group := 0 }
    rtag := { combined := false, hop := 0, entry := 0, stag := tag }
    ops := [(l.rdies, l.rcores, l.k.stage), (l.die, l.rset, 0), (l.k.ncirc, l.k.circbase, 0)] }

/-- Tells the other devices of a launch's pod set that it holds no reservation any more. -/
def State.releasePod (s : State) (l : Launch) : State :=
  ((SMap.get [] s.podSets l.rset).filter fun d => d != s.devloc.toNat).foldl
    (fun s d => s.post (s.podMsg l 3 d 0)) s

/-- Frees what a launch holds, here and on the devices of its pod set. -/
def State.freeLaunch (s : State) (id : Nat) : State :=
  let asked (l : Launch) : Bool := l.res.isSome || s.jobs.any fun j => j.kind == .reserve l.id
  let s1 := match s.launchById id with
    | some l => if decide (l.rlvl = 4) && asked l then s.releasePod l else s
    | none => s
  let s2 := s1.freeRes id
  { s2 with
    jobs := s2.jobs.filter fun j => j.kind != .reserve id
    launches := s2.launches.map fun l => if l.id = id then { l with res := none } else l }

def execLaunchComplete (launch : Nat) (s : State) : Out :=
  .next (match s.launchById launch with
    | none => s
    | some l =>
      if l.ended ≠ l.count ∨ l.complete then s
      else
        let s1 := s.freeLaunch launch
        let done (l : Launch) : Launch := if l.id = launch then { l with complete := true } else l
        State.finishLaunch { s1 with launches := s1.launches.map done } launch)

def execCompletionActionRetry (launch : Nat) (s : State) : Out := .next (s.finishLaunch launch)

/-! ### The runtime's part (R178, R270, R335, R414) -/

/-- R335, R414: the runtime allots a device queue to a context. One that changes its context is emptied unread first. -/
def State.allotQueue (s : State) (q ctx : Nat) (enable hosten : Bool) : State :=
  let cb := s.cbAt q
  let fresh := (s.queueOf q).ctx != some ctx
  let d : DQueue := if fresh then { s.queueOf q with rejects := 0, errcode := 0, accepted := 0 } else s.queueOf q
  let s1 := if fresh then
      (s.writeSpans (memSpan cb 8) (BMap.readNat s.mem (cb + 8) 8)).writeSpans (memSpan (cb + 45) 1) 0
    else s
  let s2 := s1.updQueue q fun _ => { d with ctx := some ctx, enable := enable, hosten := hosten }
  (s2.writeCb q false).later (.deviceQueueWake (q / 2 * 2))

/-- Whether an object of a live context has been loaded: its capability list is fixed from then on (R36). -/
def State.hasStarted (s : State) (ctx : Nat) : Bool :=
  match s.findCtx ctx with
  | some c => c.live && (c.started || (s.groups.any fun g => g.p.ctx == ctx) || s.launches.any fun l => l.ctx == ctx)
  | none => false

/-- R178: the runtime allots a receive queue to a context, and says so in the capability lists. -/
def State.allotReceive (s : State) (q ctx : Nat) : State :=
  let old := SMap.get default s.rxq q
  let set (c : Ctx) : Ctx :=
    if c.id = ctx then { c with rxMask := c.rxMask ||| 2 ^ q }
    else { c with rxMask := if c.rxMask.testBit q then c.rxMask - 2 ^ q else c.rxMask }
  let s1 := s.needCtx ctx
  let s2 : State := { s1 with
    rxq := SMap.set default s1.rxq q { ctx := some ctx, entries := if old.ctx = some ctx then old.entries else [] }
    ctxs := s1.ctxs.map set }
  (match old.ctx with | some c => s2.writeCaps c | none => s2).writeCaps ctx

/-- Whether allotting a receive queue to a context leaves the list of every context that has started as it is. -/
def State.mayAllot (s : State) (q ctx : Nat) : Bool :=
  !s.hasStarted ctx && (match (SMap.get default s.rxq q).ctx with | some c => !s.hasStarted c | none => true)

/-- R335, R178, R36: an allotment, turned away where it would give queue 0 to another context than the system context,
or change the list of a context that has started. -/
def execQueueAllotment (queue : Nat) (receive : Bool) (ctx : Nat) (enable hosten : Bool) (s : State) : Out :=
  let q := queue % 64
  .next (if receive then (if s.mayAllot q ctx then s.allotReceive q ctx else s)
    else if q = 0 ∧ ctx ≠ 0 then s
    else (s.needCtx ctx).allotQueue q ctx enable hosten)

/-- R270: the service enqueues a record of one block for the translator kernel on the system queue. -/
def execTranslatorKernelStart (s : State) : Out :=
  let r := Config.translatorKernel % 2 ^ 57 + 2 ^ 160
  .next (match s.enqAt 0 (s.cbAt 0) 0 64 r with
    | .ok (_, s1) => s1
    | .error _ => s)

end Sys2Proof.Machine
end

