-- ==== Sys2Proof/Machine/Place.lean ====
section
/-! DEFINITION. Choosing and placing blocks: energy budgets (R345, R346), reservations and circuit plans
(R347, R379), cores and partitions (R348, R349), and the beginning of a block (R10, R14, R15). -/

namespace Sys2Proof.Machine

/-! ### Energy (R346) -/

/-- Four times f(T), for a junction temperature in °C. -/
def tempFactor (t : Nat) : Nat := if t < 85 then 4 else if t < 95 then 3 else if t < 105 then 2 else 0

/-- A die's refill in units of 1/16000 µJ in each ns: (C − 200 W)/4 × f(T). -/
def State.refillRate (s : State) (die : Nat) : Nat := (s.host.pcap - 200) * tempFactor (NMap.get s.host.temps die)

/-- A die's budget now: refilled, and capped at 1 ms of refill. -/
def State.energyOf (s : State) (die : Nat) : Nat :=
  let d := s.dieSt die
  min (d.energy + (s.gtime - d.at_) * s.refillRate die) (1000000 * s.refillRate die)

def State.setDie (s : State) (die : Nat) (f : DieSt → DieSt) : State :=
  { s with dies := SMap.set default s.dies die (f (s.dieSt die)) }

/-- Brings a die's budget up to now, less a debit. -/
def State.settle (s : State) (die debit : Nat) : State :=
  s.setDie die fun d => { d with energy := s.energyOf die - debit, at_ := s.gtime }

/-- The class that a desk has learned for a descriptor. -/
def learnedClass (l : List Learned) (ctx kaddr : Nat) : Nat :=
  match l.find? fun x => x.ctx == ctx && x.kaddr == kaddr with
  | none => 8
  | some x => (((List.range 15).map (· + 1)).find? fun c => decide (x.energy ≤ 2 ^ c * x.blocks)).getD 15

def State.classOf (s : State) (l : Launch) : Nat :=
  if l.eclass = 0 then learnedClass s.learned l.ctx l.kaddr else l.eclass

/-- The debit of a block of a class. -/
def blockDebit (c : Nat) : Nat := 2 ^ c * 16000

def State.fits (s : State) (l : Launch) (die : Nat) : Bool := decide (blockDebit (s.classOf l) ≤ s.energyOf die)

/-! ### Cores (R314, R348, R349) -/

/-- The least distance of any core to a stack. -/
def leastDistance (stack : Nat) : Nat := (leastOf (allCores.map fun c => distance c stack)).getD 0

/-- Whether a block runs on a core. -/
def runsOn (core : Nat) (r : BlockRun) : Bool :=
  match r.stat with | .running c _ => c == core | _ => false

/-- Whether a block has been saved. -/
def BlockRun.isSaved (r : BlockRun) : Bool := r.stat == .saved

def Launch.runOf (l : Launch) (block : Nat) : Option BlockRun := l.runs.find? fun r => r.index == block

/-- Whether a group stands on a core: its block is not saved. -/
def State.standsOn (s : State) (core : Nat) (g : Group) : Bool :=
  g.p.core == core &&
  (match (s.launchById g.p.id.launch).bind fun l => l.runOf g.p.id.block with
    | some r => !r.isSaved | none => true)

/-- The owner entry of a granule of an allocation (R317): STATE, RCNT, and ALLOC 1. -/
def Owner.word : Owner → Nat
  | .t => 1
  | .e => 2 ^ 14 + 1
  | .s n => 2 * 2 ^ 14 + n % 256 * 2 ^ 6 + 1

/-- The owner entries of a block's allocation. -/
def State.blockOwners (s : State) (l : Launch) (r : BlockRun) : List Nat :=
  let owner := ((s.findBlock l.id r.index).map Block.owner).getD []
  (List.range (l.k.scratch / 4096)).map fun g => (SMap.get .t owner g).word

/-- R317: the owner table of a core: the allocations of its blocks, its staging regions, whose granules stay in T, and
the free granules, which read 0. Which granule an allocation has is not seen; the table lists them in this order. -/
def State.ownerTable (s : State) (core : Nat) : List Nat :=
  let blocks := s.launches.flatMap fun l => (l.runs.filter (runsOn core)).flatMap (s.blockOwners l)
  let stages := (s.stages.filter fun g => g.core == core).flatMap fun g => List.replicate (g.size / 4096) (Owner.word .t)
  let held := blocks ++ stages
  held ++ List.replicate (256 - held.length) 0

/-- Scratchpad granules in use on a core (R314): those with ALLOC set. -/
def State.granulesUsed (s : State) (core : Nat) : Nat := ((s.ownerTable core).filter fun w => w % 2 == 1).length

def State.granulesFree (s : State) (core : Nat) : Nat := 256 - s.granulesUsed core

/-- The register windows of a group: those of its translation, else the smallest (R243). -/
def State.windows (s : State) (ctx entry : Nat) (xchk : Bool) : Nat × Nat × Nat :=
  match s.xlats.find? fun t => t.ctx == ctx && t.entry == entry && t.xchk == xchk with
  | some t => (t.vw0, t.vw1, t.sw)
  | none => (16, 16, 16)

/-- What a partition holds: its slots in use, and the sums of its groups' windows. -/
structure PartUse where
  slots : List Nat
  v0 : Nat
  v1 : Nat
  sw : Nat
  deriving DecidableEq, Repr

def State.partUse (s : State) (core part : Nat) : PartUse :=
  (s.groups.filter fun g => g.p.part == part && s.standsOn core g).foldl
    (fun u g =>
      let w := s.windows g.p.ctx g.u.entry g.u.xchk
      { slots := u.slots ++ [g.p.slot], v0 := u.v0 + w.1, v1 := u.v1 + w.2.1, sw := u.sw + w.2.2 })
    { slots := [], v0 := 0, v1 := 0, sw := 0 }

/-- Whether a partition can take a group of the given windows (R243). -/
def PartUse.takes (u : PartUse) (w : Nat × Nat × Nat) : Bool :=
  decide (u.slots.length < 16) && decide (u.v0 + w.1 ≤ 1024) && decide (u.v1 + w.2.1 ≤ 1024) &&
    decide (u.sw + w.2.2 ≤ 4096)

/-- The lowest slot that is free. -/
def PartUse.freeSlot (u : PartUse) : Nat := ((List.range 16).find? fun n => !u.slots.contains n).getD 0

/-- R349: places `n` groups of the given windows, in ascending index, each in the partition with the fewest
groups that can take it; none when some group finds no place. -/
def seat (w : Nat × Nat × Nat) : Nat → List (Nat × PartUse) → Option (List (Nat × Nat))
  | 0, _ => some []
  | n + 1, parts =>
    let fit := parts.filter fun p => p.2.takes w
    match (sortBy (fun a b : Nat × PartUse => decide (a.2.slots.length ≤ b.2.slots.length)) fit).head? with
    | none => none
    | some (p, u) =>
      let u' : PartUse := { slots := u.slots ++ [u.freeSlot], v0 := u.v0 + w.1, v1 := u.v1 + w.2.1,
                            sw := u.sw + w.2.2 }
      (seat w n (parts.map fun x => if x.1 = p then (p, u') else x)).map fun t => (p, u.freeSlot) :: t

/-- The partitions and slots that a launch's block would take on a core. -/
def State.seats (s : State) (l : Launch) (core : Nat) : Option (List (Nat × Nat)) :=
  seat (s.windows l.ctx l.k.entry l.xchk) l.k.groups ((List.range 8).map fun p => (p, s.partUse core p))

/-- Whether a pre-emption in progress holds a core. -/
def State.preempting (s : State) (core : Nat) : Bool :=
  s.launches.any fun l => l.runs.any fun r => runsOn core r && r.preempt != .none

/-- R348: whether a core is free for a block of a launch. -/
def State.coreFree (s : State) (l : Launch) (core : Nat) : Bool :=
  !(s.dieSt (dieOf core)).off && decide (l.k.scratch / 4096 ≤ s.granulesFree core) &&
    !s.preempting core && (s.seats l core).isSome

/-- The affinity address of a block (R15, R339). -/
def Launch.affinity (l : Launch) (block : Nat) : Nat :=
  (((l.affbase : Int) + block * l.affstride) % 2 ^ 57).toNat

/-- The stack that holds a local address of a context, if any (R313). -/
def State.stackAt (s : State) (ctx va : Nat) : Option Nat :=
  match s.leafOf ctx {} va with
  | .ok f => if f.pa va < paHost then some (stackOf (f.pa va)) else none
  | .error _ => none

/-- A core's power state (R358). -/
def State.coreSt (s : State) (core : Nat) : CoreSt := SMap.get default s.cores core

/-- R348: the core that a block goes to: the least distance, an awake core, the lowest number. With `far`,
anywhere; otherwise within two hops of the nearest core. -/
def State.pickCore (s : State) (l : Launch) (block : Nat) (far : Bool) : Option Nat :=
  let free := allCores.filter (s.coreFree l)
  let asleep (c : Nat) : Nat := if (s.coreSt c).power = 0 then 0 else 1
  match s.stackAt l.ctx (l.affinity block) with
  | none => (sortBy (fun a b => lexLe a.1 b.1) (free.map fun c => ([asleep c, c], c))).head?.map Prod.snd
  | some st =>
    let least := leastDistance st
    let near := if far then free else free.filter fun c => decide (distance c st ≤ least + 2)
    (sortBy (fun a b => lexLe a.1 b.1) (near.map fun c => ([distance c st, asleep c, c], c))).head?.map Prod.snd

/-! ### Reservations (R347, R379) -/

/-- What a launch asks of a device for its reservation: its context, the key of its state there, block 0's affinity
address, its desk's die, and its RDIES, RCORES, STAGE, RSET and circuit plans. -/
structure ResAsk where
  ctx : Nat
  key : Nat
  aff : Nat
  die : Nat
  rdies : Nat
  rcores : Nat
  stage : Nat
  set_ : Nat
  ncirc : Nat
  circ : Nat
  deriving DecidableEq, Repr

def Launch.ask (l : Launch) : ResAsk :=
  { ctx := l.ctx, key := l.id, aff := l.affinity 0, die := l.die, rdies := l.rdies, rcores := l.rcores,
    stage := l.k.stage, set_ := l.rset, ncirc := l.k.ncirc, circ := l.k.circbase }

/-- The cores of one die that a reservation takes, if enough qualify. -/
def State.reserveOn (s : State) (a : ResAsk) (die : Nat) : Option (List Nat) :=
  let ok (c : Nat) : Bool := decide (a.stage / 4096 ≤ s.granulesFree c) &&
    decide ((s.stages.filter fun g => g.core == c).length < Config.launchStates)
  let cores := (allCores.filter fun c => dieOf c == die && ok c).map fun c => ([distance c (3 * die), c], c)
  let best := (sortBy (fun a b => lexLe a.1 b.1) cores).map Prod.snd
  if (s.dieSt die).off || decide (best.length < a.rcores) then none else some (best.take a.rcores)

/-- The reservation that can be obtained on this device now. -/
def State.reservation (s : State) (a : ResAsk) : Option Reservation :=
  let first := match s.stackAt a.ctx a.aff with | some st => st / 3 | none => a.die
  let dies := (List.range a.rdies).map fun k => (first + k) % 4
  let cores := dies.map (s.reserveOn a)
  if cores.all Option.isSome then
    some { dies := dies, cores := cores.flatMap fun c => c.getD [], set_ := a.set_ }
  else none

/-- One circuit plan as (slot, entry) pairs, and the address of the next (R377, R378). -/
def State.planAddr (s : State) (ctx a : Nat) : List (Nat × Nat) × Nat :=
  let n := (s.readCtx ctx a 2).getD 0
  let entry (i : Nat) : Nat × Nat :=
    let e := (s.readCtx ctx (a + 8 + 4 * i) 4).getD 0
    (e % 256, 1 + (if e.testBit 14 then 2 else 0) + e / 256 % 8 * 4 + e / 2 ^ 11 % 8 * 32)
  ((List.range (min n 256)).map entry, (a + 8 + 4 * n + 7) / 8 * 8)

/-- The n-th plan from an address, counting from 1. -/
def State.planNo (s : State) (ctx a : Nat) : Nat → List (Nat × Nat)
  | 0 => []
  | 1 => (s.planAddr ctx a).1
  | n + 2 => s.planNo ctx (s.planAddr ctx a).2 (n + 1)

/-- Loads a plan into one router, which keeps another launch's (R379). -/
def State.loadPlan (s : State) (a : ResAsk) (plan : List (Nat × Nat)) (router : Nat) : State :=
  if NMap.get s.plans router ≠ 0 ∧ NMap.get s.plans router ≠ a.key + 1 then
    s.updCtx a.ctx fun c => { c with fabricEvents := c.fabricEvents + 1 }
  else
    { s with
      plans := NMap.set s.plans router (a.key + 1)
      routers := plan.foldl (fun m x =>
        SMap.set [] m (256 * router + x.1) (SMap.get [] m (256 * router + x.1) ++ [x.2])) s.routers }

/-- Takes a reservation: staging regions, launch array states, and circuit plans. -/
def State.takeRes (s : State) (a : ResAsk) (r : Reservation) : State :=
  let stage (c : Nat) : Stage := { core := c, key := a.key, size := a.stage, mem := [], arr := ArraySt.new }
  let s1 : State := { s with stages := s.stages ++ r.cores.map stage }
  if a.ncirc = 0 then s1
  else r.dies.zipIdx.foldl (fun s (die, k) =>
    (r.cores.filter fun c => dieOf c == die).foldl
      (State.loadPlan · a (s1.planNo a.ctx a.circ (min (k + 1) a.ncirc))) s) s1

/-- A launch takes its reservation. -/
def State.reserve (s : State) (l : Launch) (r : Reservation) : State :=
  (s.takeRes l.ask r).updLaunch l.id fun x => { x with res := some r }

/-! ### Blocks begin and resume (R10, R14, R15, R354, R355) -/

/-- A group as it begins. -/
def State.newGroup (s : State) (l : Launch) (block core index : Nat) (at_ : Nat × Nat) (pbase : Nat) : Group :=
  { Group.reset with
    present := true
    p := { id := { launch := l.id, block := block, group := index }, ctx := l.ctx, core := core,
           part := at_.1, slot := at_.2, priority := l.priority }
    u := { det := l.det, lchk := l.lchk, xchk := l.xchk, super := l.ctx == 0,
           trapEntry := if l.k.trap = 0 then none else some l.k.trap, entry := l.k.entry, kdesc := l.kaddr,
           pbase := pbase, scratch := l.k.scratch }
    r := ((Regs.reset.moveTo lanes l.k.entry).setS 1 (BitVec.ofNat 64 l.kaddr)).setS 2
      (BitVec.ofNat 64 (l.affinity block))
    privBytes := l.k.priv, lastIssue := s.tick, issuedAt := s.gtime }

/-- Puts a group of a block on its core, its private region mapped. -/
def State.addGroup (s : State) (l : Launch) (block core index : Nat) (at_ : Nat × Nat) : State :=
  let pbase := Config.privRegion s.free % privPages * 4096
  let s1 := ({ s with free := s.free + 1 } : State).mapRange l.ctx pbase (privSize l.k.priv) true false
  { s1 with others := s1.others ++ [s1.newGroup l block core index at_ pbase] }

/-- Wakes a core that sleeps for a block placed on it (R360). -/
def State.wakeCore (s : State) (core : Nat) : State :=
  if (s.coreSt core).power = 0 then s else s.later (.powerWake (.core core))

/-- Notes where a block stands. -/
def Launch.setRun (l : Launch) (block : Nat) (stat : BStat) : Launch :=
  if (l.runOf block).isSome then
    l.updRun block fun r => { r with stat := stat, preempt := .none, victimOf := [] }
  else
    { l with runs := l.runs ++ [{ index := block, stat := stat, preempt := .none, victimOf := [], ran := 0,
                                  energy := 0, area := [] }],
             next := max l.next (block + 1) }

/-- The bytes of a block's log as it begins: whole entries, and one at least (R396). -/
def Launch.logRoom (l : Launch) : Nat := max 16 (l.logCap / 16 * 16)

/-- A block begins on a core, with all its groups (R10); one that is to run again with its log replays it (R396). -/
def State.startBlock (s : State) (l : Launch) (block core : Nat) (seats : List (Nat × Nat)) : State :=
  let old := if l.replays.contains block then
      (s.oldLogs.find? fun o => o.l.id == l.id && o.block == block).map fun o => { o.log with replay := true } else none
  let log : Option RLog := old.orElse fun _ => if l.logCap = 0 then none else
    some { base := l.logBase + block * l.logRoom, cap := l.logRoom / 16, used := 0, off := false, replay := false }
  let b : Block := { launch := l.id, block := block, scratch := [], poison := [], owner := [], arrivals := [], resets := [],
                     log := log }
  let s1 := { s with blocks := s.blocks ++ [b] }
  (seats.zipIdx.foldl (fun s (x, i) => s.addGroup l block core i x) s1).updLaunch l.id fun l =>
    { l.setRun block (.running core s.gtime) with replays := l.replays.filter fun b => b != block }

/-- The operations of a group, in the order in which they were handed over: those that their executors have left stand in
the queues again, and go on with the children that are left (R204, R208). -/
def State.resumeRecs (s : State) (g : Group) : State :=
  (sortBy (fun a b : Nat × TRec => decide (a.2.at_ ≤ b.2.at_)) (g.recs.filter fun x => x.2.state == 1)).foldl (fun s x =>
    if List.any s.execQ (fun q => q.2.contains (g.p.id, x.1)) then s
    else if s.recBusy g.p.id x.1 then
      let key := s.execKey g.p.id x.2.level
      if x.2.level = 0 then s
      else { s with execQ := SMap.set [] s.execQ key (SMap.get [] s.execQ key ++ [(g.p.id, x.1)]) }
    else s.handOver g.p.id g.p.ctx x.1) s

/-- Takes a group's operations out of their executors' queues and lets the next ones begin; one whose children of level 2
or above still run keeps its executor until they end, unless `all` holds. -/
def State.leaveQueues (s : State) (g : Group) (all : Bool) : State :=
  (g.recs.filter fun x => x.2.state == 1 && decide (1 ≤ x.2.level)).foldl (fun s x =>
    if !all && decide (2 ≤ x.2.level) && s.recBusy g.p.id x.1 then s
    else
      let key := s.execOf g.p.id x.1 x.2.level
      let q := SMap.get [] s.execQ key
      let s1 := { s with execQ := SMap.set [] s.execQ key (q.filter fun y => y != (g.p.id, x.1)) }
      if q.head? = some (g.p.id, x.1) then
        match SMap.get [] s1.execQ key with
        | [] => s1
        | (w, n) :: _ => (s1.startHead key).afterChild w n 64
      else s1) s

/-- The groups of a block. -/
def isOf (launch block : Nat) (g : Group) : Bool := g.p.id.launch == launch && g.p.id.block == block

def State.groupsOf (s : State) (launch block : Nat) : List Group := s.groups.filter (isOf launch block)

/-- R356: all the block's state is discarded; it becomes unplaced. -/
def State.flushBlock (s : State) (launch block : Nat) : State :=
  let mine (who : GRef) : Bool := who.launch == launch && who.block == block
  let s1 := (s.groupsOf launch block).foldl
    (fun s g => (s.leaveQueues g true).releaseLease g.p.core g.p.id) s
  let s2 := s1.removeBlock launch block
  ({ s2 with
    jobs := s2.jobs.filter fun j => !mine j.who
    shelf := s2.shelf.filter fun e => match e.who with | some w => !mine w | none => true
    joins := s2.joins.filter fun j => !(mine j.member.who && j.member.msg.isNone)
    sets := s2.sets.map fun o =>
      { o with members := o.members.filter fun m => !(mine m.who && m.msg.isNone) } } : State).updLaunch
    launch fun l => l.updRun block fun r =>
      { r with stat := .unplaced, preempt := .none, victimOf := [], ran := 0, energy := 0, area := [] }

/-! ### Save images (R208) -/

/-- The save image of an array state: its header, whose opaque bytes have a number. -/
def saveImage (ctx launch n : Nat) (arr : ArraySt) (frozen ofLaunch : Bool) : SaveImage :=
  let len := (Config.imageLen n % 16384 + 1) * 64
  { version := Config.imageVersion % 65536, family := Config.steppingFamilyPred % 65535 + 1
    flags := (if frozen then 1 else 0) + (if arr.gflush then 2 else 0) + (if ofLaunch then 4 else 0)
    length := len, owner := ctx % 65536 + launch % 2 ^ 32 * 2 ^ 16
    digest := Config.shake256 ((List.range (len - 32)).map fun i => Config.imageByte (n * 2 ^ 20 + i) % 256) % 2 ^ 64
    bytes := n }

/-- Whether a core accepts a save image as it reads it back. -/
def SaveImage.accepted (im : SaveImage) (lost : Bool) : Bool :=
  im.version == Config.imageVersion % 65536 && im.family == Config.steppingFamilyPred % 65535 + 1 && !lost

/-- R208: the group whose save image is not accepted. -/
def State.badImage (s : State) (launch block : Nat) : Option Group :=
  (s.groupsOf launch block).find? fun g => match g.image with
    | some im => !im.accepted (Config.imageLost (s.free + g.p.id.group))
    | none => false

/-- R208: an image that is not accepted raises IMG to the resident runtime, which starts an idempotent block again, and
else ends the process. -/
def State.raiseImg (s : State) (l : Launch) (g : Group) : State :=
  if l.idem then s.flushBlock l.id g.p.id.block
  else
    let s1 := s.refocus g.p.id
    s1.takeTrap { cause := .img, va := 0, aux := 0 } s1.pc

/-- R355: a saved block's groups return to partitions and continue where they froze. -/
def State.resumeBlock (s : State) (l : Launch) (block core : Nat) (seats : List (Nat × Nat)) : State :=
  let back (g : Group) : Group :=
    if g.p.id.launch = l.id ∧ g.p.id.block = block then
      let at_ := seats.getD g.p.id.group (0, 0)
      { g with p := { g.p with core := core, part := at_.1, slot := at_.2 }, frozen := false, image := none }
    else g
  let s0 := (s.groupsOf l.id block).foldl (fun s g => if g.image.isSome then s.scanArray core else s) s
  let s1 : State := { s0 with g := back s0.g, others := s0.others.map back }
  let s2 := s1.updLaunch l.id fun l => l.setRun block (.running core s.gtime)
  let mine := s2.groups.filter fun g => g.p.id.launch == l.id && g.p.id.block == block
  mine.foldl (fun s g =>
    let s1 := s.resumeRecs g
    if g.asksLease then (s1.askLease core g.p.id).2.updGroup g.p.id fun g => { g with asksLease := false }
    else s1) s2

/-- The frames of a block's save area return (R354). -/
def State.freeArea (s : State) (launch block : Nat) : State :=
  match (s.launchById launch).bind fun l => l.runOf block with
  | none => s
  | some r => ({ s with freed := s.freed + r.area.length } : State).updLaunch launch fun l =>
      l.updRun block fun r => { r with area := [] }

/-- R348: the block that a launch places next: saved ones first, then unplaced ones, in ascending index. -/
def Launch.nextBlock (l : Launch) : Option Nat :=
  match leastOf ((l.runs.filter BlockRun.isSaved).map BlockRun.index) with
  | some b => some b
  | none =>
    leastOf ((l.runs.filter fun r => r.stat == .unplaced).map BlockRun.index ++
      (if l.next < l.count then [l.next] else []))

/-- A desk that has placed the last block of its ready launches has held none since then (R359). -/
def State.noteDesk (s : State) (die : Nat) : State :=
  if s.launches.any fun l => l.die == die && l.ready && l.nextBlock.isSome then s
  else s.setDie die fun d => { d with since := s.gtime }

/-- Places the next block of a launch on a core: the die's debit, the wake, and the block's begin or
resumption. -/
def State.place (s : State) (l : Launch) (block core : Nat) (seats : List (Nat × Nat)) : State :=
  let saved := match l.runOf block with | some r => r.isSaved | none => false
  let s1 := (s.settle (dieOf core) (blockDebit (s.classOf l))).wakeCore core
  let s2 := if !saved then s1.startBlock l block core seats
    else match s1.badImage l.id block with
      | some g => ({ s1 with free := s1.free + 32 } : State).raiseImg l g
      | none => (({ s1 with free := s1.free + 32 } : State).resumeBlock l block core seats).freeArea l.id block
  let s3 := s2.updLaunch l.id fun l => { l with waitSince := l.waitSince.filter fun x => x.1 != block, unfit := none }
  let fed (d : Nat × DieSt) : Nat × DieSt := (d.1, { d.2 with starved := d.2.starved.filter fun i => i != l.id })
  (({ s3 with dies := s3.dies.map fed } : State).noteDesk l.die).roomAgain s

end Sys2Proof.Machine
end

