-- ==== Sys2Proof/Machine/Desk.lean ====
section
/-! DEFINITION. Pre-emption (R352 to R356) and the desk's choice of launches and cores (R345, R347, R348). -/

namespace Sys2Proof.Machine

/-! ### Estimates (R353) -/

/-- Whether a group has array state to be scanned out: more than a new state, or a command that freezes (R208). -/
def State.hasImage (s : State) (g : Group) : Bool :=
  g.arr != ArraySt.new || s.jobs.any fun j => j.who == g.p.id && j.isArray

/-- The image that a group's array state is saved in, when there is one. -/
def State.imageFor (s : State) (g : Group) : Option SaveImage :=
  if s.hasImage g then
    some (saveImage g.p.ctx g.p.id.launch (s.free + g.p.id.group) g.arr
      (s.jobs.any fun j => j.who == g.p.id && j.isArray) false)
  else none

/-- The context bytes of a block (R353). -/
def State.contextBytes (s : State) (l : Launch) (block : Nat) : Nat :=
  ((s.groupsOf l.id block).map fun g =>
    let w := s.windows g.p.ctx g.u.entry g.u.xchk
    128 * (w.1 + w.2.1) + 8 * w.2.2 + 4096 + ((s.imageFor g).map SaveImage.length).getD 0).sum +
  l.k.scratch + 2 * (l.k.scratch / 4096)

/-- Whether a group waits for something that only another agent brings: drain has no bound (R353). -/
def waitsForOthers (g : Group) : Bool :=
  g.stall == .shelf || g.stall == .barrier || g.stall == .queue ||
  (match g.pend with | .faor _ => true | .shelf _ => true | _ => false)

/-- An option: its latency estimate and its cost; the options stand in the order of preference. -/
structure PreOption where
  choice : Preempt
  latency : Nat
  cost : Nat
  deriving DecidableEq, Repr

/-- R353: the ns to save context bytes at a core's measured rate. -/
def saveNs (core bytes : Nat) : Nat := bytes * 1000 / (Config.saveRate core + 1)

/-- R353: the ns to stop a block's groups and finish every operation up to the block's last one on each engine. -/
def State.flushNs (s : State) (launch block : Nat) : Nat :=
  let on (j x : Job) : Bool := decide (x.id ≤ j.id) && s.coreOf x.who == s.coreOf j.who &&
    (engineOf x.kind).map Prod.fst == (engineOf j.kind).map Prod.fst
  let mine := s.jobs.filter fun j => j.who.launch == launch && j.who.block == block
  let left := (mine.flatMap fun j => s.jobs.filter (on j)).map fun x => x.start + Config.engineNs x.id - s.gtime
  Config.stopNs s.free + left.foldl max 0

/-- The options for a block that runs on a core, drain first, then save, then flush. -/
def State.preOptions (s : State) (l : Launch) (r : BlockRun) (core bound : Nat) : List PreOption :=
  let known := s.learned.find? fun x => x.ctx == l.ctx && x.kaddr == l.kaddr
  let drain := match known with
    | some x =>
      if (s.groupsOf l.id r.index).any fun g => !g.ended && waitsForOthers g then []
      else [{ choice := .drain (s.gtime + bound), latency := x.time / x.blocks - r.elapsed s.gtime, cost := 0 }]
    | none => []
  let saveLat := saveNs core (s.contextBytes l r.index)
  drain ++
  (if Config.saveRoom s.free then [{ choice := .save, latency := saveLat, cost := 2 * saveLat }] else []) ++
  (if l.idem then [{ choice := .flush, latency := s.flushNs l.id r.index, cost := r.elapsed s.gtime }] else [])

/-- The first option of least `f`. -/
def leastBy (f : PreOption → Nat) : List PreOption → Option PreOption
  | [] => none
  | o :: t => match leastBy f t with
    | none => some o
    | some p => if f p < f o then some p else some o

/-- R353: the least cost among those that meet the bound, else the least latency; a drain of unbounded
latency is what is left when nothing else is available. -/
def State.preChoice (s : State) (l : Launch) (r : BlockRun) (core bound : Nat) : PreOption :=
  let os := s.preOptions l r core bound
  let meet := os.filter fun o => decide (o.latency ≤ bound)
  ((if meet.isEmpty then leastBy PreOption.latency os else leastBy PreOption.cost meet)).getD
    { choice := .drain (s.gtime + bound), latency := 0, cost := 0 }

/-! ### Requests (R352) -/

/-- Freezes a block's groups (R252, R354). -/
def State.freeze (s : State) (launch block : Nat) : State :=
  let f (g : Group) : Group := if isOf launch block g then { g with frozen := true } else g
  { s with g := f s.g, others := s.others.map f }

/-- Sets the pre-emption of a block; a save or a flush freezes its groups. -/
def State.beginPre (s : State) (launch block : Nat) (p : Preempt) (victimOf : List Nat) : State :=
  let s1 := s.updLaunch launch fun l => l.updRun block fun r => { r with preempt := p, victimOf := victimOf }
  match p with
  | .save => s1.freeze launch block
  | .flush => s1.freeze launch block
  | _ => s1

/-- A request for a block with a bound; a second request for it merges, and the smaller bound applies. -/
def State.preempt (s : State) (launch block bound : Nat) (victimOf : List Nat) : State :=
  match s.launchById launch with
  | none => s
  | some l => match l.runOf block with
    | none => s
    | some r => match r.stat, r.preempt with
      | .running core _, .none =>
        ({ s with free := s.free + 1 } : State).beginPre launch block (s.preChoice l r core bound).choice victimOf
      | .running _ _, .drain b =>
        s.beginPre launch block (.drain (min b (s.gtime + bound))) (r.victimOf ++ victimOf)
      | .running _ _, p => s.beginPre launch block p (r.victimOf ++ victimOf)
      | _, _ => s

def execRuntimePreemptRequest (launch block bound : Nat) (s : State) : Out :=
  .next (s.preempt launch block bound [])

/-- R353: a drain still running at its bound becomes a save, or a flush when no save area can be had. -/
def execDrainBoundExpiry (launch block : Nat) (s : State) : Out :=
  .next (match (s.launchById launch).bind fun l => (l.runOf block).map fun r => (l, r) with
    | none => s
    | some (l, r) => match r.preempt with
      | .drain b =>
        let s1 := { s with free := s.free + 1 }
        if s.gtime < b then s
        else if Config.saveRoom s.free then s1.beginPre launch block .save r.victimOf
        else if l.idem then s1.beginPre launch block .flush r.victimOf
        else s1.beginPre launch block (.drain (s.gtime + 2000)) r.victimOf
      | _ => s)

/-! ### Saves and flushes (R354, R356) -/

/-- Whether a job is a copy, load or store operation, or one that is sent to completion before a save. -/
def Job.beforeSave (j : Job) : Bool :=
  match j.kind with
  | .acp _ _ _ _ _ => true
  | .bpf _ _ _ => true
  | .tile _ _ level _ _ => decide (level ≤ 1) && !j.isArray
  | .tileFor _ => false
  | .reserve _ => false

def Job.ofBlock (j : Job) (launch block : Nat) : Bool := j.who.launch == launch && j.who.block == block

/-- Gives a group's lease up, noting whether it is to be asked for again (R355). -/
def State.yieldLease (s : State) (g : Group) : State :=
  let l := s.leaseOf g.p.core
  let asks := l.holder == some g.p.id || l.asks.contains g.p.id
  (s.releaseLease g.p.core g.p.id).updGroup g.p.id fun g => { g with asksLease := asks }

/-- The scans of a block's array states into save images take array clk (R395). -/
def State.scanImages (s : State) (launch block : Nat) : State :=
  (s.groupsOf launch block).foldl (fun s g => if (s.imageFor g).isSome then s.scanArray g.p.core else s) s

/-- Frames for some bytes. -/
def State.takeArea (s : State) : Nat → List Nat × State
  | 0 => ([], s)
  | n + 1 =>
    let f := s.newFrame
    let r := f.2.takeArea n
    (f.1 :: r.1, r.2)

/-- R354: a block's state is written to a save area of the runtime's, in bytes that the spec does not lay out (log entry
31). -/
def State.writeArea (s : State) (l : Launch) (block : Nat) : State :=
  let a := s.takeArea ((s.contextBytes l block + 4095) / 4096)
  (a.2.blur (a.1.map fun pa => { scratch := false, at_ := pa, len := 4096 })).updLaunch l.id fun l =>
    l.updRun block fun r => { r with area := a.1 }

/-- R354: the block's state stands in its save area, its array states in save images, and its core's granules, slots and
windows are free. -/
def State.saveBlock (s : State) (launch block : Nat) : State :=
  let s0 := (s.groupsOf launch block).foldl (fun t g => t.updGroup g.p.id fun g => { g with image := s.imageFor g }) (s.scanImages launch block)
  let s1 := (s0.groupsOf launch block).foldl (fun s g => (s.leaveQueues g false).yieldLease g) s0
  let s2 := (match s1.launchById launch with | some l => s1.writeArea l block | none => s1).leaveCore launch block
  ({ s2 with free := s2.free + 32 } : State).updLaunch launch fun l => l.updRun block fun r =>
    { r with stat := .saved, preempt := .none, victimOf := [], ran := r.elapsed s.gtime,
             energy := r.energy + Config.energyOfRun s2.free }

def execPreemptSave (launch block : Nat) (s : State) : Out :=
  .next (match (s.launchById launch).bind fun l => l.runOf block with
    | none => s
    | some r => match r.stat, r.preempt with
      | .running _ _, .save =>
        if s.jobs.any fun j => j.ofBlock launch block && j.beforeSave then s.freeze launch block
        else ((s.groupsOf launch block).map fun g => g.p.id).foldl State.stopSaved (s.saveBlock launch block)
      | _, _ => s)

def execPreemptFlush (launch block : Nat) (s : State) : Out :=
  .next (match (s.launchById launch).bind fun l => l.runOf block with
    | none => s
    | some r => match r.stat, r.preempt with
      | .running _ _, .flush =>
        if s.jobs.any fun j => j.ofBlock launch block then s.freeze launch block
        else (((s.groupsOf launch block).map fun g => g.p.id).foldl (fun s w => s.leaveDebugger w 4) s).flushBlock launch block
      | _, _ => s)

/-! ### Choosing (R345, R348) -/

/-- What a desk does next for a launch. -/
inductive DeskAct where
  | reserve (l : Launch) (r : Reservation)
  | askPod (l : Launch) (devices : List Nat)
  | refused (l : Launch) (j : Job)
  | place (l : Launch) (block core : Nat) (seats : List (Nat × Nat)) (far : Bool)
  | waits (launch block : Nat)
  | unfit (launch : Nat)
  | ask (l : Launch) (victim block : Nat)

/-- R345: a launch of the same desk and higher priority that has not fitted for 64 µs keeps those of lower priority off a
die until its budget admits that launch. -/
def State.barred (s : State) (l : Launch) (die : Nat) : Bool :=
  s.launches.any fun x => (s.dieSt die).starved.contains x.id && x.die == l.die && x.unfit.isSome &&
    decide (l.priority < x.priority) && !s.fits x die

/-- Places a block on the core found, when the die's budget admits it. -/
def State.passAdmission (s : State) (l : Launch) (block core : Nat) (far : Bool) : Option DeskAct :=
  if s.barred l (dieOf core) then none
  else if s.fits l (dieOf core) then some (.place l block core ((s.seats l core).getD []) far)
  else if l.unfit.isNone then some (.unfit l.id)
  else none

/-- Blocks that the desk may pre-empt for a waiting block: of lower priority and near enough; by priority and then by
the cost of their best option (R352). -/
def State.victims (s : State) (l : Launch) (block : Nat) : List (List Nat × Nat × Nat) :=
  let near (c : Nat) : Bool := match s.stackAt l.ctx (l.affinity block) with
    | none => true
    | some st => decide (distance c st ≤ leastDistance st + 2)
  s.launches.flatMap fun v =>
    if l.priority ≤ v.priority then []
    else v.runs.filterMap fun r => match r.stat with
      | .running c _ =>
        if near c then some ([v.priority, (s.preChoice v r c l.pbound).cost, c, v.id, r.index], v.id, r.index)
        else none
      | _ => none

/-- R352: the victim of a desk's request for a waiting block, when no request for it is in progress. -/
def State.askFor (s : State) (l : Launch) (block : Nat) : Option DeskAct :=
  if l.pbound = 0 ∨ s.launches.any (fun v => v.runs.any fun r => r.victimOf.contains l.id && r.preempt != .none) then none
  else (sortBy (fun a b => lexLe a.1 b.1) (s.victims l block)).head?.map fun v => .ask l v.2.1 v.2.2

/-- The other devices of a launch's pod set, which make the same reservation (R347). -/
def State.podOthers (s : State) (l : Launch) : List Nat :=
  if l.rlvl = 4 then (SMap.get [] s.podSets l.rset).filter fun d => d != s.devloc.toNat else []

/-- R347: what a desk does for a launch that needs a reservation: it asks the other devices of the pod set, and takes its
own once all of them have made theirs; a refusal frees theirs, and it asks again later. -/
def State.deskReserve (s : State) (l : Launch) : Option DeskAct :=
  match s.reservation l.ask, s.podOthers l with
  | r, [] => r.map (.reserve l)
  | r, ds =>
    match s.jobs.find? fun j => j.kind == .reserve l.id with
    | none => if r.isSome then some (.askPod l ds) else none
    | some j =>
      if j.reqs.any fun q => q.answer.isNone then none
      else if j.writing then (if j.start + 2000 ≤ s.gtime then some (.refused l j) else none)
      else match r with
        | some x =>
          if j.reqs.all fun q => q.answer == some (.values [(0, 1)]) then some (.reserve l x) else some (.refused l j)
        | none => some (.refused l j)

/-- What a desk does for one launch, if anything; nothing for a process whose core dump is taken (R397). -/
def State.deskTry (s : State) (l : Launch) : Option DeskAct :=
  if !l.ready || l.complete || (s.ctxs.any fun c => c.id == l.ctx && c.dumping) then none
  else if decide (2 ≤ l.rlvl) && l.res.isNone then s.deskReserve l
  else match l.nextBlock with
    | none => none
    | some b =>
      match s.pickCore l b false with
      | some c => s.passAdmission l b c false
      | none =>
        let late := match l.waitSince.lookup b with | some t => decide (t + 2000 ≤ s.gtime) | none => false
        match (if late then s.pickCore l b true else none) with
        | some c => s.passAdmission l b c true
        | none => if (l.waitSince.lookup b).isNone then some (.waits l.id b) else s.askFor l b

/-- R345: what the desk of a die does next: for the launch of highest priority, ready longest. -/
def State.deskPick (s : State) (die : Nat) : Option DeskAct :=
  if s.launches.isEmpty then none
  else (sortBy (fun a b : Launch => lexLe [7 - a.priority, a.readySince, a.id] [7 - b.priority, b.readySince, b.id])
    (s.launches.filter fun l => l.die == die && l.ready && l.nextBlock.isSome)).findSome? s.deskTry

/-- Asks the other devices of a pod set for a launch's reservation (log entry 21). -/
def State.askPod (s : State) (l : Launch) (ds : List Nat) : State :=
  let reqs : List ReqOut := ds.zipIdx.map fun (d, i) =>
    let tag := (s.fab.tag + i) % 2 ^ 20
    { tag := tag, msg := s.podMsg l 2 d tag, lanes := [0], deadline := s.gtime + 200000, answer := none }
  { s with
    fab := { s.fab with tag := (s.fab.tag + ds.length) % 2 ^ 20, out := s.fab.out ++ reqs.map ReqOut.msg }
    jobNext := s.jobNext + 1
    jobs := s.jobs ++ [{ id := s.jobNext, who := (reqs.head?.map fun q => q.msg.who).getD default, ctx := l.ctx,
                         kind := .reserve l.id, start := s.gtime, reqs := reqs, data := [], writing := false }] }

/-- A refusal: the other devices free what they have reserved, and the launch asks again after 2 µs. -/
def State.podRefused (s : State) (l : Launch) (j : Job) : State :=
  if j.writing then s.dropJob j.id
  else
    let s1 := s.releasePod l
    { s1 with jobs := s1.jobs.map fun x =>
        if x.id = j.id then { x with writing := true, start := s.gtime } else x }

/-- Performs what the desk has chosen. -/
def State.deskDo (s : State) : DeskAct → State
  | .reserve l r =>
    State.reserve { s with jobs := s.jobs.filter fun j => j.kind != .reserve l.id } l r
  | .askPod l ds => s.askPod l ds
  | .refused l j => s.podRefused l j
  | .place l block core seats _ => s.place l block core seats
  | .waits id b => s.updLaunch id fun l => { l with waitSince := l.waitSince ++ [(b, s.gtime)] }
  | .unfit id => s.updLaunch id fun l => { l with unfit := some s.gtime }
  | .ask l victim block => s.preempt victim block l.pbound [l.id]

/-- The step that performs a choice: a saved block resumes, a block that waited goes far. -/
def DeskAct.step (die : Nat) : DeskAct → Instr
  | .place l block _ _ far =>
    if far then .placementWaitExpiry l.id
    else if (match l.runOf block with | some r => r.isSaved | none => false) then .blockResume l.id block
    else .blockPlacement die
  | _ => .blockPlacement die

def execBlockPlacement (die : Nat) (s : State) : Out :=
  .next (match s.deskPick die with | some a => s.deskDo a | none => s)

/-- R348: a block that has waited 2 µs goes to the nearest free core anywhere. -/
def execPlacementWaitExpiry (launch : Nat) (s : State) : Out :=
  .next (match s.launchById launch with
    | none => s
    | some l => match s.deskTry l with
      | some (.place l b c seats true) => s.deskDo (.place l b c seats true)
      | _ => s)

/-- R355: a saved block of a launch is placed again. -/
def execBlockResume (launch block : Nat) (s : State) : Out :=
  .next (match s.launchById launch with
    | none => s
    | some l => match s.deskTry l with
      | some (.place l b c seats far) => if b = block then s.deskDo (.place l b c seats far) else s
      | _ => s)

/-- The launches that have not fitted a die for 64 µs, and are not noted there yet (R345). -/
def State.starving (s : State) (die : Nat) : List Nat :=
  (s.launches.filter fun l =>
    !(s.dieSt die).starved.contains l.id &&
    (match l.unfit with | some t => decide (t + 64000 ≤ s.gtime) | none => false) && l.ready &&
    (match l.nextBlock with
      | none => false
      | some b =>
        let core := match s.pickCore l b false with | some c => some c | none => s.pickCore l b true
        (core.map dieOf) == some die)).map Launch.id

def execPriorityStarvationExpiry (die : Nat) (s : State) : Out :=
  .next (if (s.starving die).isEmpty then s
    else s.setDie die fun d => { d with starved := d.starved ++ s.starving die })

end Sys2Proof.Machine
end

