-- ==== Sys2Proof/Machine/Power.lean ====
section
/-! DEFINITION. Power states (R358 to R360). -/

namespace Sys2Proof.Machine

/-! ### Entry (R358, R359) -/

/-- Groups that stand on a core. -/
def State.groupsOn (s : State) (core : Nat) : List Group := s.groups.filter (s.standsOn core)

/-- The conditions of P-L1: no ready group and no engine work. -/
def State.coreIdle (s : State) (core : Nat) : Bool :=
  !((s.groupsOn core).any fun g => s.eligible g && (g.stall == .none || g.stall == .ready)) &&
    !(s.jobs.any (s.worksOn core))

/-- The conditions of P-L2: those of P-L1, no allocation and no launch array state. -/
def State.coreEmpty (s : State) (core : Nat) : Bool :=
  s.coreIdle core && (s.groupsOn core).isEmpty && s.granulesUsed core == 0 &&
    !(s.stages.any fun g => g.core == core)

/-- Since when a core has been idle. -/
def State.idleSince (s : State) (core : Nat) : Nat :=
  (s.groupsOn core).foldl (fun m g => max m g.issuedAt) (s.coreSt core).idleSince

/-- Whether a core enters a power state: its conditions have held for the wake time, which L allows. -/
def State.coreEnters (s : State) (core power : Nat) : Bool :=
  let c := s.coreSt core
  decide (c.power < power) && c.wakeAt.isNone && s.latencyOk (coreWake power) &&
    decide (s.idleSince core + coreWake power ≤ s.gtime) &&
    (if power = 2 then s.coreEmpty core else s.coreIdle core)

def State.setCore (s : State) (core : Nat) (f : CoreSt → CoreSt) : State :=
  { s with cores := SMap.set default s.cores core (f (s.coreSt core)) }

/-- A core enters a power state; P-L2 is noted as the beginning of its idleness for the die. -/
def State.enterCore (s : State) (core power : Nat) : State :=
  s.setCore core fun c =>
    { c with power := power, idleSince := if power = 2 then s.gtime else c.idleSince }

def execPL1Entry (core : Nat) (s : State) : Out :=
  .next (if s.coreEnters core 1 && (s.coreSt core).power == 0 then s.enterCore core 1 else s)

def execPL2Entry (core : Nat) (s : State) : Out :=
  .next (if s.coreEnters core 2 then s.enterCore core 2 else s)

/-- Whether a die enters P-L3. -/
def State.dieEnters (s : State) (die : Nat) : Bool :=
  let d := s.dieSt die
  let since := (coresOf die).foldl (fun m c => max m (s.coreSt c).idleSince) d.since
  d.power == 0 && d.wakeAt.isNone && !d.off && (coresOf die).all (fun c => (s.coreSt c).power == 2) &&
    !(s.launches.any fun l => l.die == die && l.ready && l.nextBlock.isSome) &&
    s.latencyOk 1500000 && decide (since + 1500000 ≤ s.gtime)

def execPL3Entry (die : Nat) (s : State) : Out :=
  .next (if s.dieEnters die then s.setDie die fun d => { d with power := 3, since := s.gtime } else s)

/-- Fabric or trace traffic (R358): messages of this device, in elements' queues and on its links, and records that the
port has yet to send. -/
def State.traffic (s : State) : Bool :=
  !s.fab.out.isEmpty || !s.trace.buf.isEmpty ||
  (s.fab.elems.any fun x => !x.2.waits.isEmpty || x.2.queues.any fun q => !q.2.isEmpty) ||
  s.fab.links.any fun x => !x.2.replay.isEmpty || !x.2.waiting.isEmpty

/-- P-L4's condition on traffic holds since the last step at which there was any (R359). -/
def State.noteTraffic (s : State) : State := if s.traffic then { s with devSince := s.gtime } else s

/-- Whether the device enters P-L4. -/
def State.devEnters (s : State) : Bool :=
  let dies := (List.range 4).map s.dieSt
  s.devPower == 0 && s.devWakeAt.isNone && dies.all (fun d => d.power == 3 || d.off) &&
    dies.any (fun d => d.power == 3) && !s.traffic && s.latencyOk 30000000 &&
    decide (dies.foldl (fun m d => max m d.since) s.devSince + 30000000 ≤ s.gtime)

def execPL4Entry (s : State) : Out :=
  .next (if s.devEnters then { s with devPower := 4, devSince := s.gtime } else s)

/-! ### Waking (R358, R360) -/

/-- The device begins to wake. -/
def State.wakeDevice (s : State) : State :=
  if s.devPower = 4 ∧ s.devWakeAt = none then { s with devWakeAt := some (s.gtime + 30000000) } else s

/-- When an awake device can wake its dies. -/
def State.devReady (s : State) : Nat := s.devWakeAt.getD s.gtime

/-- A die begins to wake, after the device. -/
def State.wakeDie (s : State) (die : Nat) : State :=
  let s1 := s.wakeDevice
  if (s.dieSt die).power = 3 ∧ (s.dieSt die).wakeAt = none then
    s1.setDie die fun d => { d with wakeAt := some (s1.devReady + 1500000) }
  else s1

/-- A core begins to wake, after its die. -/
def State.wakeCoreUp (s : State) (core : Nat) : State :=
  let s1 := s.wakeDie (dieOf core)
  let c := s.coreSt core
  if c.power ≠ 0 ∧ c.wakeAt = none then
    s1.setCore core fun c =>
      { c with wakeAt := some ((s1.dieSt (dieOf core)).wakeAt.getD s1.devReady + coreWake c.power) }
  else s1

def execPowerWake (unit : PowerUnit) (s : State) : Out :=
  .next (match unit with
    | .core c => s.wakeCoreUp c
    | .die d => s.wakeDie d
    | .device => s.wakeDevice)

/-- Whether a time has come. -/
def due? (now : Nat) : Option Nat → Bool
  | some t => decide (t ≤ now)
  | none => false

/-- R411: a write of the mailbox, which the runtime acts on: it establishes a pod set (R347), sets the policy of links
between devices of different trust domains (R404), or commits an SVN, which only raises the fused count (R400). -/
def State.mboxWrite (s : State) (v : BitVec 64) : State :=
  let s1 : State := { s with host := { s.host with mbox := v } }
  match Config.mboxCommand s.tick v with
  | .podSet n ds => { s1 with podSets := SMap.set [] s1.podSets n ds }
  | .linkPolicy p => { s1 with host := { s1.host with linkPolicy := p } }
  | .svnCommit n => { s1 with boot := { s1.boot with svn := max s1.boot.svn n } }
  | .other => s1

/-- What waited for a wake takes place. -/
def State.afterWake (s : State) : State :=
  let s1 : State := { s with agenda := s.agenda ++ s.host.waits, host := { s.host with waits := [], mboxWait := none } }
  match s.host.mboxWait with
  | some v => s1.mboxWrite v
  | none => s1

/-- R359, R360: a wake ends. A core with nothing to run wakes from P-L2 only to P-L1 while L allows that. -/
def execWakeComplete (unit : PowerUnit) (s : State) : Out :=
  .next (match unit with
    | .core c =>
      if due? s.gtime (s.coreSt c).wakeAt then
        let power := if (s.coreSt c).power = 2 ∧ (s.groupsOn c).isEmpty ∧ s.latencyOk 100 = true then 1 else 0
        (s.setCore c fun x => { power := power, wakeAt := none, idleSince := s.gtime,
                                clk0 := if x.power = 2 then s.clk else x.clk0 }).afterWake
      else s
    | .die d =>
      if due? s.gtime (s.dieSt d).wakeAt then
        (s.setDie d fun x => { x with power := 0, wakeAt := none, since := s.gtime }).afterWake
      else s
    | .device =>
      if due? s.gtime s.devWakeAt then
        ({ s with devPower := 0, devWakeAt := none, devSince := s.gtime } : State).afterWake
      else s)

end Sys2Proof.Machine
end

