-- ==== Sys2Proof/Machine/Host.lean ====
section
/-! DEFINITION. The host interface (R237, R338, R410, R411), junction temperatures (R346, R412), scrubbing and
errors of shared state (R407, R408). -/

namespace Sys2Proof.Machine

/-! ### Host accesses -/

/-- R360: a host access wakes the device from P-L4 and is performed after the wake. -/
def State.hostAccess (s : State) (i : Instr) (run : State) : State :=
  if s.devPower = 4 then
    ({ s with host := { s.host with waits := s.host.waits ++ [i] } } : State).later (.powerWake .device)
  else run

/-- STATUS of a refused aperture enqueue (R338). -/
def refusedStatus : Nat := 2 ^ 64 - 2

/-- The status of an aperture enqueue of a buffer, and the state after it (R338, R401). -/
def State.apertureEnq (s : State) (q : Nat) : Nat × State :=
  let d := s.queueOf q
  if s.boot.stage < 2 ∨ d.enable = false ∨ d.hosten = false then (refusedStatus, s)
  else match s.enqAt (d.ctx.getD 0) (s.cbAt q) 0 64 (BMap.readNat d.buf 0 64) with
    | .error _ => (refusedStatus, s)
    | .ok r => r

/-- R338: a host write to an aperture: the buffer's bytes, and an enqueue when it reaches bytes 56–63. -/
def execHostApertureEnqueue (queue offset : Nat) (bytes : List (BitVec 8)) (s : State) : Out :=
  let q := queue % 64
  let inBuf := bytes.take (64 - offset)
  let s1 := s.updQueue q fun d => { d with buf := BMap.writeBytes d.buf offset inBuf }
  .next (s.hostAccess (.hostApertureEnqueue queue offset bytes)
    (if 56 < offset + inBuf.length ∧ inBuf ≠ [] then
      let r := s1.apertureEnq q
      r.2.updQueue q fun d => { d with status := r.1 }
    else s1))

/-- R5, R6, R338: a byte of an aperture as the host reads it: the buffer is write-only, then STATUS, then reserved bytes. -/
def State.apertureByte (s : State) (q offset : Nat) : Nat :=
  if 64 ≤ offset ∧ offset < 72 then (s.queueOf q).status / 256 ^ (offset - 64) % 256 else 0

/-- The bytes that a host read of an aperture gives. -/
def State.apertureRead (s : State) (queue offset n : Nat) : List Nat :=
  (List.range n).map fun i => s.apertureByte (queue % 64) (offset + i)

/-- R401: the Memory_Active bit of the CXL DVSEC. -/
def State.memoryActive (s : State) : Bool := s.boot.stage == 2

/-- Whether the host's decoder covers a range (R401, R410, R412). -/
def State.hostRange (s : State) (pa n : Nat) : Bool := s.memoryActive && decide (pa + n ≤ paStacks)

def execHostMemWrite (pa : Nat) (bytes : List (BitVec 8)) (s : State) : Out :=
  .next (s.hostAccess (.hostMemWrite pa bytes)
    (if s.hostRange pa bytes.length then
      s.writeSpans (memSpan pa bytes.length) (BMap.readNat (BMap.writeBytes [] 0 bytes) 0 bytes.length)
    else s))

def execHostMemRead (pa count : Nat) (s : State) : Out :=
  .next (s.hostAccess (.hostMemRead pa count)
    { s with host := { s.host with
        read := if s.hostRange pa count then (BMap.readBytes s.mem pa count).map BitVec.toNat else [] } })

/-! ### Management registers (R411) -/

/-- Brings every die's budget up to now. -/
def State.settleAll (s : State) : State := (List.range 4).foldl (fun s d => s.settle d 0) s

/-- Cuts every die's budget at its present cap. -/
def State.cutBudgets (s : State) : State := s.settleAll

def execPcapWrite (watts : Nat) (s : State) : Out :=
  let s1 := s.settleAll
  .next (s.hostAccess (.pcapWrite watts)
    ({ s1 with host := { s1.host with pcap := max 600 (min 1900 watts) } } : State).cutBudgets)

/-- R411: MBOX is the only other register that a write changes. Management traffic wakes the device from P-L4 (R360). -/
def execMgmtRegisterWrite (register : MgmtReg) (value : BitVec 64) (s : State) : Out :=
  .next (if s.devPower = 4 then
      let s1 : State := if register = .mbox then { s with host := { s.host with mboxWait := some value } } else s
      s1.later (.powerWake .device)
    else if register = .mbox then s.mboxWrite value
    else s)

/-- The stage that BOOTSTAT reports, the failing stage and the recovery flag (R400, R411). -/
def State.bootstat (s : State) : Nat × Nat × Bool := (s.boot.stage, s.boot.failing, s.boot.recovery)

/-- POWER (R411). -/
def State.powerReg (s : State) : Nat := Config.powerReading s.tick

/-- R5, R411: what a read of a management register gives, a number for each of its fields. -/
def State.mgmtRead (s : State) : MgmtReg → List Nat
  | .bootstat => [s.bootstat.1, s.bootstat.2.1, if s.bootstat.2.2 then 1 else 0]
  | .temp n => [NMap.get s.host.temps n]
  | .power => [s.powerReg]
  | .mbox => [s.host.mbox.toNat]

/-- PCAP as it is read (R411). -/
def State.pcapRead (s : State) : Nat := s.host.pcap

/-- RESET is write-only: a read gives 0 (R5, R411). -/
def State.resetRead (_s : State) : Nat := 0

/-! ### Power-up and reset (R400, R402) -/

/-- The device as stage 0 of the boot starts: everything at its reset value but the fused count, with the hub
ROM and the fuses measured. The counters that number the environment's choices go on. -/
def State.powerUp (s : State) : State :=
  let r := State.reset
  { r with
    tick := s.tick, clk := s.clk, gtime := s.gtime, free := s.free
    boot := { r.boot with
      svn := s.boot.svn
      slots := NMap.set (NMap.set [] 1 (Config.shake256 [Config.romDigest])) 5
        (Config.shake256 [Config.fuseDigest]) } }

def execPowerOnReset (s : State) : Out := .next s.powerUp

def execResetWrite (value : BitVec 32) (s : State) : Out :=
  .next (s.hostAccess (.resetWrite value) (if value = 0xD1E5#32 then s.powerUp else s))

/-! ### Temperatures and errors (R346, R407, R408, R412) -/

/-- The contexts that have groups on a die. -/
def State.ctxsOn (s : State) (die : Nat) : List Nat :=
  ((s.groups.filter fun g => dieOf g.p.core == die && s.standsOn g.p.core g).map fun g => g.p.ctx).eraseDups

/-- R408: MCHK for a context: the fault of its first group, and the end of the process. With `later`, one in a region
takes it at its next commit bundle, if it can run to it (log entry 37). -/
def State.mchkCtx (later : Bool) (s : State) (ctx : Nat) : State :=
  let mine := s.groups.filter fun g => g.p.ctx == ctx && !g.ended
  let runs := mine.find? fun g => later && g.nat.on && !g.frozen && !g.dbg.stopped
  if let some g := runs then
    s.updGroup g.p.id fun g => { g with nat := { g.nat with late := g.nat.late ++ [(plainTrap .mchk, atCommit, 0)] } }
  else
  let s1 := match mine.head? with
    | none => s
    | some g =>
      let t := plainTrap .mchk
      let pc := g.r.issueAddr.getD 0
      (((s.emitFor g 0x0A (causeCode .mchk + (pc / 2 % 2 ^ 56) * 2 ^ 8)).updGroup g.p.id fun g =>
        { g with r := g.r.setFault t pc, stall := .fault }).countRel 3 1).updCtx ctx fun c =>
          { c with dumpBy := if c.dumpBy.isSome then c.dumpBy else some g.p.id }
  s1.later (.coreDump ctx)

/-- Takes a die offline until reset. -/
def State.dieOff (s : State) (die : Nat) : State := s.setDie die fun d => { d with off := true }

/-- R408: an error in state that no single context owns. -/
def execDieStateError (die : Nat) (s : State) : Out :=
  .next (((s.ctxsOn die).foldl (State.mchkCtx true) s).dieOff die)

/-- R412: at 115 °C every context ends with MCHK and the dies are powered off. -/
def execThermalShutdown (s : State) : Out :=
  let live := (s.ctxs.filter Ctx.live).map Ctx.id
  .next ((List.range 4).foldl State.dieOff (live.foldl (State.mchkCtx false) s))

/-- R346, R411: a junction's temperature changes; at 115 °C the device shuts down. -/
def execJunctionTemperatureChange (die celsius : Nat) (s : State) : Out :=
  let s1 := s.settleAll
  let s2 := { s1 with host := { s1.host with temps := NMap.set s1.host.temps die celsius } }
  .next (if 115 ≤ celsius then s2.cutBudgets.later .thermalShutdown else s2.cutBudgets)

/-- R407: the scrubber writes a line only while it still holds the value that was read; it is no write that a
watch or a WAITC waits for. A corrected error changes no value: what is written is what loads read. A line that it cannot
correct (`corrected` is empty) is poisoned (R408). -/
def execScrub (line : Nat) (seen corrected : List (BitVec 8)) (s : State) : Out :=
  let pa := line * 128
  .next (if BMap.readBytes s.mem pa 128 ≠ seen then s
    else if corrected = [] then
      ({ s with poison := (List.range 128).foldl (fun m i => BMap.set m (pa + i) 1) s.poison } : State).countRel 2 1
    else if corrected = seen then s.countRel 1 1
    else s)

end Sys2Proof.Machine
end

