-- ==== Sys2Proof/Machine/Concordance.lean ====
section
/-! DEFINITION. The concordance of a translation as bytes (R262 to R264), and the checks of a translation against the
virtual code beside it (R241 to R265, R272). -/

namespace Sys2Proof.Machine

/-! ### Layout (R262 to R264) -/

/-- The number in n little-endian bytes of a list from an offset on; none past its end. -/
def numAt (l : List Nat) (i n : Nat) : Option Nat :=
  if i + n ≤ l.length then some (((l.drop i).take n).foldr (fun b x => b % 256 + 256 * x) 0) else none

/-- R264: an entry's fields, when its reserved bits are 0 and its location suits its kind. -/
def parseEntry (w : Nat) : Option (Bool × Nat × Nat × Nat) :=
  let kind := w / 2 ^ 31 % 2
  let vreg := w / 2 ^ 19 % 4096
  let loc := w / 2 ^ 17 % 4
  if w / 2 ^ 12 % 32 ≠ 0 then none
  else if kind = 1 then (if loc = 2 ∧ vreg ≤ 4087 then some (true, vreg, loc, w % 4096) else none)
  else if loc ≤ 1 then some (false, vreg, loc, w % 4096) else none

/-- R263: the row at an offset. -/
def parseRow (l : List Nat) (at_ : Nat) : Option ConcRow :=
  match numAt l at_ 8, numAt l (at_ + 8) 4, numAt l (at_ + 12) 2, numAt l (at_ + 14) 1, numAt l (at_ + 15) 1 with
  | some vpc, some boff, some count, some flags, some 0 =>
    if flags ≥ 16 then none
    else
      match (List.range count).mapM fun i => (numAt l (at_ + 16 + 4 * i) 4).bind parseEntry with
      | some es => some { vpc := vpc, boff := boff, flags := flags, entries := es }
      | none => none
  | _, _, _, _, _ => none

/-- A concordance: its windows and rows. -/
structure Conc where
  vw0 : Nat
  vw1 : Nat
  sw : Nat
  rows : List ConcRow
  deriving DecidableEq, Repr

/-- R262: the concordance that bytes hold. -/
def parseConc (l : List Nat) : Option Conc :=
  match numAt l 0 4, numAt l 4 2, numAt l 6 2, numAt l 8 2, numAt l 10 6 with
  | some n, some v0, some v1, some sw, some 0 =>
    if n = 0 ∨ 4095 < n then none
    else
      match (List.range n).mapM fun i =>
          match numAt l (16 + 4 * i) 4 with
          | some o => if o % 4 = 0 then parseRow l o else none
          | none => none with
      | some rows => some { vw0 := v0, vw1 := v1, sw := sw, rows := rows }
      | none => none
  | _, _, _, _, _ => none

/-- The 32-byte bundles in a string of bytes. -/
def parseBundles : Nat → List Nat → List (BitVec 256)
  | 0, _ => []
  | n + 1, l => if l.isEmpty then [] else
      BitVec.ofNat 256 ((l.take 32).foldr (fun b x => b % 256 + 256 * x) 0) :: parseBundles n (l.drop 32)

/-- R264: the bytes of an entry. -/
def entryWord (e : Bool × Nat × Nat × Nat) : Nat :=
  (if e.1 then 2 ^ 31 else 0) + e.2.1 % 4096 * 2 ^ 19 + e.2.2.1 % 4 * 2 ^ 17 + e.2.2.2 % 4096

/-! ### Windows, rows and limits (R243, R262 to R265) -/

/-- A window: a multiple of 16, at most 1,024 (R243). -/
def windowOk (n : Nat) : Bool := decide (16 ≤ n) && decide (n ≤ 1024) && n % 16 == 0

/-- Whether an entry names a native register of the translation's windows. -/
def entryOk (t : Translation) (e : Bool × Nat × Nat × Nat) : Bool :=
  if e.1 then decide (e.2.1 ≤ 4087) && decide (0 < e.2.2.2) && decide (e.2.2.2 < t.sw)
  else decide (e.2.1 < 4096) && decide (e.2.2.1 ≤ 1) &&
    decide (e.2.2.2 < if e.2.2.1 = 0 then t.vw0 else t.vw1)

/-- Windows, counts, rows, and the commit bundle of each row (R241, R243, R262 to R265). -/
def shapeOk (t : Translation) : Bool :=
  windowOk t.vw0 && windowOk t.vw1 && windowOk t.sw &&
  decide (0 < t.rows.length) && decide (t.rows.length ≤ 4095) && decide (t.bundles.length ≤ 2 ^ 24) &&
  (t.rows.all fun r => decide (r.flags < 16) && r.entries.all (entryOk t)) &&
  (t.bundles.all fun b => decide (bundleRow b < t.rows.length)) &&
  (t.bundles.zipIdx.all fun (b, i) =>
    !bundleC b || (match t.rows[bundleRow b]? with | some r => r.boff == i | none => false)) &&
  t.rows.zipIdx.all fun (r, i) => match t.bundles[r.boff]? with | some b => bundleC b && bundleRow b == i | none => false

/-! ### Commit points (R254) -/

/-- The instructions of a translation's virtual code, as address and words. -/
def codeWords (t : Translation) : List (Nat × Word64 × Word64) :=
  (walkCode (SMap.find? t.words) (2 * t.words.length + 2) [t.entry] []).filterMap fun x =>
    x.2.2.map fun w1 => (x.1, x.2.1, w1)

/-- Where a translation must have commit points, each with the flag that its row has (R254, R263); 0 for none. -/
def commitPlaces (t : Translation) : List (Nat × Nat) :=
  (t.entry, 1) :: (codeWords t).flatMap fun (a, w0, w1) =>
    let op := (opOf w0).toNat
    let next := a + (if longOp (opOf w0) then 16 else 8)
    ((succs a w0).filter fun b => decide (b ≤ a)).map (fun b => (b, 4)) ++
      (if op = 0x64 ∨ op = 0x65 then [(a, 0), (next, 8)] else []) ++
      (if op = 0x66 ∨ op = 0x67 then [(a, 2)] else []) ++
      (if isRegionOfItsOwn w0 w1 then [(a, 0), (next, 0)] else [])

/-- Whether a row stands at a place, with its flag. -/
def hasRow (t : Translation) (p : Nat × Nat) : Bool :=
  t.rows.any fun r => r.vpc == p.1 && (p.2 == 0 || r.flags / p.2 % 2 == 1)

/-- Addresses of the code that no commit point stands at, after one more instruction. -/
def frontier (t : Translation) (code : List (Nat × Word64 × Word64)) (l : List Nat) : List Nat :=
  ((l.flatMap fun a => match code.find? fun x => x.1 == a with
    | some x => succs a x.2.1
    | none => []).eraseDups).filter fun a => !hasRow t (a, 0)

/-- R265: no path runs more than 64 virtual instructions between commit points. -/
def pathsOk (t : Translation) : Bool :=
  let code := codeWords t
  ((List.range 64).foldl (fun l _ => frontier t code l) (t.rows.map ConcRow.vpc)).isEmpty

/-- The bundles to which control may go from bundle i, within the translation (R245 S-B). -/
def nextBundles (i : Nat) (b : BitVec 256) : List Nat :=
  let w := slotS b
  let op := (w.extractLsb' 40 8).toNat
  let off : Int := if op = 0x61 ∨ op = 0x62 then (w.extractLsb' 0 24).toInt else (w.extractLsb' 0 26).toInt
  let to_ := ((i : Int) + off).toNat
  if !isBranch b then [i + 1]
  else if op = 0x60 ∧ w.extractLsb' 36 4 = 0#4 then [to_] else [to_, i + 1]

/-- Whether a result issued in bundle i, seen `lat` bundles on, is seen at or after a commit point on every path. -/
def landsLate (t : Translation) : Nat → Nat → Nat → Bool
  | 0, _, _ => false
  | fuel + 1, i, lat =>
    match t.bundles[i]? with
    | none => true
    | some b => [0x63, 0x64, 0x65, 0x66, 0x67].contains ((slotS b).extractLsb' 40 8).toNat ||
        (decide (1 + nopCount b ≤ lat) && (nextBundles i b).all fun j =>
          (match t.bundles[j]? with | some c => bundleC c | none => true) || landsLate t fuel j (lat - 1 - nopCount b))

/-- The values that an index-base register may hold: 0, and those of the translation's IBSETs (R247, log entry 56). -/
def ibValues (t : Translation) (key : Nat) : List Nat :=
  (0 :: t.bundles.filterMap fun b =>
    let w := slotS b
    let r := (w.extractLsb' 26 10).toNat
    if w.extractLsb' 40 8 = 0xF0#8 ∧ 4 * (r / 512) + r % 4 = key then some ((w.extractLsb' 6 20).toNat % 1024)
    else none).eraseDups

/-- The operations of a bundle as words of the view, one with a base-relative destination for each place that it may
name. -/
def slotWords (t : Translation) (i : Nat) (b : BitVec 256) : List (Word64 × Word64) :=
  let w1 := match t.bundles[i + 1]? with | some n => slotM n | none => 0
  let bases (slot : Nat) (w : Word64) : List NMap :=
    let d := (FR.ofWord w).d
    let key := 4 * clusterOf slot (d.getLsbD 11) + d.toNat / 256 % 4
    if d.getLsbD 10 then (ibValues t key).map fun v => [(key, v)] else [[]]
  let vec (slot : Nat) (w : Word64) : List (Word64 × Word64) :=
    if w = 0 then [] else (bases slot w).map fun ib => (vWord t ib slot w, 0)
  (if slotS b = 0 then [] else [(sWord t [] (slotS b), 0)]) ++ vec 1 (slotV b 0) ++ vec 2 (slotV b 1) ++
    (if slotM b = 0 ∨ bundleX b ∨ opOf (slotM b) = 0xF1#8 then []
     else (bases 3 (slotM b)).map fun ib => mWords t ib (slotM b) w1)

/-- R255: between commit points no operation overwrites a native register that the region's row names: such a result is
seen only from a commit point on. -/
def keepsLocations (t : Translation) : Bool :=
  t.bundles.zipIdx.all fun (b, i) =>
    let named := (t.rows.getD (bundleRow b) default).entries.map fun e =>
      if e.1 then RName.s e.2.2.2 else .v (1024 * (e.2.2.1 + 1) + e.2.2.2)
    (slotWords t i b).all fun w =>
      let lat := latencyOf (opOf w.1).toNat (tyOf w.1) true
      !(wordWrites w.1 w.2).any named.contains || landsLate t (lat + 1) i lat

/-- R260: under checked translation, each region with an operation in a V slot compares duplicates. -/
def comparesAll (t : Translation) : Bool :=
  !t.xchk || t.bundles.all fun b => (slotV b 0 == 0 && slotV b 1 == 0) ||
    t.bundles.any fun c => bundleRow c == bundleRow b && !bundleX c && opOf (slotM c) == 0xF1#8

/-- R249, R254, R255, R260, R262 to R265: whether a translation may be installed. One without bundles is virtual code that its
companion runs. -/
def xlatOk (t : Translation) : Bool :=
  t.bundles.isEmpty ||
  (shapeOk t && ((List.range t.bundles.length).all fun i => bundleOk t i) && (commitPlaces t).all (hasRow t) &&
   pathsOk t && keepsLocations t && comparesAll t)

end Sys2Proof.Machine
end

