-- ==== Sys2Proof/Machine/Xlate.lean ====
section
/-! DEFINITION. The translation service: withdrawal (R175), lazy translation (R266, R267), keys (R268),
profiles and replacement (R271), and packages of peers (R273). -/

namespace Sys2Proof.Machine

/-! ### Withdrawal (R175) -/

/-- Whether a translation's procedure bytes meet [start, start + len). -/
def xlatMeets (t : Translation) (start len : Nat) : Bool :=
  decide (0 < len) && t.words.any fun w => decide (w.1 < start + len) && decide (start < w.1 + 8)

/-- Every call word that led to a procedure leads to a stub, or to its translation. -/
def patchCalls (ctx entry : Nat) (xchk : Bool) (target : Option Nat) (t : Translation) : Translation :=
  if t.ctx = ctx ∧ t.xchk = xchk then
    { t with calls := t.calls.map fun c => if c.1 = entry then (c.1, target) else c }
  else t

/-- Whether two records of the address index are one. -/
def sameIndex (t x : Translation) : Bool := t.id == x.id && t.ctx == x.ctx && t.entry == x.entry

/-- Discards the regions of the groups inside a translation: they resume at their rows. -/
def State.leaveAll (s : State) (t : Translation) : State :=
  let out (g : Group) : Group :=
    if g.nat.on && g.nat.tid == t.id && g.p.ctx == t.ctx && g.nat.home == t.entry then g.discard t else g
  { s with g := if s.g.present then out s.g else s.g, others := s.others.map out }

/-- Withdraws a translation of a context's procedure from the stacks. -/
def State.withdraw (s : State) (t : Translation) : State :=
  let s1 := s.leaveAll t
  { s1 with xlats := (s1.xlats.filter fun x => !sameIndex t x).map (patchCalls t.ctx t.entry t.xchk none),
            olds := s1.olds.filter fun o => !sameIndex t o.t }

/-- Withdraws every translation of a context over a range. -/
def State.withdrawRange (s : State) (ctx start len : Nat) : State :=
  ((s.xlats ++ s.olds.map OldXlat.t).filter fun t => t.ctx == ctx && xlatMeets t start len).foldl
    State.withdraw s

def execIcinvComplete (id : Nat) (s : State) : Out :=
  .next (match s.icinvs.find? fun e => e.id == id with
    | none => s
    | some e =>
      let s1 := s.withdrawRange e.ctx e.start e.len
      ({ s1 with icinvs := s1.icinvs.filter fun x => x.id != id } : State).updGroup e.who fun g =>
        { g with icinvs := g.icinvs.filter fun x => x != id })

/-! ### Keys (R268) -/

/-- The inputs of a translation's key: its words with their offsets from the entry, modulo 2^64, the features, the
version of its translator and the check options. -/
def keyInput (t : Translation) (features : List Nat) : List Nat :=
  (t.words.flatMap fun w => [(w.1 + 2 ^ 64 - t.entry) % 2 ^ 64, w.2.toNat]) ++ features ++
    [t.version, if t.xchk then 1 else 0]

/-- The target features of the object that an address lies in (R277). -/
def State.featuresAt (s : State) (ctx a : Nat) : List Nat :=
  match s.objects.find? fun o => o.ctx == ctx && decide (o.text.1 ≤ a) && decide (a < o.text.1 + o.text.2) with
  | some o => o.caps
  | none => []

def State.keyOf (s : State) (t : Translation) : Nat :=
  Config.shake256 (keyInput t (s.featuresAt t.ctx t.entry))

/-- A translation for the same procedure bytes at another address: its virtual addresses move with its entry (R266), and
its call words lead to stubs until the callees there are found. -/
def moveXlat (t : Translation) (ctx entry : Nat) : Translation :=
  if t.ctx = ctx ∧ t.entry = entry then t
  else
    let to_ (a : Nat) : Nat := a + entry - t.entry
    { t with ctx := ctx, entry := entry, words := t.words.map fun w => (to_ w.1, w.2)
             rows := t.rows.map fun r => { r with vpc := to_ r.vpc }
             calls := t.calls.map fun c => (to_ c.1, none) }

/-- Whether a translation's words are those that the service reads now (R157, R327). -/
def State.wordsNow (s : State) (t : Translation) : Bool :=
  t.words.all fun w =>
    match s.wordAt t.ctx w.1 with
    | .ok v => v == w.2
    | .error _ => false

/-- Frees the replaced translations whose blocks have all retired (R271). -/
def State.pruneOlds (s : State) : State :=
  { s with olds := s.olds.filter fun o => o.blocks.any fun b => (s.findBlock b.1 b.2).isSome }

/-- Bundles that the translation stacks hold (R269). -/
def stackBundles : Nat := 2 ^ 29

def State.bundlesUsed (s : State) : Nat :=
  (s.xlats ++ s.olds.map OldXlat.t).foldl (fun n t => n + t.bundles.length) 0

/-- Whether a translation can be reclaimed (R267): no group, running or saved, is in it, and no entry word of a live
translation leads to it. -/
def State.idleXlat (s : State) (t : Translation) : Bool :=
  !(s.groups.any fun g => g.nat.tid == t.id) &&
  !(s.xlats.any fun x => x.ctx == t.ctx && x.calls.any fun c => c.1 == t.entry && c.2.isSome)

/-- Reclaims translations, the replaced ones first, until there is room for some bundles, or none is left that can be. -/
def State.reclaim (s : State) (need : Nat) : State :=
  let s1 := (s.olds.filter fun o => !s.groups.any fun g => g.nat.tid == o.t.id).foldl (fun s o =>
    if s.bundlesUsed + need ≤ stackBundles then s else { s with olds := s.olds.filter fun x => x != o }) s
  (s1.xlats.filter fun t => s1.idleXlat t && !t.bundles.isEmpty).foldl (fun s t =>
    if s.bundlesUsed + need ≤ stackBundles then s else s.withdraw t) s1

/-- Whether a group waits for a procedure. -/
def waitsFor (t : Translation) (g : Group) : Bool :=
  g.p.ctx == t.ctx && g.u.xchk == t.xchk &&
  (match g.pend with
    | .xlate va _ => va == t.entry || (SMap.find? t.words va).isSome
    | _ => false)

/-- XLAT of a group that waits for the service, at the call, jump or return (R267). -/
def State.xlatFault (s : State) (who : GRef) (aux : Nat) : State :=
  match s.findGroup who with
  | none => s
  | some _ => (s.refocus who).takeTrap { cause := .xlat, va := 0, aux := aux } (s.refocus who).pc

/-- The hoisted loads of a translation: the row of the region, the major, the size and scale, and the offset. -/
def hoists (t : Translation) : List (Nat × Nat × Nat × Nat) :=
  t.bundles.zipIdx.filterMap fun (b, i) =>
    let w := slotM b
    let f := FM.ofWord w
    let imm := match t.bundles[i + 1]? with | some n => (W1.ofWord (slotM n)).imm.toNat | none => 0
    if !bundleX b && w.getLsbD 7 && isLoad (opOf w).toNat then
      some (bundleRow b, (opOf w).toNat, 2 * f.sz.toNat + f.sc.toNat, if longOp (opOf w) then imm else f.x.toNat)
    else none

/-- R271: a new translation does not hoist a load whose site has had 8 aborts in the old one. -/
def State.hoistsOk (s : State) (t : Translation) : Bool :=
  (s.xlats.filter fun x => x.ctx == t.ctx && x.entry == t.entry && x.xchk == t.xchk).all fun x =>
    (s.profile x.id).unhoist.all fun site =>
      let at_ := hoists { x with bundles := x.bundles.mapIdx fun i b => if i = site ∨ i = site + 1 then b else 0 }
      at_.all fun h => !(hoists t).contains h

/-- The identifier of the next translation. -/
def State.nextXlat (s : State) : Nat :=
  1 + (s.xlats ++ s.olds.map OldXlat.t).foldl (fun m x => max m x.id) 0

/-- Puts a translation into the stacks (R266, R271): it takes the place of the one of its key, wherever that serves,
and of the one for its entry; every entry word follows, and the groups that wait for it go on. -/
def State.place_ (s : State) (t : Translation) : State :=
  let key := s.keyOf t
  let mine (x : Translation) : Bool := x.ctx == t.ctx && x.entry == t.entry
  let old := s.xlats.filter fun x => x.xchk == t.xchk && (mine x || x.key == key)
  let new : Translation := { t with id := s.nextXlat, key := key, hot := false }
  let news := new :: ((old.filter fun x => !mine x).map fun x => moveXlat new x.ctx x.entry)
  let blocks := s.blocks.map fun b => (b.launch, b.block)
  let resume (g : Group) : Group :=
    if news.any fun x => waitsFor x g then { g with pend := .idle, stall := .none } else g
  { s with
    xlats := ((s.xlats.filter fun x => !old.contains x) ++ news).map fun x =>
      news.foldl (fun x n => patchCalls n.ctx n.entry n.xchk (some n.nba) x) x
    olds := s.olds ++ (old.filter fun x => !x.bundles.isEmpty).map fun x => { t := x, blocks := blocks }
    g := if s.g.present then resume s.g else s.g
    others := s.others.map resume }

/-- The service's walks of a translation's code set A, and count the mismatches of hints (R329, R330). -/
def State.touchCode (s : State) (t : Translation) : State :=
  let pages := (t.words.map fun w => w.1 / 4096).eraseDups
  (pages.foldl (fun s p => s.touchPages t.ctx false 2 (4096 * p) 1) s).countHints (pages.map fun p => (t.ctx, p))

/-- R266, R271: the service installs a translation that passes its checks. With no room after reclaiming, the groups that
wait for it take XLAT (R267). -/
def State.install (s : State) (t : Translation) : State :=
  let s0 := s.pruneOlds
  if !(xlatOk t && s0.wordsNow t && s0.hoistsOk t) then s0
  else
    let s1 := if s0.bundlesUsed + t.bundles.length ≤ stackBundles then s0 else s0.reclaim t.bundles.length
    if stackBundles < s1.bundlesUsed + t.bundles.length then
      ((s1.groups.filter (waitsFor t)).map fun g => g.p.id).foldl (fun s who => s.xlatFault who 0) s1
    else s1.place_ t |>.touchCode t

def execTranslationInstall (t : Translation) (s : State) : Out := .next (s.install t)

/-- Instructions that the service walks in one procedure before it splits it (R265). -/
def procedureLimit : Nat := 4096

/-- R266, R268: the virtual code of a procedure as the service translates it when it has nothing better: its words in
address order, which the companion runs. -/
def State.produce (s : State) (ctx : Nat) (xchk : Bool) (entry : Nat) : Translation :=
  let word (a : Nat) : Option Word64 := (s.wordAt ctx a).toOption
  let code := walkCode word procedureLimit [entry] []
  let words := code.foldl (fun m x =>
    SMap.insert (match x.2.2 with
      | some w1 => if longOp (opOf x.2.1) then SMap.insert m (x.1 + 8) w1 else m
      | none => m) x.1 x.2.1) ([] : SMap Word64)
  { (default : Translation) with ctx := ctx, entry := entry, xchk := xchk, words := words, nba := s.nextXlat, version := Config.translatorVersion }

/-- Whether a translation serves an address of a context. -/
def serves (ctx : Nat) (xchk : Bool) (a : Nat) (t : Translation) : Bool :=
  t.ctx == ctx && t.xchk == xchk && ((t.entry == a && !t.words.isEmpty) || (SMap.find? t.words a).isSome)

/-- A translation in the stacks for the same bytes at another address (R268). -/
def State.sharedFor (s : State) (ctx : Nat) (xchk : Bool) (entry : Nat) : Option Translation :=
  s.xlats.findSome? fun t =>
    let x := moveXlat t ctx entry
    if t.xchk = xchk ∧ !t.words.isEmpty ∧ s.wordsNow x ∧ s.keyOf x = t.key then some x else none

/-- R266: the service finds the translation of the procedure at an address, for this context or with the same key for
another, or else produces it. -/
def State.translate (s : State) (ctx : Nat) (xchk : Bool) (entry : Nat) : State :=
  match s.xlats.find? (serves ctx xchk entry) with
  | some t => { s with
      xlats := s.xlats.map (patchCalls ctx entry xchk (some t.nba))
      g := if s.g.present && waitsFor t s.g then { s.g with pend := .idle, stall := .none } else s.g
      others := s.others.map fun g => if waitsFor t g then { g with pend := .idle, stall := .none } else g }
  | none =>
    match s.sharedFor ctx xchk entry with
    | some t =>
      let resume (g : Group) : Group := if waitsFor t g then { g with pend := .idle, stall := .none } else g
      State.touchCode { s with
        xlats := (s.xlats ++ [t]).map (patchCalls ctx entry xchk (some t.nba))
        g := if s.g.present then resume s.g else s.g
        others := s.others.map resume } t
    | none =>
      let t := s.produce ctx xchk entry
      (State.place_ { s with xlats := s.xlats.filter fun x =>
        !(x.ctx == ctx && x.xchk == xchk && x.entry == entry && x.words.isEmpty) } t).touchCode t

/-- R266: a group reaches a stub, or an address that no translation holds, and waits; the service translates the
procedure there, stores the entry words, and resumes the group. -/
def execTranslationStubCall (who : GRef) (callee : Nat) (s : State) : Out :=
  .next (match s.findGroup who with
    | none => s
    | some g => s.translate g.p.ctx g.u.xchk callee)

/-- R267: the service cannot place a translation within 100 ms. -/
def execXlatTimeout (who : GRef) (s : State) : Out :=
  .next (match s.findGroup who with
    | none => s
    | some g =>
      match g.pend with
      | .xlate va since =>
        if va < 0x1FD * 2 ^ 48 ∧ since + 100000000 ≤ s.gtime then s.xlatFault who 0 else s
      | _ => s)

/-! ### Hot procedures (R271) -/

/-- Whether a profile makes a procedure hot: entries or clk in one window of 100 ms, or a hoist site's
aborts. -/
def Profile.isHot (p : Profile) : Bool :=
  decide (10000 < p.entries) || decide (172800000 < p.clk) || p.aborts.any fun a => decide (8 ≤ a.2)

/-- A hot procedure is translated again in the background: the service is asked for it, and the sites with 8 aborts
are not to be hoisted. A window that has ended starts the counts again. -/
def execHotRetranslation (id : Nat) (s : State) : Out :=
  .next (
    let p := s.profile id
    let fresh : Profile := { p with entries := 0, clk := 0, window := s.gtime }
    if p.window + 100000000 < s.gtime then s.setProfile id fresh
    else if p.isHot then
      ({ s with xlats := s.xlats.map fun t => if t.id = id then { t with hot := true } else t } : State).setProfile
        id { fresh with
          aborts := p.aborts.filter fun a => decide (a.2 < 8)
          unhoist := p.unhoist ++ (p.aborts.filter fun a => decide (8 ≤ a.2)).map Prod.fst }
    else s)

/-! ### Packages (R273, R404) -/

/-- The numbers of a concordance entry and row, for a signature. -/
def rowNumbers (r : ConcRow) : List Nat := [r.vpc, r.boff, r.flags] ++ r.entries.map entryWord

/-- What the signature of a package covers: its key, its translation with its companion's code, its concordance, and the
producing device's location. -/
def packageSigned (p : Package) (features : List Nat) : List Nat :=
  [Config.shake256 (keyInput p.t features)] ++ keyInput p.t features ++ p.t.bundles.map BitVec.toNat ++
    [p.t.vw0, p.t.vw1, p.t.sw] ++ p.t.rows.flatMap rowNumbers ++ p.t.calls.map Prod.fst ++ [p.producer]

/-- R404: whether a peer is in the trust domain. -/
def State.trusts (s : State) (p : Peer) : Bool :=
  s.boot.domain.contains (Config.shake256 [p.identity]) &&
  Config.mldsaVerify p.identity (Config.shake256 [p.key]) p.certificate &&
  p.slots == [2, 3, 4].map (NMap.get s.boot.slots)

/-- Whether a package comes from a peer of the trust domain and is signed by its translation key. -/
def State.packageOk (s : State) (p : Package) : Bool :=
  s.trusts p.peer &&
  Config.mldsaVerify p.peer.key (Config.shake256 (packageSigned p (s.featuresAt p.t.ctx p.t.entry))) p.signature

end Sys2Proof.Machine
end

