-- ==== Sys2Proof/Machine/Remote.lean ====
section
/-! DEFINITION. Requests of other devices at this one (R333, R364 to R372, R380), and the replies to this
device's own (R367). -/

namespace Sys2Proof.Machine

/-! ### At the target -/

/-- R133: a fault at a target carries RMT. -/
def rmt (t : Trap) : Trap :=
  if t.aux / 2 ^ 15 % 2 = 1 then t else { t with aux := t.aux + 2 ^ 15 }

/-- The access of one operand of a request, in the requester's context (R333). -/
def State.inAcc (s : State) (m : Msg) (lane addr size align : Nat) (read write : Bool) (win : Win)
    (host : Bool) : Acc :=
  { lane := lane, addr := if addr < 2 ^ 57 then some (s.devloc.toNat * 2 ^ 57 + addr) else none,
    bad := s.devloc.toNat * 2 ^ 57 + addr % 2 ^ 57, size := size, align := align, read := read,
    write := write, win := win, host := host, thread := false, cls := m.cls, ctx := m.ctx }

/-- Checks the operands of a request; no window of a group exists for it (R26). -/
def State.inCheck (s : State) (l : List Acc) : Except Trap (List (Acc × List Span)) :=
  match l.find? fun a => match a.addr with | some x => decide (winPrivate < localOf x + a.size) | none => false with
  | some a => .error (rmt (a.err 4 .canon (a.addr.getD 0) 0).trap)
  | none =>
    match s.checkNew l with
    | .error r => .error (rmt r.trap)
    | .ok ws => .ok (herePart (l.zip ws))

/-- Remaining ns of a wake of `d` ns that may have begun. -/
def wakeLeft (now : Nat) (at_ : Option Nat) (d : Nat) : Nat :=
  match at_ with | some t => t - now | none => d

/-- The die that homes the line of an address (R322). -/
def State.homeOf (s : State) (ctx addr : Nat) : Option Nat :=
  match s.leafOf ctx {} addr with
  | .error _ => none
  | .ok f => homeDie (f.pa addr)

/-- R360: the ns that a request for an address has to wait because the device, or the die that homes the
line, sleeps. -/
def State.asleep (s : State) (ctx addr : Nat) : Option Nat :=
  if s.devPower = 4 then some (wakeLeft s.gtime s.devWakeAt 30000000)
  else
    match s.homeOf ctx addr with
    | none => none
    | some d =>
      if (s.dieSt d).power = 3 then some (wakeLeft s.gtime (s.dieSt d).wakeAt 1500000) else none

/-- The unit whose wake a request waits for. -/
def State.sleeper (s : State) (ctx addr : Nat) : PowerUnit :=
  if s.devPower = 4 then .device
  else match s.homeOf ctx addr with
    | none => .device
    | some d => .die d

/-- R360: the ns that a request has to wait: by its address; a SEND, a tile child or a package, which has none, while
every die sleeps. -/
def State.asleepFor (s : State) (m : Msg) : Option Nat :=
  if m.type = 0x20 ∨ m.type = 0x0F ∨ m.type = 0x10 then
    let dies := (List.range 4).filter fun d => !(s.dieSt d).off
    if s.devPower = 4 then some (wakeLeft s.gtime s.devWakeAt 30000000)
    else if !dies.isEmpty && dies.all fun d => (s.dieSt d).power == 3 then
      some (wakeLeft s.gtime (s.dieSt (lowest dies)).wakeAt 1500000)
    else none
  else s.asleep m.ctx m.addr

/-- The unit whose wake a request waits for: of those without an address, the lowest die. -/
def State.sleeperFor (s : State) (m : Msg) : PowerUnit :=
  if (m.type = 0x20 ∨ m.type = 0x0F ∨ m.type = 0x10) ∧ s.devPower ≠ 4 then
    .die (lowest ((List.range 4).filter fun d => !(s.dieSt d).off))
  else s.sleeper m.ctx m.addr

/-- One reply for each entry of a request's acknowledgement list, routed by destination (R371). -/
def State.ackAll (s : State) (m r : Msg) : State :=
  m.acks.foldl (fun s a => s.post { r with
    dst := a.1, rtag := { combined := false, hop := 0, entry := 0, stag := a.2 }, depth := 0, path := []
    routed := true }) s

/-- A reply other than DONE: back along the path, or to every member of a combined RED, whose path is one member's
alone (R367, R371). -/
def State.replyAll (s : State) (m r : Msg) : State := if 1 < m.acks.length then s.ackAll m r else s.post r

/-- The wait of a request of the same source and class that came before (R366). -/
def State.waitsBefore (s : State) (m : Msg) : Option PageWait :=
  if m.type < 0x18 then
    s.pageWaits.find? fun x => x.msg.src == m.src && x.msg.cls == m.cls && decide (x.msg.type < 0x18)
  else none

/-- Serves a request: FAULT before the boot's end (R401), WAKE while the unit sleeps (R360), and otherwise its effect,
or a FAULT reply. One that needs a page that the runtime has made non-resident waits for it unseen (R328), and the later
ones of its source and class wait behind it (R366). -/
def State.serve (s : State) (m : Msg) (again : Instr) (f : State → Except Trap State) : State :=
  let away (t : Trap) : State := s.replyAll m (m.faulted s.devloc.toNat t)
  if s.boot.stage < 2 then away { cause := .fabric, va := s.devloc.toNat * 2 ^ 57 + m.addr, aux := 2 ^ 15 }
  else
    match s.asleepFor m with
    | some ns =>
      let s1 := s.replyAll m { m.reply s.devloc.toNat 0x1C [] none with
        count := ns, kind := if m.type = 0x20 then 1 else 0, operand := m.count }
      -- a SEND is sent again when the wake ends (R380); any other request is performed then
      let waits := if m.type = 0x20 then s1.host.waits else s1.host.waits ++ [again]
      ({ s1 with host := { s1.host with waits := waits } } : State).later (.powerWake (s.sleeperFor m))
    | none =>
      match s.waitsBefore m with
      | some x => { s with pageWaits := s.pageWaits ++ [{ x with who := m.who, req := again, msg := m, job := none, behind := true }] }
      | none =>
        match f s with
        | .ok s' => s'
        | .error t =>
          if t.cause = .page && s.pageAway m.ctx (localOf t.va / 4096) then
            ({ s with pageWaits := s.pageWaits ++ [{ who := m.who, ctx := m.ctx, page := localOf t.va / 4096,
                                                     req := again, trap := t, msg := m, refusal := none,
                                                     answer := m.faulted s.devloc.toNat t, job := none, behind := false }] } : State).askMap
              m.who (localOf t.va / 4096)
          else away t

/-- The accesses of a request's operands. -/
def State.opAccs (s : State) (m : Msg) (read write : Bool) (win : Win) (host : Bool) :
    List (Acc × Nat) :=
  m.ops.map fun o =>
    let size := if write then o.2.2 / 2 ^ 128 else o.2.2
    (s.inAcc m o.1 o.2.1 size (if m.count = 0 then size else 1) read write win host, o.2.2 % 2 ^ 128)

/-- R319: an access of [addr, addr + n) is one that its operation's oldest pin of those bytes waited for; a pin
whose bytes are all accessed is over. -/
def unpin (m : Msg) (addr n : Nat) : List Pin → List Pin
  | [] => []
  | p :: ps =>
    let lo := max p.addr addr
    let hi := min (p.addr + p.len) (addr + n)
    if p.src = m.src ∧ p.who = m.who ∧ p.ctx = m.ctx ∧ (p.mark = 0 ↔ m.count ≠ 0) ∧ lo < hi then
      if p.left ≤ hi - lo then ps else { p with left := p.left - (hi - lo) } :: ps
    else p :: unpin m addr n ps

/-- The pins after the accesses of a request (R319, R334). Of the reads, writes and atomics, an engine's alone has a
COUNT. -/
def State.accessed (s : State) (m : Msg) (l : List Acc) : State :=
  { s with pins := l.foldl (fun ps a => unpin m (localOf (a.addr.getD 0)) a.size ps) s.pins }

def execRd (m : Msg) (s : State) : Out :=
  .next (s.serve m (.rd m) fun s =>
    -- an engine moves what it reads, poison too (R408)
    let accs := ((s.opAccs m true false .globalOnly true).map Prod.fst).map fun a => { a with eats := m.count == 0 }
    match s.inCheck accs with
    | .error t => .error t
    | .ok l =>
      let marks := if m.count = 0 then 0 else bitmapOf (s.marksAs m.who (l.flatMap Prod.snd))
      let vals : List (Nat × Nat × Nat) := (l.map fun x => (x.1.lane, s.readSpans x.2, 0)) ++
        (if marks = 0 then [] else [(1, marks, 0)])
      .ok (((s.touchAll accs).accessed m accs).post (m.reply s.devloc.toNat 0x18 vals none)))

def execWr (m : Msg) (s : State) : Out :=
  .next (s.serve m (.wr m) fun s =>
    let accs := s.opAccs m false true .globalOnly true
    match s.inCheck (accs.map Prod.fst) with
    | .error t => .error t
    | .ok l =>
      let s0 := (l.zip (accs.map Prod.snd)).foldl (fun s x => (s.touch x.1.1).writeSpans x.1.2 x.2) s
      let s1 := if m.count = 0 then s0
        else s0.putMarks m.who ((List.range m.count).filter m.operand.testBit) (l.flatMap Prod.snd)
      .ok ((s1.accessed m (accs.map Prod.fst)).post (m.reply s.devloc.toNat 0x19 [] none)))

/-- R368: the stores, then 1 added to the flag, then one DONE. -/
def execStfMessage (m : Msg) (s : State) : Out :=
  .next (s.serve m (.stfMessage m) fun s =>
    let flag := (m.ops.head?.map fun o => s.inAcc m o.1 o.2.1 8 8 true true .globalOnly false).toList
    let accs := s.opAccs { m with ops := m.ops.tail } false true .globalOnly false
    match s.inCheck (accs.map Prod.fst ++ flag) with
    | .error t => .error t
    | .ok l =>
      let put (s : State) : State := (l.zip (accs.map Prod.snd)).foldl
        (fun s x => (s.touch x.1.1).writeSpans x.1.2 x.2) s
      let s1 := match l.getLast? with
        | some x => ((put s).touch x.1).bumpFlag x.2
        | none => s
      .ok (s1.post (m.reply s.devloc.toNat 0x19 [] none)))

def execAtom (m : Msg) (s : State) : Out :=
  .next (s.serve m (.atom m) fun s =>
    let size := 2 ^ m.sz
    let acc := s.inAcc m ((m.ops.head?.map fun o => o.1).getD 0) m.addr size size true true .globalOnly false
    match s.inCheck [acc] with
    | .error t => .error t
    | .ok l =>
      let spans := (l.head?.map Prod.snd).getD []
      let s0 := s.touch acc
      if m.kind = 2 then
        let r := (s0.accessed m (m.ops.map fun _ => acc)).atomics (m.ops.map fun o =>
          { lane := o.1, spans := spans, size := size, opc := 0, x := o.2.2 % 2 ^ 128,
            cmp := some (o.2.2 / 2 ^ 128) })
        .ok (r.2.post (m.reply s.devloc.toNat 0x1A (r.1.map fun x => (x.1, x.2, 0)) none))
      else
        let w := s0.readSpans spans
        let s1 := s0.writeSpans spans (newWord m.opc size w m.operand)
        if m.kind = 1 then .ok ((s1.accessed m (if m.count = 0 then m.ops.map fun _ => acc else [acc])).ackAll m (m.reply s.devloc.toNat 0x19 [] none))
        else .ok ((s1.accessed m (m.ops.map fun _ => acc)).post (m.reply s.devloc.toNat 0x1A [(0, w, 0)] none)))

def execFaorMessage (m : Msg) (s : State) : Out :=
  .next (s.serve m (.faorMessage m) fun s =>
    let size := 2 ^ m.sz
    let acc := s.inAcc m ((m.ops.head?.map fun o => o.1).getD 0) m.addr size size true true .globalOnly false
    -- a poisoned word ranks behind the count (R133)
    match s.inCheck [acc.early] with
    | .error t => .error t
    | .ok l =>
      let pa := ((l.head?.bind fun x => x.2.head?).map Span.at_).getD 0
      if m.count = 0 ∨ 2 ^ 20 < m.count then
        .error (rmt (structTrap (s.devloc.toNat * 2 ^ 57 + m.addr) 8 true true acc.lane))
      else
      match s.lateTrap (l.map fun x => (acc, x.2)) with
      | some t => .error (rmt t)
      | none =>
        let s1 := { s.touch acc with faorIn := s.faorIn ++ [{ msg := m, results := [] }] }
        .ok (m.ops.foldl (fun s o => s.joinSet {
          pa := pa, size := size, opc := m.opc, p := m.count, since := s.gtime,
          member := { lrid := m.lrid - m.lrid % 32 + o.1, operand := o.2.2 % 2 ^ 128, who := m.who,
                      lane := o.1, msg := some m } }) s1))

def execRing (m : Msg) (s : State) : Out :=
  .next (s.serve m (.ring m) fun s =>
    let lane := (m.ops.head?.map fun o => o.1).getD 0
    let acc := s.inAcc m lane m.addr 32 64 true true .globalOnly false
    match s.inCheck [acc.early] with
    | .error t => .error t
    | .ok l =>
      let pa := ((l.head?.bind fun x => x.2.head?).map Span.at_).getD 0
      let at_ := s.devloc.toNat * 2 ^ 57 + m.addr
      if m.kind = 0 then
        match s.orLate (l.map fun x => (acc, x.2)) <|
            (s.touch acc).enqAt m.ctx pa at_ m.count ((m.ops.head?.map fun o => o.2.2).getD 0) m.operand with
        | .error t => .error (rmt (ringTrap lane at_ t))
        | .ok (st, s') => .ok (s'.post (m.reply s.devloc.toNat 0x1A [(0, st, 0)] none))
      else
        let r := s.ringAt pa
        -- a DEQ whose buffer was checked for another ESIZE is told of it, and takes nothing (R150)
        if r.valid && r.esize != m.count then
          .ok ((s.touch acc).post (m.reply s.devloc.toNat 0x1A [(0, ringFull, 0), (0, 0, 0), (0, r.esize, 0)] none))
        else
        match s.orLate (l.map fun x => (acc, x.2)) ((s.touch acc).deqAt m.ctx pa at_) with
        | .error t => .error (rmt (ringTrap lane at_ t))
        | .ok (st, elem, esize, s') =>
          let bits := s.headBits m.ctx pa
          .ok (s'.post (m.reply s.devloc.toNat 0x1A ([(0, st, 0), (0, elem, 0), (0, esize, 0)] ++
            (if bits = 0 then [] else [(0, bits, 0)])) none)))

/-- R334: the pins that a CHECK takes: a range of an engine's, or the accesses of an instruction that are to follow it,
when the instructions that its group issued before are over. -/
def State.pinFor (s : State) (m : Msg) (l : List Acc) : State :=
  let pins : List Pin := l.map fun a =>
    { src := m.src, who := m.who, ctx := m.ctx, addr := localOf (a.addr.getD 0), len := a.size, left := a.size
      mark := if m.count = 0 then m.operand else 0 }
  if m.count ≠ 0 then { s with pins := s.pins ++ pins }
  else
    { s with pins := (s.pins.filter fun p => !(p.src == m.src && p.who == m.who && p.mark != 0 && p.mark != m.operand)) ++
        (if m.operand = 0 then [] else pins) }

/-- R141, R333: checks ranges or lanes of a request that is still to come; the control block of a ring is found valid
or not as well (R149). -/
def execCheckMessage (m : Msg) (s : State) : Out :=
  .next (s.serve m (.checkMessage m) fun s =>
    let plain := decide (m.opc = 8 ∨ m.opc = 9)
    let accs := m.ops.map fun o =>
      let size := if m.count ≠ 0 then m.count else 2 ^ m.sz
      { s.inAcc m o.1 o.2.1 size (if m.count = 0 then size else 1) (m.opc != 9) (m.kind == 1)
        .globalOnly plain with eats := false }
    match s.inCheck accs with
    | .error t => .error t
    | .ok l =>
      let pa := ((l.head?.bind fun x => x.2.head?).map Span.at_).getD 0
      if m.opc = 0x0D && !(s.ringAt pa).valid then
        .error (rmt (structTrap (s.devloc.toNat * 2 ^ 57 + m.addr) 6 true true ((m.ops.head?.map fun o => o.1).getD 0)))
      else .ok ((s.pinFor m (l.map Prod.fst)).post (m.reply s.devloc.toNat 0x1A [] none)))

/-! ### Receive queues (R380) -/

/-- The SACK of a SEND: 0 accepted, 1 refused, 2 rejected. -/
def sackKind : Option Bool → Nat
  | some true => 0
  | some false => 1
  | none => 2

def execSendMessage (m : Msg) (s : State) : Out :=
  .next (s.serve m (.sendMessage m) fun s =>
    let r := s.offer m.ctx m.opc (BitVec.ofNat 64 m.operand)
    .ok (r.2.post { m.reply s.devloc.toNat 0x1D [] none with kind := sackKind r.1, count := m.count }))

def State.dropSend (s : State) (who : GRef) (index : Nat) : State :=
  s.updGroup who fun g => { g with sends := g.sends.filter fun x => x.index != index }

/-- A SEND that has failed is not appended any more: its message is dropped where it still is on its way (R383). -/
def State.recallSend (s : State) (who : GRef) (index : Nat) : State :=
  let other (m : Msg) : Bool := !(m.type == 0x20 && m.src == s.devloc.toNat && m.who == who && m.count == index)
  let clear (e : Nat × Elem) : Nat × Elem :=
    (e.1, { e.2 with queues := (e.2.queues.map fun q => (q.1, q.2.filter other)).filter fun q => !q.2.isEmpty })
  { s with fab := { s.fab with out := s.fab.out.filter other, elems := s.fab.elems.map clear } }

/-- FABRIC of a SEND, held against its group (R180). -/
def State.failSend (s : State) (who : GRef) (o : SendOut) : State :=
  ((s.recallSend who o.index).dropSend who o.index).updGroup who fun g =>
    { g with held := g.held ++
        [{ token := none, send := true, release := false
           trap := sendTrap o (decide (2 ^ 14 ≤ o.loc) && o.loc != s.devloc.toNat) }] }

def State.sendOf (s : State) (who : GRef) (index : Nat) : Option SendOut :=
  (s.findGroup who).bind fun g => g.sends.find? fun x => x.index == index

def execSack (m : Msg) (s : State) : Out :=
  .next (match s.sendOf m.who m.count with
    | none => s
    | some o =>
      match m.kind with
      | 0 => s.dropSend m.who m.count
      | 1 => s.updGroup m.who fun g => { g with sends := g.sends.map fun x =>
          if x.index = m.count then { x with retryAt := s.gtime + 1000 } else x }
      | _ => s.failSend m.who o)

/-- R380: a refused SEND is offered again after 1 µs. -/
def execSendRetry (who : GRef) (index : Nat) (s : State) : Out :=
  .next (match s.sendOf who index with
    | none => s
    | some o =>
      if o.retryAt = 0 ∨ s.gtime < o.retryAt then s
      else
        (s.updGroup who fun g => { g with sends := g.sends.map fun x =>
          if x.index = index then { x with retryAt := 0 } else x }).trySend who o)

def execSendTimeout (who : GRef) (index : Nat) (s : State) : Out :=
  .next (match s.sendOf who index with
    | none => s
    | some o => if o.deadline ≤ s.gtime then s.failSend who o else s)

/-! ### At the requester (R367) -/

/-- Gives an answer to the request of a tag that has none. -/
def answerTag (tag : Nat) (f : ReqOut → Answer) (l : List ReqOut) : List ReqOut :=
  l.map fun q => if q.tag = tag ∧ q.answer.isNone then { q with answer := some (f q) } else q

def Group.mapReqs (g : Group) (f : List ReqOut → List ReqOut) : Group :=
  match g.pend with
  | .remote c reqs d => { g with pend := .remote c (f reqs) d }
  | .tile t reqs m => { g with pend := .tile t (f reqs) m }
  | _ => g

/-- Changes the outstanding requests wherever they are held. -/
def State.mapReqs (s : State) (f : List ReqOut → List ReqOut) : State :=
  { s with
    g := if s.g.present then s.g.mapReqs f else s.g
    others := s.others.map fun g => g.mapReqs f
    jobs := s.jobs.map fun j => { j with reqs := f j.reqs } }

def State.answer (s : State) (tag : Nat) (f : ReqOut → Answer) : State := s.mapReqs (answerTag tag f)

/-- Every outstanding request. -/
def State.allReqs (s : State) : List ReqOut :=
  (s.groups.flatMap fun g => match g.pend with
    | .remote _ reqs _ => reqs | .tile _ reqs _ => reqs | _ => []) ++ s.jobs.flatMap Job.reqs

/-- The lanes' old words of a combined FAO, in the order in which its lanes were combined (R132, R370). -/
def prefixes (opc size : Nat) : Nat → List (Nat × Nat × Nat) → List (Nat × Nat)
  | _, [] => []
  | w, o :: os => (o.1, w) :: prefixes opc size (newWord opc size w (o.2.2 % 2 ^ 128)) os

/-- What a reply's values mean for the request. -/
def valuesFor (m : Msg) (q : ReqOut) : Answer :=
  if q.msg.type = 0x0B ∧ q.msg.kind = 0 then
    .values (prefixes q.msg.opc (2 ^ q.msg.sz) ((m.ops.head?.map fun o => o.2.1).getD 0) q.msg.ops)
  else .values (m.ops.map fun o => (o.1, o.2.1))

def execData (m : Msg) (s : State) : Out := .next (s.answer m.rtag.stag (valuesFor m))

/-- R364: acknowledgement of a performed write, RED or STF. -/
def execDone (m : Msg) (s : State) : Out :=
  .next (s.answer m.rtag.stag fun q => .values (q.lanes.map fun l => (l, 0)))

def execValue (m : Msg) (s : State) : Out :=
  .next (s.answer m.rtag.stag fun q => valuesFor m q)

/-- R367: the request's fault, precise at the requester, with RMT; that of a SEND is held against its group (R380). -/
def execFaultReply (m : Msg) (s : State) : Out :=
  .next (if m.kind = 16 then
      match s.sendOf m.who m.operand with
      | none => s
      | some o => s.failSend m.who o
    else s.answer m.rtag.stag fun _ =>
      .fault (rmt (m.trap.getD { cause := .fabric, va := m.src * 2 ^ 57 + m.addr, aux := 2 ^ 15 }))
        (m.ops.map fun o => (o.1, o.2.1)))

/-- The limit of a request's reply (R367). -/
def replyLimit (m : Msg) : Nat := if m.type = 0x0C then 1200000 else 200000

/-- R360, R367: the reply timer starts again at the end of the target's wake; a SEND is sent again there
(R380). -/
def execWake (m : Msg) (s : State) : Out :=
  .next (
    let end_ := s.gtime + m.count
    let s1 := s.mapReqs fun l => l.map fun q =>
      if q.tag = m.rtag.stag ∧ q.answer.isNone then { q with deadline := end_ + replyLimit q.msg } else q
    s1.updGroup m.who fun g => { g with sends := g.sends.map fun x =>
      if m.kind = 1 ∧ x.index = m.operand ∧ x.retryAt = 0 then { x with retryAt := end_, deadline := end_ + 200000 } else x })

def execFabricReplyTimeout (tag : Nat) (s : State) : Out :=
  .next (s.mapReqs fun l => l.map fun q =>
    if q.tag = tag ∧ q.answer.isNone ∧ q.deadline ≤ s.gtime then { q with answer := some .timeout } else q)

/-! ### Translation packages (R273) -/

/-- R273, R404: a package is installed only from a peer of the trust domain; like every request it gets one reply, for
which DONE is taken (DESIGN CHOICE, log entry 62). -/
def execXpkg (p : Package) (s : State) : Out :=
  .next (s.serve p.msg (.xpkg p) fun s =>
    .ok ((if s.packageOk p then s.install p.t else s).post (p.msg.reply s.devloc.toNat 0x19 [] none)))

/-! ### Tile children (R197, R203) -/

/-- The key of a launch of another device. -/
def podKey (m : Msg) : Nat := m.who.launch + 2 ^ 32 * (m.src + 1)

/-- What a launch of another device asks for. -/
def podAsk (m : Msg) : ResAsk :=
  let f (i : Nat) : Nat × Nat × Nat := m.ops.getD i (0, 0, 0)
  { ctx := m.ctx, key := podKey m, aff := m.addr, rdies := (f 0).1, rcores := (f 0).2.1, stage := (f 0).2.2
    die := (f 1).1, set_ := (f 1).2.1, ncirc := (f 2).1, circ := (f 2).2.1 }

/-- R347: a device of a pod set makes the launch's reservation, if it can, and answers whether it holds it. -/
def State.podReserve (s : State) (m : Msg) : State :=
  let answer (s : State) (ok : Bool) : State :=
    s.post { m.reply s.devloc.toNat 0x0F [] none with kind := 1, operand := if ok then 1 else 0 }
  if (SMap.find? s.podRes (podKey m)).isSome then answer s true
  else match s.reservation (podAsk m) with
    | none => answer s false
    | some r =>
      let s1 := s.takeRes (podAsk m) r
      answer { s1 with podRes := SMap.insert s1.podRes (podKey m) r } true

/-- The launch holds its reservation here no more. -/
def State.podRelease (s : State) (key : Nat) : State :=
  let s1 := s.freeRes key
  { s1 with podRes := SMap.erase s1.podRes key }

def execTileMessage (m : Msg) (s : State) : Out :=
  .next (
    if m.kind = 3 then s.podRelease (podKey m)
    else if m.kind = 1 then
      s.answer m.rtag.stag fun _ =>
        match m.trap with
        | some t => .fault t [(0, m.count)]
        | none => .values [(0, m.operand)]
    else
      s.serve m (.tileMessage m) fun s =>
        if m.kind = 2 then .ok (s.podReserve m)
        else match m.tile with
          | none => .ok s
          | some op => .ok (s.startJob m.who m.ctx op.scope (.tileFor m) (s.tileReqs op 1 m.ctx 0 false)))

end Sys2Proof.Machine
end

