-- ==== Sys2Proof/Machine/Links.lean ====
section
/-! DEFINITION. The elements of the fabric (R361 to R363), combining and its replies (R369 to R371), the
links (R373 to R376), and what MGMT messages carry (R364). -/

namespace Sys2Proof.Machine

/-! ### Elements (R361, R362; log entry 20 for their numbers) -/

/-- An on-die router (R361): of the core, the L2 slice group or the hub port (`kind` 0 to 2) of a die. -/
def routerNo (die kind index : Nat) : Nat := 2 ^ 14 + 2 ^ 12 * die + 2 ^ 10 * kind + index

def routerDie (e : Nat) : Nat := (e - 2 ^ 14) / 2 ^ 12
def routerKind (e : Nat) : Nat := (e - 2 ^ 14) / 2 ^ 10 % 4

/-- Kinds of element: 0 a device, 1 a board switch, 2 a pod switch, 3 an on-die router; 4 is none. -/
def elemKind (e : Nat) : Nat :=
  if e = 0 then 0 else if e ≤ 192 then 1 else if e ≤ 208 then 2
  else if 2 ^ 14 ≤ e ∧ routerDie e < 4 ∧
      (e % 2 ^ 10 < match routerKind e with | 0 => 36 | 1 => Config.sliceGroups | 2 => Config.hubPorts | _ => 0) then 3
  else 4

/-- R361: what one port may be joined to: a device's links to board switches and its other ports to its dies' hub ports,
a board switch's to a board or pod switch, and a router's to one of its own die. -/
def wireOk (w : (Nat × Nat) × (Nat × Nat)) : Bool :=
  let (e, p) := w.1
  let (f, q) := w.2
  match elemKind e, elemKind f with
  | 0, 1 => decide (p < 12) && decide (q < 64)
  | 1, 1 => decide (p < 64) && decide (q < 64)
  | 1, 2 => decide (p < 64) && decide (q < 64)
  | 0, 3 => decide (12 ≤ p) && routerKind f == 2 && q == 0
  | 3, 3 => routerDie e == routerDie f && decide (1 ≤ p) && decide (p ≤ 4) && decide (1 ≤ q) && decide (q ≤ 4)
  | _, _ => false

/-- The port at the other end of a port. -/
def State.neighbour (s : State) (e p : Nat) : Option (Nat × Nat) :=
  s.fab.wires.findSome? fun w => if w.1 = (e, p) then some w.2 else if w.2 = (e, p) then some w.1 else none

/-- Pod, board and device fields of a location (R23). -/
def podOf (loc : Nat) : Nat := loc / 2 ^ 9 % 32
def boardOf (loc : Nat) : Nat := loc / 2 ^ 4 % 32
def devOf (loc : Nat) : Nat := loc % 16

def State.elem (s : State) (e : Nat) : Elem := SMap.get default s.fab.elems e

def State.setElem (s : State) (e : Nat) (x : Elem) : State :=
  { s with fab := { s.fab with elems := SMap.set default s.fab.elems e x } }

/-- The port mask for a destination (R362). -/
def State.maskFor (s : State) (e dst : Nat) : Nat :=
  let t := (s.elem e).tables
  let away := podOf dst ≠ podOf s.devloc.toNat
  match elemKind e with
  | 0 => if away ∨ boardOf dst ≠ boardOf s.devloc.toNat then NMap.get t 0
         else NMap.get t (64 + devOf dst)
  | 1 => if away then NMap.get t 0
         else if boardOf dst ≠ (e - 1) / 6 then NMap.get t (128 + boardOf dst)
         else NMap.get t (64 + devOf dst)
  | 2 => if away then NMap.get t (192 + podOf dst) else NMap.get t (128 + boardOf dst)
  | _ => 0

/-- The output port of a message: the fixed hash's choice among the ports of the mask that are up. -/
def State.portFor (s : State) (e dst cls : Nat) : Option Nat :=
  let ports := (List.range 64).filter fun p => (s.maskFor e dst).testBit p && (s.elem e).up.testBit p
  if ports.isEmpty then none else ports[Config.linkHash e dst cls % ports.length]?

/-- R322: the die and the router at which a request of this device's memory ends; none for one that ends at the hub. -/
def State.homeRouter (s : State) (m : Msg) : Option Nat :=
  if m.type = 0x0F ∨ m.type = 0x10 ∨ 0x18 ≤ m.type then none
  else match s.leafOf m.ctx {} m.addr with
    | .error _ => none
    | .ok f => (homeDie (f.pa m.addr)).map fun d => routerNo d 1 (Config.sliceGroupOf (sliceOf (f.pa m.addr) % 48))

/-- R363: the router of a die to which its mesh takes a message: its home slice's, or that of the hub port through which
it leaves. -/
def State.meshGoal (s : State) (die : Nat) (m : Msg) : Nat :=
  if m.dst ≠ s.devloc.toNat then routerNo die 2 (Config.hubPortOf die m.dst m.cls)
  else (s.homeRouter m).getD (routerNo die 2 (Config.hubPortOf die m.dst m.cls))

/-- R363: the port towards a router by the mesh's fixed dimension order: north 1, east 2, south 3, west 4, local 0. -/
def meshPort (e goal : Nat) : Nat :=
  let a := Config.meshAt e
  let b := Config.meshAt goal
  let row := if a.1 < b.1 then some 2 else if b.1 < a.1 then some 4 else none
  let col := if a.2 < b.2 then some 3 else if b.2 < a.2 then some 1 else none
  ((if Config.meshRowFirst then row.orElse fun _ => col else col.orElse fun _ => row)).getD 0

/-- The port by which an element sends a message on (R362, R363); a request for its own device goes to its home die. -/
def State.routeOf (s : State) (e : Nat) (m : Msg) : Option Nat :=
  match elemKind e with
  | 3 => some (meshPort e (s.meshGoal (routerDie e) m))
  | 0 =>
    if m.dst = s.devloc.toNat then
      (s.homeRouter m).bind fun r => (s.neighbour (routerNo (routerDie r) 2 (Config.hubPortOf (routerDie r) m.dst m.cls)) 0).map
        Prod.snd
    else s.portFor e m.dst m.cls
  | 4 => none
  | _ => s.portFor e m.dst m.cls

/-- The virtual channel of a message (R364). -/
def vcOf (type : Nat) : Nat := if type < 0x18 then 0 else if type < 0x20 then 1 else if type = 0x20 then 2 else 3

/-- Key of an output queue: a port and a virtual channel (R366). -/
def queueKey (port : Nat) (m : Msg) : Nat := 4 * port + vcOf m.type

def Elem.push (x : Elem) (port : Nat) (m : Msg) : Elem :=
  let key := queueKey port m
  { x with queues := SMap.set [] x.queues key (SMap.get [] x.queues key ++ [m]) }

/-- Removes a message from where it waited to be sent. -/
def State.takeMsg (s : State) (m : Msg) : State :=
  if s.fab.out.contains m then { s with fab := { s.fab with out := s.fab.out.erase m } }
  else
    { s with fab := { s.fab with elems := s.fab.elems.map fun x =>
        (x.1, { x.2 with queues := (x.2.queues.map fun q => (q.1, q.2.erase m)).filter fun q =>
          !q.2.isEmpty }) } }

/-- The port of the hub, and that of a router, at which messages of the device itself enter and leave. -/
def hubLocal : Nat := 63

/-- Where a message of this device enters the fabric: at its core's router, or at the hub; a reply at the element that
passed its request last. -/
def State.entryOf (s : State) (m : Msg) : Nat × Nat :=
  if m.here.isSome ∨ (0x18 ≤ m.type ∧ m.type < 0x20) ∨ m.type = 0x0F then (m.here.getD 0, hubLocal)
  else match s.findGroup m.who with
    | some g => (routerNo (dieOf g.p.core) 0 (g.p.core % 36), 0)
    | none => (0, hubLocal)

/-- Whether two messages of this device enter at one place in one virtual channel. -/
def State.sameStream (s : State) (m x : Msg) : Bool := s.entryOf x == s.entryOf m && vcOf x.type == vcOf m.type

/-- R224, R366: whether an older message of its channel stands before a message where it waits to be sent. -/
def State.behind (s : State) (m : Msg) : Bool :=
  if s.fab.out.contains m then s.fab.out.find? (s.sameStream m) != some m
  else s.fab.elems.any fun x => x.2.queues.any fun q => q.2.contains m && q.2.head? != some m

/-! ### Combining (R369, R370) -/

/-- The least number of a wait-buffer entry of a port that is free. -/
def Elem.freeEntry (x : Elem) (port : Nat) : Option Nat :=
  (List.range 64).find? fun i => !(x.waits.any fun w => w.port == port && w.entry == i)

/-- Whether two requests agree in what R369 lists. -/
def sameTarget (t r : Msg) : Bool :=
  t.type == 0x0B && r.type == 0x0B && t.kind == r.kind && decide (t.kind ≤ 1) && t.addr == r.addr &&
  t.dst == r.dst && t.ctx == r.ctx && t.opc == r.opc && t.sz == r.sz && t.cls == r.cls &&
  t.scope == r.scope

/-- R370: the waiting request t and the element once r has joined it. -/
def Elem.combine (x : Elem) (port now : Nat) (t r : Msg) : Option (Msg × Elem) :=
  if !sameTarget t r then none
  else
    let f := if t.lrid ≤ r.lrid then t else r
    let g := if t.lrid ≤ r.lrid then r else t
    let joined : Msg := { t with
      operand := newWord t.opc (2 ^ t.sz) f.operand g.operand, lrid := f.lrid }
    if t.kind = 1 then
      if t.acks.length + r.acks.length ≤ 12 then some ({ joined with acks := f.acks ++ g.acks }, x) else none
    else
      match x.freeEntry port with
      | none => none
      | some e =>
        some ({ joined with rtag := { combined := true, hop := t.depth, entry := e, stag := 0 } },
          { x with waits := x.waits ++ [{
              port := port, entry := e, since := now, dst := t.dst, cls := t.cls, hop := t.depth,
              first := f, second := g, v1 := f.operand }] })

/-- The last message of a class in a queue, joined by what `f` makes of it. -/
def joinLast (cls : Nat) (f : Msg → Option (Msg × Elem)) (q : List Msg) : Option (List Msg × Elem) :=
  let after := q.reverse.takeWhile fun t => t.cls != cls
  match q.reverse.drop after.length with
  | [] => none
  | t :: before => (f t).map fun r => (before.reverse ++ [r.1] ++ after.reverse, r.2)

/-- Puts a request into the last one of its class that waits in an output queue, or at the queue's tail. -/
def Elem.forward (x : Elem) (port now : Nat) (m : Msg) : Elem :=
  match joinLast m.cls (fun t => x.combine port now t m) (SMap.get [] x.queues (queueKey port m)) with
  | none => x.push port m
  | some (q, y) => { y with queues := SMap.set [] y.queues (queueKey port m) q }

/-- The step that a message which has reached its end performs (R364); a package and a MGMT message bring more than a
message's fields. -/
def performStep (m : Msg) : Option Instr :=
  match m.type with
  | 0x08 => some (.rd m)
  | 0x09 => some (.wr m)
  | 0x0A => some (.stfMessage m)
  | 0x0B => some (.atom m)
  | 0x0C => some (.faorMessage m)
  | 0x0D => some (.ring m)
  | 0x0E => some (.checkMessage m)
  | 0x0F => some (.tileMessage m)
  | 0x18 => some (.data m)
  | 0x19 => some (.done m)
  | 0x1A => some (.value m)
  | 0x1B => some (.faultReply m)
  | 0x1C => some (.wake m)
  | 0x1D => some (.sack m)
  | 0x20 => some (.sendMessage m)
  | _ => none

def State.arrives (s : State) (m : Msg) : State :=
  match performStep m with | some i => s.later i | none => s

/-- Whether a port leads to the requester itself: a core at its router, the hub at the device. -/
def ownPort (e port : Nat) : Bool := (elemKind e == 3 && port == 0) || (e == 0 && port == hubLocal)

/-- Sends a reply back by a port of an element. -/
def State.sendBack (s : State) (e port : Nat) (m : Msg) : State :=
  if ownPort e port then s.arrives m else s.setElem e ((s.elem e).push port m)

/-- R362, R363, R371: an element answers a request that it cannot send on with FAULT, every member of a combined RED; a
reply that has nowhere to go ends. -/
def State.refuse (s : State) (e port : Nat) (m : Msg) : State :=
  if m.routed then s
  else
    let r := m.faulted m.dst { cause := .fabric, va := m.dst * 2 ^ 57 + m.addr, aux := 2 ^ 15 }
    if 1 < m.acks.length then s.ackAll m { r with here := some e } else s.sendBack e port r

/-- Whether a message ends at an element of its own device (R322, R333): at its home slice's router, or at the hub. -/
def State.endsAt (s : State) (e : Nat) (m : Msg) : Bool :=
  m.dst == s.devloc.toNat &&
    (if e = 0 then (s.routeOf 0 m).isNone else elemKind e == 3 && s.homeRouter m == some e)

/-- R362, R363: routes a message, recording its path, once those before it have gone (R366). -/
def execRequestForward (element port : Nat) (m : Msg) (s : State) : Out :=
  .next (if s.behind m then s else
    let s1 := s.takeMsg m
    if 16 ≤ m.depth then s1.refuse element port m
    else
      let m1 := { m with depth := m.depth + 1, path := m.path ++ [port], here := some element }
      if s1.endsAt element m1 then s1.arrives m1
      else
        match s1.routeOf element m with
        | none => s1.refuse element port m
        | some p => s1.setElem element ((s1.elem element).forward p s.gtime m1))

/-! ### Replies (R363, R371) -/

/-- The replies that one reply becomes at an element, and the entries that are left. A WAKE goes to both members, and the
entry waits on from the wake's end (R360, R371; log entry 62). -/
def splitReply (now : Nat) (waits : List WaitEntry) (m : Msg) : Nat → List Msg × List WaitEntry
  | 0 => ([m], waits)
  | fuel + 1 =>
    if !(m.rtag.combined && m.rtag.hop == m.depth && (m.type == 0x1A || m.type == 0x1B || m.type == 0x1C)) then
      ([m], waits)
    else
      let mine (w : WaitEntry) : Bool :=
        w.entry == m.rtag.entry && w.dst == m.src && w.cls == m.cls && w.hop == m.depth
      match waits.find? mine with
      | none => ([], waits)
      | some w =>
        let x := (m.ops.head?.map fun o => o.2.1).getD 0
        let toMember (t : Msg) (v : Nat) : Msg := { m with
          dst := t.src, rtag := t.rtag, path := t.path, depth := t.depth, who := t.who, lrid := t.lrid,
          ops := if m.type = 0x1A then [(0, v, 0)] else m.ops }
        let rest := if m.type = 0x1C then
            waits.map fun y => if y = w then { w with since := now + m.count } else y
          else waits.filter fun y => y != w
        let a := splitReply now rest (toMember w.first x) fuel
        let b := splitReply now a.2 (toMember w.second (newWord w.first.opc (2 ^ w.first.sz) x w.v1)) fuel
        (a.1 ++ b.1, b.2)

/-- Sends a reply one recorded hop back; none is left where it is its requester's own. -/
def State.back (s : State) (element : Nat) (m : Msg) : State :=
  match m.depth with
  | 0 => s.arrives m
  | d + 1 => s.sendBack element (m.path.getD d 0) { m with depth := d, path := m.path.take d, here := some element }

def execReplyRetrace (element : Nat) (m : Msg) (s : State) : Out :=
  .next (if s.behind m then s else
    let s1 := s.takeMsg m
    let x := s1.elem element
    let r := splitReply s.gtime x.waits m 64
    r.1.foldl (fun s m => s.back element m) (s1.setElem element { x with waits := r.2 }))

/-! ### Hops inside this device (log entry 62) -/

/-- Whether a message goes by its destination: a request, a SEND, a MGMT message, or a RED's acknowledgement (R371). -/
def byDest (m : Msg) : Bool := m.type < 0x18 || 0x20 ≤ m.type || m.routed

/-- How a message that this device has sent enters the fabric; a reply goes back by its recorded path. -/
def State.entryStep (s : State) (m : Msg) : Option Instr :=
  if s.behind m then none
  else if byDest m then some (.requestForward (s.entryOf m).1 (s.entryOf m).2 m)
  else if m.depth = 0 then none
  else m.here.map fun e => .replyRetrace e m

/-- The next hop of the message at the head of a queue of this device's own elements. A link takes the hub's (R373). -/
def State.hopStep (s : State) (e port : Nat) (m : Msg) : Option Instr :=
  if !((e == 0 && decide (12 ≤ port)) || elemKind e == 3) then none
  else (s.neighbour e port).map fun x => if byDest m then .requestForward x.1 x.2 m else .replyRetrace x.1 m

/-- The next hop on this device. -/
def State.dueHop (s : State) : Option Instr :=
  (s.fab.out.findSome? s.entryStep).orElse fun _ =>
    s.fab.elems.findSome? fun x => x.2.queues.findSome? fun q => q.2.head?.bind fun m => s.hopStep x.1 (q.1 / 4) m

/-- R371: an entry unanswered for 250 µs is freed. -/
def execWaitBufferTimeout (element port entry : Nat) (s : State) : Out :=
  .next (
    let x := s.elem element
    s.setElem element { x with waits := x.waits.filter fun w =>
      !(w.port == port && w.entry == entry && decide (w.since + 250000 ≤ s.gtime)) })

/-! ### Links (R373 to R376) -/

def State.link (s : State) (n : Nat) : Link := SMap.get default s.fab.links n

def State.setLink (s : State) (n : Nat) (l : Link) : State :=
  { s with fab := { s.fab with links := SMap.set default s.fab.links n l } }

/-- HDR of a flit (R373). -/
def flitHdr (f : Flit) : Nat :=
  f.dst % 2 ^ 15 * 2 ^ 49 + f.src % 2 ^ 15 * 2 ^ 34 + f.type % 2 ^ 6 * 2 ^ 28 + f.vc % 4 * 2 ^ 26 +
    f.kid % 2 * 2 ^ 25 + (if f.last then 2 ^ 24 else 0) + f.seq % 2 ^ 12 * 2 ^ 12 + f.ack % 2 ^ 12

/-- Bytes 0 to 119 of a flit. -/
def flitCovered (f : Flit) : List (BitVec 8) :=
  ((List.range 8).map fun i => BitVec.ofNat 8 (flitHdr f / 256 ^ i)) ++ f.payload

/-- CRC-64/ECMA-182 (log entry 14): the polynomial 0x42F0E1EBA9EA3693, most significant bit first, from 0. -/
def crc64 (l : List (BitVec 8)) : BitVec 64 :=
  let shift (c : BitVec 64) : BitVec 64 := if c.msb then (c <<< 1) ^^^ 0x42F0E1EBA9EA3693#64 else c <<< 1
  l.foldl (fun (c : BitVec 64) (b : BitVec 8) =>
    (List.range 8).foldl (fun c _ => shift c) (c ^^^ (b.setWidth 64 <<< 56))) 0

/-- The check word of a flit that is the `n`-th of its key on a link (R373, R375): the CRC, or under `key` the
tag, with the link and the key's flit counter as nonce. -/
def Link.check (l : Link) (link key n : Nat) (f : Flit) : Nat :=
  if l.encrypt then Config.flitTag key (link :: n :: (flitCovered f).map BitVec.toNat) % 2 ^ 64
  else (crc64 (flitCovered f)).toNat

/-- R375: a payload under the key stream of a flit, enciphered or deciphered; as it is on a link that does not encrypt. -/
def Link.cipher (l : Link) (link key n : Nat) (p : List (BitVec 8)) : List (BitVec 8) :=
  if l.encrypt then p.zipIdx.map fun (b, i) => b ^^^ Config.keyStream key link n i else p

/-- Seals a flit as the `n`-th of the sender's key: its payload, then its check word. -/
def Link.seal (l : Link) (link n : Nat) (f : Flit) : Flit :=
  let key := NMap.get l.txKeys l.kid
  let f1 := { f with ack := (l.expect + 4095) % 4096, kid := l.kid, payload := l.cipher link key n f.payload }
  { f1 with chk := l.check link key n f1 }

/-- Whether a link may send a new flit of a channel: up, not training, a replay buffer with room, a key not used up, and
a credit of the channel, which an acknowledgement gives back (R364, R374, R375; log entry 62). -/
def Link.mayStart (l : Link) (link vc : Nat) : Bool :=
  l.up && !l.training && decide (l.replay.length < 512) &&
    (!l.encrypt || decide (NMap.get l.sealed l.kid < 2 ^ 40)) &&
    decide ((l.replay.filter fun f => f.vc == vc && f.type != 1).length < max 1 (Config.credits link vc))

/-- Sends one flit, or lets it wait behind those of its channel (R374, R375). -/
def Link.emit (l : Link) (link : Nat) (f : Flit) : Link :=
  if !l.mayStart link f.vc || l.waiting.any fun x => x.vc == f.vc then { l with waiting := l.waiting ++ [f] }
  else
    let f1 := l.seal link (NMap.get l.sealed l.kid) { f with seq := l.seqNext }
    { l with seqNext := (l.seqNext + 1) % 4096, replay := l.replay ++ [f1], wire := l.wire ++ [f1],
             sealed := NMap.bump l.sealed l.kid, owes := false }

/-- Sends the flits that waited. -/
def Link.drain (l : Link) (link : Nat) : Link :=
  l.waiting.foldl (fun l f => l.emit link f) { l with waiting := [] }

/-- A key exported from the key schedule of the hubs' session for a direction of a link (R404); 0 marks an empty slot. -/
def Link.derived (l : Link) (link : Nat) (transmit : Bool) : Nat :=
  Config.shake256 [l.secret, l.gen, link, if transmit then 1 else 0] + 1

/-- The free slot that takes the next key (R376): the lowest empty one. -/
def freeSlot (keys : NMap) : Option Nat := [0, 1].find? fun i => NMap.get keys i == 0

/-- R376: loads the keys that wait into free slots; what is sent from now on is sealed under the sender's new one. -/
def Link.loadKeys (l : Link) : Link :=
  let l1 := match l.rxNext, freeSlot l.rxKeys with
    | k :: rest, some i =>
      { l with encrypt := true, rxNext := rest, rxKeys := NMap.set l.rxKeys i k,
               sealed := NMap.set (NMap.set l.sealed (2 + i) 0) (6 + i) 0 }
    | _, _ => l
  match l1.txNext, freeSlot l1.txKeys with
  | k :: rest, some i =>
    { l1 with encrypt := true, txNext := rest, kid := i, txKeys := NMap.set l1.txKeys i k,
              sealed := NMap.set (NMap.set l1.sealed i 0) (4 + i) 0 }
  | _, _ => l1

/-- R376: an old key retires once no flit of the replay buffer is sealed under it. The receiver knows that of the sender's
once 512 flits have come under the newer key, since a sender has at most 512 unacknowledged (R374). -/
def Link.retire (l : Link) (newest : Option Nat) : Link :=
  let old := 1 - l.kid
  let l1 := if NMap.get l.txKeys old ≠ 0 ∧ !(l.replay.any fun f => f.kid == old) then
      { l with txKeys := NMap.set l.txKeys old 0 }
    else l
  let l2 := match newest with
    | some k => if 512 ≤ NMap.get l1.sealed (2 + k) then { l1 with rxKeys := NMap.set l1.rxKeys (1 - k) 0 } else l1
    | none => l1
  l2.loadKeys

/-- Whether SEQ a was sent no later than SEQ b, among the flits of one replay buffer. -/
def seqLe (a b : Nat) : Bool := decide ((b + 4096 - a) % 4096 < 2048)

/-- Takes an acknowledgement: flits up to it leave the replay buffer. -/
def Link.acknowledge (l : Link) (link ack : Nat) : Link :=
  Link.drain (({ l with acked := ack, replay := l.replay.filter fun f => !seqLe f.seq ack } : Link).retire none) link

/-- The LNAK flit that asks for a SEQ (R364, R373). -/
def State.lnakFlit (s : State) (seq : Nat) : Flit :=
  { (default : Flit) with
    dst := s.devloc.toNat, src := s.devloc.toNat, type := 1, last := true,
    payload := [BitVec.ofNat 8 seq, BitVec.ofNat 8 (seq / 256)] ++ List.replicate 110 0 }

/-- The types of R364. -/
def flitTypes : List Nat :=
  [0, 1, 8, 9, 0x0A, 0x0B, 0x0C, 0x0D, 0x0E, 0x0F, 0x10, 0x18, 0x19, 0x1A, 0x1B, 0x1C, 0x1D, 0x20, 0x30]

/-! ### Messages as flits (R364, R365, R368, R371, R372) -/

/-- Little-endian bytes [i, i + n) of a payload. -/
def bytesAt (p : List (BitVec 8)) (i n : Nat) : Nat :=
  ((p.drop i).take n).foldr (fun b v => b.toNat + 256 * v) 0

/-- The `n` bytes of a number. -/
def leBytes (n v : Nat) : List (BitVec 8) := (List.range n).map fun i => BitVec.ofNat 8 (v / 256 ^ i)

/-- The request head of R365: bytes 0 to 47. -/
def headBytes (m : Msg) : List (BitVec 8) :=
  leBytes 8 (m.addr % 2 ^ 57) ++ leBytes 2 m.ctx ++ leBytes 1 (m.cls % 16 + 16 * (m.scope % 8)) ++
  leBytes 1 (m.ord % 4 + 4 * (m.sz % 8)) ++
  leBytes 4 ((if m.rtag.combined then 2 ^ 31 else 0) + m.rtag.hop % 32 * 2 ^ 26 + m.rtag.entry % 64 * 2 ^ 20 +
    m.rtag.stag % 2 ^ 20) ++
  leBytes 7 (m.lrid % 2 ^ 49) ++ leBytes 1 (m.opc % 16 + 16 * (m.kind % 16)) ++ leBytes 1 m.depth ++ leBytes 7 0 ++
  (List.range 16).map fun h => BitVec.ofNat 8 (m.path.getD h 0)

/-- Bytes of one lane's data, padded to 8 (R368). -/
def padTo8 (n : Nat) : Nat := (n + 7) / 8 * 8

/-- The operands of a request, from byte 48 on (R368, R371, R372). -/
def opBytes (m : Msg) : List (BitVec 8) :=
  let size := 2 ^ m.sz
  match m.type with
  | 0x0A =>
    leBytes 4 (m.ops.tail.foldl (fun b o => b ||| 2 ^ o.1) 0) ++ leBytes 4 0 ++
      m.ops.tail.flatMap fun o => leBytes 8 (o.2.1 % 2 ^ 57) ++ leBytes (padTo8 size) (o.2.2 % 2 ^ (8 * size))
  | 0x0C =>
    leBytes 4 m.count ++ leBytes 4 m.ops.length ++
      m.ops.flatMap fun o => leBytes 8 (m.lrid - m.lrid % 32 + o.1) ++ leBytes 16 (o.2.2 % 2 ^ 128)
  | 0x0B =>
    if m.kind = 1 then
      leBytes size m.operand ++ m.acks.flatMap fun a => leBytes 5 (a.1 % 2 ^ 15 + a.2 % 2 ^ 20 * 2 ^ 16)
    else Config.operandBytes m
  | _ => Config.operandBytes m

/-- The payloads of a message's flits. -/
def payloads (p : List (BitVec 8)) : List (List (BitVec 8)) :=
  (List.range (max 1 ((p.length + 111) / 112))).map fun i =>
    let l := (p.drop (112 * i)).take 112
    l ++ List.replicate (112 - l.length) 0

/-- The flits of a message, the last with LAST set (R364). -/
def flitsOf (m : Msg) : List Flit :=
  let l := payloads (if m.type < 0x18 then headBytes m ++ opBytes m else Config.operandBytes m)
  l.zipIdx.map fun (p, i) =>
    { (default : Flit) with
      dst := m.dst, src := m.src, type := m.type, vc := vcOf m.type, last := i + 1 == l.length, payload := p }

/-- The stores of an STF message (R368). -/
def stfOps (size : Nat) (p : List (BitVec 8)) : List (Nat × Nat × Nat) :=
  let mask := bytesAt p 0 4
  let step := 8 + padTo8 size
  ((List.range 32).filter mask.testBit).zipIdx.map fun (l, i) =>
    (l, bytesAt p (8 + i * step) 8, bytesAt p (16 + i * step) size + size * 2 ^ 128)

/-- The members of an FAOR message (R372). -/
def faorOps (size : Nat) (p : List (BitVec 8)) : List (Nat × Nat × Nat) :=
  (List.range (bytesAt p 4 1)).map fun i =>
    (bytesAt p (8 + i * 24) 8 % 32, 0, bytesAt p (16 + i * 24) size)

/-- The acknowledgement list of a RED (R371): 5 bytes an entry, up to one without a location. -/
def ackList (p : List (BitVec 8)) : List (Nat × Nat) :=
  ((List.range 12).map fun i => (bytesAt p (5 * i) 2 % 2 ^ 15, bytesAt p (5 * i + 2) 3 % 2 ^ 20)).takeWhile fun a => a.1 != 0

/-- The message that flits carry (R365). -/
def readMsg (fs : List Flit) : Msg :=
  match fs with
  | [] => default
  | f :: rest =>
    let p := f.payload ++ rest.flatMap Flit.payload
    if 0x18 ≤ f.type then { Config.readOperands f.type p with type := f.type, dst := f.dst, src := f.src, here := none }
    else
      let ops := p.drop 48
      let size := 2 ^ (bytesAt p 11 1 / 4 % 8)
      let h : Msg := { Config.readOperands f.type ops with
        type := f.type, dst := f.dst, src := f.src, addr := bytesAt p 0 8 % 2 ^ 57, ctx := bytesAt p 8 2,
        cls := bytesAt p 10 1 % 16, scope := bytesAt p 10 1 / 16 % 8, ord := bytesAt p 11 1 % 4,
        sz := bytesAt p 11 1 / 4 % 8,
        rtag := { combined := (bytesAt p 12 4).testBit 31, hop := bytesAt p 12 4 / 2 ^ 26 % 32,
                  entry := bytesAt p 12 4 / 2 ^ 20 % 64, stag := bytesAt p 12 4 % 2 ^ 20 },
        lrid := bytesAt p 16 7 % 2 ^ 49, opc := bytesAt p 23 1 % 16, kind := bytesAt p 23 1 / 16,
        depth := bytesAt p 24 1, path := (List.range (bytesAt p 24 1)).map fun h => bytesAt p (32 + h) 1
        here := none, routed := false, trap := none }
      if h.type = 0x0A then { h with ops := (h.lrid % 32, h.addr, 0) :: stfOps size ops }
      else if h.type = 0x0C then { h with count := bytesAt ops 0 4, ops := faorOps size ops }
      else if h.type = 0x0B ∧ h.kind = 1 then
        { h with operand := bytesAt ops 0 size, acks := ackList (ops.drop size) }
      else h

/-- The arrival of a whole message by a link: a request and an acknowledgement are routed from the hub on, a reply goes
back, and MGMT messages and packages end at the hub (R362, R363). -/
def arrival (link : Nat) (fs : List Flit) : Instr :=
  let m := readMsg fs
  if m.type = 0x30 then .mgmt (Config.readMgmt (fs.flatMap Flit.payload))
  else if m.type = 0x10 then .xpkg { Config.readPackage ((fs.flatMap Flit.payload).drop 48) with msg := m }
  else if byDest m then .requestForward 0 link m else .replyRetrace 0 m

/-! ### Receiving and sending (R373 to R376) -/

/-- Accepts a flit in SEQ order, its payload deciphered. -/
def State.acceptFlit (s : State) (n : Nat) (l : Link) (f : Flit) : State :=
  let l0 := { l with expect := (l.expect + 1) % 4096, nacked := false, owes := true,
                     sealed := if l.encrypt then NMap.bump l.sealed (2 + f.kid) else l.sealed }
  let l1 := if l.encrypt then l0.retire (some f.kid) else l0
  if f.type = 1 then (s.setLink n l1).later (.lnak n (bytesAt f.payload 0 2))
  else if !flitTypes.contains f.type then s.setLink n { l1 with errors := l1.errors + 1 }
  else
    let fs := SMap.get [] l1.part f.vc ++ [f]
    if !f.last then s.setLink n { l1 with part := SMap.set [] l1.part f.vc fs }
    else (s.setLink n { l1 with part := SMap.set [] l1.part f.vc [] }).later (arrival n fs)

/-- A port goes down at an element: it leaves the ports that are up. -/
def State.dropPort (s : State) (e p : Nat) : State :=
  let x := s.elem e
  s.setElem e { x with up := if x.up.testBit p then x.up - 2 ^ p else x.up }

/-- Drops a link from every mask, at both of its ends (R374). -/
def State.portDown (s : State) (n : Nat) : State :=
  let s1 := s.dropPort 0 n
  match s.neighbour 0 n with | some x => s1.dropPort x.1 x.2 | none => s1

/-- A link goes down; the flits of its replay buffer are discarded. -/
def State.linkDown (s : State) (n : Nat) (security : Bool) : State :=
  let l := s.link n
  (s.setLink n { l with up := false, training := false, replay := [], waiting := [],
                        secEvents := l.secEvents + (if security then 1 else 0) }).portDown n

/-- The counter under which a received flit verifies, if it does (R373, R375, R376): that of the expected flit in its key
slot; of a NULL flit, which takes no SEQ and may be lost, one of the next 64 of the slot's NULL flits (log entry 62). -/
def Link.verifies (l : Link) (link : Nat) (f : Flit) : Option Nat :=
  let key := NMap.get l.rxKeys f.kid
  if !l.encrypt then if f.chk = l.check link key 0 f then some 0 else none
  else if key = 0 then none
  else
    let n := NMap.get l.sealed (2 + f.kid)
    let nulls := 2 ^ 63 + NMap.get l.sealed (6 + f.kid)
    (if f.type = 0 then (List.range 64).map fun i => nulls + i else [n]).find? fun i => f.chk == l.check link key i f

/-- R373, R376: a flit that stands before or behind the expected one is discarded, and LNAK asks for the expected one
once. -/
def execFlitReceive (link : Nat) (flit : Flit) (s : State) : Out :=
  .next (
    let l := s.link link
    let ask (l : Link) : Link := if l.nacked then l else ({ l with nacked := true } : Link).emit link (s.lnakFlit l.expect)
    if !l.up then s
    else if l.encrypt ∧ flit.type ≠ 0 ∧ flit.seq ≠ l.expect then s.setLink link (ask l)
    else
      match l.verifies link flit with
      | none =>
        let l1 := { l with errors := l.errors + 1, fails := l.fails + 1, nacked := true }
        if l.encrypt && 16 ≤ l1.fails then (s.setLink link l1).linkDown link true
        else s.setLink link (l1.emit link (s.lnakFlit l.expect))
      | some n =>
        let l1 := ({ l with fails := 0 } : Link).acknowledge link flit.ack
        if flit.type = 0 then
          s.setLink link { l1 with
            sealed := if l.encrypt then NMap.set l1.sealed (6 + flit.kid) (n - 2 ^ 63 + 1) else l1.sealed }
        else if flit.seq ≠ l1.expect then s.setLink link (ask l1)
        else s.acceptFlit link l1
          { flit with payload := l.cipher link (NMap.get l.rxKeys flit.kid) n flit.payload })

/-- R373: a NULL flit, which takes no SEQ, acknowledges what nothing else has. -/
def Link.sendNull (l : Link) (link : Nat) (f : Flit) : Link :=
  { l with wire := l.wire ++ [l.seal link (2 ^ 63 + NMap.get l.sealed (4 + l.kid)) f], owes := false,
           sealed := if l.encrypt then NMap.bump l.sealed (4 + l.kid) else l.sealed }

/-- R404: whether the device at the other end of a link is in the trust domain. -/
def State.linkTrusted (s : State) (n : Nat) : Bool := (s.link n).peer.any s.trusts

/-- R404: a link to a device outside the trust domain stays unencrypted, or goes down under another link policy than 0
(log entry 62). -/
def State.applyPolicy (s : State) (n : Nat) : State :=
  let l := s.link n
  if s.linkTrusted n || l.peer.isNone || !l.up then s
  else if s.host.linkPolicy = 0 then
    if l.encrypt then s.setLink n { l with encrypt := false, txKeys := [], rxKeys := [], txNext := [], rxNext := [] } else s
  else s.linkDown n false

/-- A link that is free takes the next message of a channel that has a credit from the hub's port, or else sends NULL where
it owes an acknowledgement. -/
def State.feedLink (s0 : State) (n : Nat) : State :=
  let s := s0.applyPolicy n
  let l := s.link n
  let x := s.elem 0
  if !l.up || l.training || Config.linkBusy n s.tick then s
  else
    match [0, 1, 2, 3].findSome? fun vc =>
        match SMap.get [] x.queues (4 * n + vc) with
        | m :: rest => if l.mayStart n vc && !(l.waiting.any fun f => f.vc == vc) then some (vc, m, rest) else none
        | [] => none with
    | some (vc, m, rest) =>
      (s.setElem 0 { x with queues := SMap.set [] x.queues (4 * n + vc) rest }).setLink n
        ((flitsOf m).foldl (fun l f => l.emit n f) l)
    | none =>
      if l.owes then
        s.setLink n (l.sendNull n { (default : Flit) with
          dst := s.devloc.toNat, src := s.devloc.toNat, last := true, payload := List.replicate 112 0 })
      else s

/-- What the device's links send as time passes (R373). -/
def State.feedLinks (s : State) : State := (List.range 12).foldl State.feedLink s

/-- R374: sends again every flit from the expected SEQ onward; 16 in a row for one SEQ retrain the link. -/
def execLnak (link seq : Nat) (s : State) : Out :=
  .next (
    let l := s.link link
    let again := l.replay.filter fun f => seqLe seq f.seq
    let run := if l.lnakSeq = seq ∧ l.lnakRun ≠ 0 then l.lnakRun + 1 else 1
    (s.setLink link { l with
      wire := l.wire ++ again, replayed := l.replayed + again.length, lnakSeq := seq, lnakRun := run,
      training := l.training || decide (16 ≤ run)
      trainAt := if !l.training ∧ 16 ≤ run then s.gtime else l.trainAt }).countRel 6 again.length)

/-- R374: a link that has lost lock retrains while traffic waits; one that has retrained goes on; one that fails is
down. -/
def execLinkRetrain (link : Nat) (trained : Option Bool) (s : State) : Out :=
  .next (
    let l := s.link link
    match trained with
    | none => if l.up then s.setLink link { l with training := true, trainAt := s.gtime } else s
    | some true => s.setLink link (({ l with training := false, lnakRun := 0, fails := 0 } : Link).drain link)
    | some false => s.linkDown link false)

/-- R374: the links that have not retrained within 50 µs. -/
def State.lateTraining (s : State) : List Nat :=
  (s.fab.links.filter fun x => x.2.training && decide (x.2.trainAt + 50000 ≤ s.gtime)).map Prod.fst

def execNull (link ack : Nat) (s : State) : Out :=
  .next (s.setLink link ((s.link link).acknowledge link ack))

/-! ### MGMT (R364, R376, R404) -/

/-- R376, R404: the keys of both directions of a link rotate. -/
def State.rotateKeys (s : State) (n : Nat) : State :=
  let l := s.link n
  let l1 := { l with gen := l.gen + 1 }
  s.setLink n ((({ l1 with rxNext := l1.rxNext ++ [l1.derived n false], txNext := l1.txNext ++ [l1.derived n true] } : Link).loadKeys).drain n)

/-- R364: a route; a key, which is loaded only if it is the one that the hubs' session gives and its slot is free (R376,
R404); a time; the hubs' session and its KEY_UPDATE. -/
def execMgmt (b : MgmtBody) (s : State) : Out :=
  .next (match b with
    | .route e t i mask =>
      let x := s.elem e
      s.setElem e { x with tables := NMap.set x.tables (64 * t + i) mask }
    | .key n transmit slot key =>
      let l := s.link n
      if !s.linkTrusted n || key + 1 ≠ l.derived n transmit then s
      else if transmit then
        if freeSlot l.txKeys = some (slot % 2) then s.setLink n (({ l with txNext := [key + 1] } : Link).loadKeys.drain n) else s
      else if freeSlot l.rxKeys = some (slot % 2) then s.setLink n ({ l with rxNext := [key + 1] } : Link).loadKeys else s
    | .time ns => { s with gtime := ns }
    | .session n peer =>
      let l := s.link n
      (({ s with free := s.free + 1 } : State).setLink n { l with
        peer := some peer, secret := Config.mlkemSecret s.free, gen := 0 }).applyPolicy n
    | .update n => if s.linkTrusted n then s.rotateKeys n else s)

end Sys2Proof.Machine
end

