-- ==== Sys2Proof/Machine/Boot.lean ====
section
/-! DEFINITION. Boot stages 1 and 2 (R400 to R402), and SPDM (R403, R404). -/

namespace Sys2Proof.Machine

/-! ### Boot (R400 to R402) -/

/-- Whether an image may run: its signature verifies under a key, and its SVN is not below the fused count. -/
def imageOk (svn : Nat) (keys : List Nat) (i : BootImage) : Bool :=
  decide (svn ≤ i.svn) && keys.any fun k => Config.mldsaVerify k i.digest i.signature

def State.setBoot (s : State) (f : Boot → Boot) : State := { s with boot := f s.boot }

/-- Records a measurement (R402). -/
def Boot.measure (b : Boot) (slot : Nat) (l : List Nat) : Boot :=
  { b with slots := NMap.set b.slots slot (Config.shake256 l) }

/-- R402: what stage 0 measures: the ROM that it runs from, and the fuses. -/
def Boot.measureRom (b : Boot) : Boot := (b.measure 1 [Config.romDigest]).measure 5 [Config.fuseDigest]

/-- R400: stage 0 loads stage 1 from slot A, then slot B; with neither, the device stays in recovery. -/
def execBootStage1 (slotA slotB : BootImage) (s : State) : Out :=
  let run (i : BootImage) : State := s.setBoot fun b =>
    { b.measureRom.measure 2 [i.digest, i.svn] with stage := 1, keys := i.keys }
  .next (if s.boot.stage ≠ 0 ∨ s.boot.recovery then s
    else if imageOk s.boot.svn [Config.fusedKey] slotA then run slotA
    else if imageOk s.boot.svn [Config.fusedKey] slotB then run slotB
    else s.setBoot fun b => { b.measureRom with recovery := true, failing := 0 })

/-- What stage 2 brings up: the dies with full budgets, the links, the runtime's tables and the system
context (R335, R346, R400, R409). -/
def State.bringUp (s : State) (setup : BootSetup) : State :=
  let up : List Nat := (List.range 12).filter fun n => setup.linksUp.testBit n
  let die (d : Nat) : DieSt :=
    { (default : DieSt) with energy := 1000000 * s.refillRate d, at_ := s.gtime, since := s.gtime }
  let wires := setup.wires.filter wireOk
  -- a port is up that is joined to another, those of a link while it is
  let live (w : (Nat × Nat) × (Nat × Nat)) : Bool :=
    !(w.1.1 == 0 && decide (w.1.2 < 12)) || setup.linksUp.testBit w.1.2
  let ends := (wires.filter live).flatMap fun w => [w.1, w.2]
  let s0 := s.setElem 0 { s.elem 0 with up := setup.linksUp % 2 ^ 12 }
  let s1 := ends.foldl (fun s x => s.setElem x.1 { s.elem x.1 with up := (s.elem x.1).up ||| 2 ^ x.2 }) s0
  let links := up.foldl (fun m n => SMap.set default m n { (default : Link) with up := true }) s.fab.links
  let dies := (List.range 4).foldl (fun m d => SMap.set default m d (die d)) s.dies
  { s with
    devloc := BitVec.ofNat 15 setup.devloc, dies := dies, devSince := s.gtime
    fab := { s1.fab with links := links, wires := wires }
    queueTable := setup.queueTable / 4096 * 4096, relcount := setup.relcount
    host := { s.host with linksAtBoot := setup.linksUp % 2 ^ 12 } }

/-- R400, R401: stage 1 has verified the runtime and the translator, and stage 2 completes. -/
def execBootStage2Complete (runtime translator : BootImage) (setup : BootSetup) (s : State) : Out :=
  .next (if s.boot.stage ≠ 1 then s
    else if imageOk s.boot.svn s.boot.keys runtime && imageOk s.boot.svn s.boot.keys translator then
      let s1 := (s.bringUp setup).setBoot fun b =>
        { ((b.measure 3 [runtime.digest]).measure 4 [translator.digest, Config.translatorVersion]).measure 6 [] with
          stage := 2, tkey := (Config.freeWord s.free).toNat, domain := [] }
      ({ s1 with free := s1.free + 1 } : State).needCtx 0
    else s.setBoot fun b => { b with failing := 1 })

/-! ### SPDM (R403) -/

def State.spdm (s : State) (a : SpdmAnswer) : State := s.setBoot fun b => { b with answer := a, answerMac := none }

/-- Adds what a request and its answer say to what every transcript begins with (R403). -/
def State.noted (s : State) (l : List Nat) : State := s.setBoot fun b => { b with transcript := b.transcript ++ l }

/-- A signature over the SHA3-384 hash of a transcript (R403). -/
def State.signs (s : State) (key : Nat) (l : List Nat) : Nat := Config.mldsaSign key (Config.sha3 (s.boot.transcript ++ l))

/-- R403: versions 1.3 and 1.4. GET_VERSION begins a new transcript. -/
def execGetVersion (s : State) : Out :=
  .next (((s.setBoot fun b => { b with transcript := [] }).noted [0, 13, 14]).spdm (.versions [13, 14]))

/-- R403: the requests that the device supports. -/
def execGetCapabilities (s : State) : Out :=
  .next ((s.noted [1, 11]).spdm (.capabilities ["GET_VERSION", "GET_CAPABILITIES", "NEGOTIATE_ALGORITHMS", "GET_DIGESTS",
    "GET_CERTIFICATE", "CHALLENGE", "GET_MEASUREMENTS", "KEY_EXCHANGE", "FINISH", "KEY_UPDATE", "END_SESSION"]))

/-- The algorithms of R403. -/
def spdmAlgs : List SpdmAlg := [.mlDsa65, .mlKem1024, .aes256Gcm, .sha3384]

/-- Which of the algorithms of R403 a list holds. -/
def algBits (l : List SpdmAlg) : Nat := spdmAlgs.zipIdx.foldl (fun n a => if l.contains a.1 then n + 2 ^ a.2 else n) 0

def execNegotiateAlgorithms (offered : List SpdmAlg) (s : State) : Out :=
  let chosen := spdmAlgs.filter fun a => offered.contains a
  .next (((s.setBoot fun b => { b with negotiated := chosen }).noted [2, algBits offered, algBits chosen]).spdm
    (.algorithms chosen))

/-- The certificate chain of a slot: a Dernisal root and the identity key that it certifies in slot 0, and in slot 1 after
them the translation key with its certificate, signed by the identity key. -/
def State.chain (s : State) (slot : Nat) : Option (List Nat) :=
  let identity := [Config.rootKey, Config.identityKey, Config.identityCert]
  match slot with
  | 0 => some identity
  | 1 => some (identity ++ [s.boot.tkey, Config.mldsaSign Config.identityKey (Config.shake256 [s.boot.tkey])])
  | _ => none

/-- The key that a chain certifies. -/
def State.chainKey (s : State) (slot : Nat) : Nat := if slot = 1 then s.boot.tkey else Config.identityKey

/-- The SHA3-384 digests of the chains. -/
def State.chainDigests (s : State) : List (Nat × Nat) :=
  [0, 1].map fun n => (n, Config.sha3 ((s.chain n).getD []))

def execGetDigests (s : State) : Out := .next (s.spdm (.digests s.chainDigests))

def execGetCertificate (slot : Nat) (s : State) : Out :=
  .next (s.spdm (match s.chain slot with | some l => .certificate l | none => .refused))

/-- R403: a challenge is answered with the digests and a signature over the transcript, the nonce and them. -/
def execChallenge (slot nonce : Nat) (s : State) : Out :=
  .next (s.spdm (if (s.chain slot).isSome then
      .challengeAuth s.chainDigests (s.signs (s.chainKey slot) (slot :: nonce :: s.chainDigests.map Prod.snd))
    else .refused))

/-- R402, R403: one measurement slot, or all six (index 255), in raw form, with a signature. -/
def execGetMeasurements (slot : Nat) (s : State) : Out :=
  let slots := if slot = 255 then [1, 2, 3, 4, 5, 6] else [slot]
  let l := slots.map fun n => (n, NMap.get s.boot.slots n)
  .next (s.spdm (if slot = 255 ∨ (1 ≤ slot ∧ slot ≤ 6) then
      .measurements l (s.signs Config.identityKey (slot :: l.map Prod.snd))
    else .refused))

def State.session (s : State) (id : Nat) : Option Session := s.boot.sessions.find? fun x => x.id == id

def State.setSession (s : State) (x : Session) : State :=
  s.setBoot fun b => { b with sessions := b.sessions.map fun y => if y.id = x.id then x else y }

/-- R403: ML-KEM-1024 opens a session, which FINISH completes; the answer is signed over the transcript. -/
def execKeyExchange (session : Nat) (s : State) : Out :=
  let x : Session :=
    { id := session, secret := Config.mlkemSecret s.free, gen := 0, done := false, seq := 0, sent := 0 }
  let s1 := ({ s with free := s.free + 1 } : State).setBoot fun b => { b with sessions := b.sessions ++ [x] }
  .next (if (s.session session).isSome ∨ s.boot.negotiated.contains .mlKem1024 = false then s.spdm .refused
    else s1.spdm (.keyExchange session
      (s.signs Config.identityKey (s.chainDigests.map Prod.snd ++ [session, Config.shake256 [x.secret]]))))

/-- The AEAD key of a session's direction (R403). -/
def Session.aead (x : Session) (toHost : Bool) : Nat := Config.shake256 [x.secret, x.gen, if toHost then 3 else 2]

/-- R403: a secured message, here in clear beside its AES-256-GCM tag (log entry 14): one whose tag fails is refused and
has no effect; the answer to another is secured in its turn. -/
def State.secured (s : State) (at_ : InSession) (l : List Nat) (f : State → Session → Option State) : State :=
  match s.session at_.session with
  | none => s.spdm .refused
  | some x =>
    if at_.mac ≠ Config.flitTag (x.aead false) (x.seq :: l) then s.spdm .refused
    else
      let y := { x with seq := x.seq + 1, sent := x.sent + 1 }
      let r := f (s.setSession y) y
      let a : SpdmAnswer := if r.isSome then .accepted else .refused
      (((r.getD (s.setSession y)).spdm a)).setBoot fun b =>
        { b with answerMac := some (Config.flitTag (x.aead true) [x.sent, if r.isSome then 1 else 0]) }

def execFinish (at_ : InSession) (s : State) : Out :=
  .next (s.secured at_ [8] fun s x => if x.done then none else some (s.setSession { x with done := true }))

/-- R403, R404: the session's keys change; with a link, the rotation of R376 starts there, if its peer is in the trust
domain. -/
def execKeyUpdate (at_ : InSession) (link : Option Nat) (s : State) : Out :=
  .next (s.secured at_ (9 :: link.toList) fun s x =>
    if !x.done then none
    else match link with
      | none => some (s.setSession { x with gen := x.gen + 1 })
      | some n => if s.linkTrusted n then some (s.rotateKeys n) else none)

def execEndSession (at_ : InSession) (s : State) : Out :=
  .next (s.secured at_ [10] fun s _ =>
    some (s.setBoot fun b => { b with sessions := b.sessions.filter fun x => x.id != at_.session }))

/-- R404: the trust-domain list, of up to 16,384 digests, measured in slot 6. -/
def execTrustDomainLoad (at_ : InSession) (digests : List Nat) (s : State) : Out :=
  .next (s.secured at_ (11 :: digests) fun s x =>
    if x.done && decide (digests.length ≤ 16384) then
      some (s.setBoot fun b => { b.measure 6 digests with domain := digests })
    else none)

end Sys2Proof.Machine
end

