-- ==== Sys2Proof/Machine/Loader.lean ====
section
/-! DEFINITION. The resident loader: the object profile (R274 to R279), symbols and binding (R280 to R283),
relocation (R286 to R289), and load and unload requests (R290 to R293). -/

namespace Sys2Proof.Machine

/-! ### What an object holds -/

def charsOf (t : String) : List Nat := t.toList.map Char.toNat

/-- The zero-ended string at byte `i` of a number's `n` bytes. -/
def stringAt (v i : Nat) : Nat → List Nat
  | 0 => []
  | n + 1 =>
    let b := fieldAt v i 1
    if b = 0 then [] else b :: stringAt v (i + 1) n

/-- A section, with its bytes as a number. -/
structure Sect where
  idx : Nat
  name : List Nat
  type : Nat
  flags : Nat
  addr : Nat
  off : Nat
  size : Nat
  link : Nat
  info : Nat
  align : Nat
  data : Nat
  deriving DecidableEq, Repr

structure ElfSym where
  idx : Nat
  name : List Nat
  bind : Nat
  shndx : Nat
  value : Nat
  deriving DecidableEq, Repr

/-- A relocation record (R286). -/
structure Reloc where
  sec : Nat
  index : Nat
  off : Nat
  sym : Nat
  type : Nat
  addend : Int
  deriving DecidableEq, Repr

/-- A failure as its result record states it (R291). -/
structure LoadFail where
  sec : Nat
  record : Nat
  status : Nat
  sym : Nat
  deriving DecidableEq, Repr

/-- The index that stands for no record (R291). -/
def noRecord : Nat := 2 ^ 32 - 1

def failAt (sec status : Nat) : LoadFail := { sec := sec, record := noRecord, status := status, sym := 0 }

/-- R274: whether the header is accepted. -/
def headerOk (obj size : Nat) : Bool :=
  decide (64 ≤ size) && fieldAt obj 0 4 == 0x464C457F && fieldAt obj 4 1 == 2 && fieldAt obj 5 1 == 1 &&
  fieldAt obj 6 1 == 1 && fieldAt obj 7 1 == 0 && fieldAt obj 8 1 == 1 && fieldAt obj 16 2 == 3 &&
  fieldAt obj 18 2 == 0xD7E5 && fieldAt obj 20 4 == 1 && fieldAt obj 24 8 == 0 && fieldAt obj 48 4 == 0x0100 &&
  fieldAt obj 56 2 == 0

/-- Section `i` of an object, its name from the section-name section at `names`. -/
def sectAt (obj size names i : Nat) : Sect :=
  let at_ := fieldAt obj 40 8 + 64 * i
  let f (o n : Nat) : Nat := fieldAt obj (at_ + o) n
  let nm := fieldAt obj 40 8 + 64 * names
  let noff := fieldAt obj (nm + 24) 8 + f 0 4
  { idx := i, name := stringAt obj noff (size - noff), type := f 4 4, flags := f 8 8, addr := f 16 8,
    off := f 24 8, size := f 32 8, link := f 40 4, info := f 44 4, align := f 48 8,
    data := if f 4 4 = 8 ∨ size < f 24 8 + f 32 8 then 0 else fieldAt obj (f 24 8) (f 32 8) }

/-- R275: the listed sections, with their types and flags (1 WRITE, 2 ALLOC, 4 EXECINSTR). -/
def listed : List (List Nat × Nat × Nat) :=
  [(charsOf ".text", 1, 6), (charsOf ".rodata", 1, 2), (charsOf ".data", 1, 3), (charsOf ".bss", 8, 3),
   (charsOf ".got", 1, 3), (charsOf ".kdesc", 0x70000003, 2), (charsOf ".plans", 0x70000004, 2),
   (charsOf ".circuits", 0x70000005, 2), (charsOf ".ntext", 0x70000001, 0), (charsOf ".nconc", 0x70000002, 0),
   (charsOf ".caps", 0x70000006, 0), (charsOf ".symtab", 2, 0), (charsOf ".strtab", 3, 0),
   (charsOf ".shstrtab", 3, 0)] ++
  [".text", ".rodata", ".data", ".ntext"].map fun n => (charsOf ".rela" ++ charsOf n, 4, 0)

def Sect.isListed (x : Sect) : Bool := listed.any fun l => l.1 == x.name
def Sect.alloc (x : Sect) : Bool := x.flags.testBit 1
def Sect.placed (x : Sect) : Bool := x.isListed && x.alloc
def Sect.writable (x : Sect) : Bool := x.flags.testBit 0
def Sect.exec (x : Sect) : Bool := x.flags.testBit 2

def named (secs : List Sect) (n : String) : Option Sect := secs.find? fun x => x.name == charsOf n

/-- Whether a section's header is that of its name (R275); a relocation section's links too. -/
def Sect.headOk (secs : List Sect) (size : Nat) (x : Sect) : Bool :=
  (match listed.find? fun l => l.1 == x.name with
   | none => !x.alloc
   | some l => x.type == l.2.1 && x.flags == l.2.2 &&
      !(secs.any fun y => y.name == x.name && decide (y.idx < x.idx)) &&
      (x.type == 8 || decide (x.off + x.size ≤ size)) &&
      (x.type != 4 ||
        (some x.link == (named secs ".symtab").map Sect.idx &&
         (match secs.find? fun y => y.idx == x.info with
          | some y => x.name == charsOf ".rela" ++ y.name | none => false))))

/-- The local address of a section that is loaded at displacement d. -/
def Sect.at_ (d : Int) (x : Sect) : Nat := ((x.addr : Int) + d).toNat

/-- The pages of a placed section. -/
def Sect.pages (d : Int) (x : Sect) : List Nat :=
  if x.size = 0 then []
  else (List.range ((x.at_ d + x.size - 1) / 4096 + 1 - x.at_ d / 4096)).map (x.at_ d / 4096 + ·)

/-- R276: whether a section shares a page with an earlier one that is placed differently. -/
def Sect.shares (d : Int) (secs : List Sect) (x : Sect) : Bool :=
  secs.any fun y => decide (y.idx < x.idx) && decide (0 < x.size) && decide (0 < y.size) &&
    (y.writable != x.writable || y.exec != x.exec) &&
    decide (y.at_ d / 4096 ≤ (x.at_ d + x.size - 1) / 4096) && decide (x.at_ d / 4096 ≤ (y.at_ d + y.size - 1) / 4096)

/-- The symbols of .symtab. -/
def symsOf (secs : List Sect) : List ElfSym :=
  match named secs ".symtab" with
  | none => []
  | some t =>
    let str := named secs ".strtab"
    (List.range (t.size / 24)).map fun i =>
      let f (o n : Nat) : Nat := fieldAt t.data (24 * i + o) n
      { idx := i, name := (match str with | some z => stringAt z.data (f 0 4) (z.size - f 0 4) | none => []),
        bind := f 4 1 / 16, shndx := f 6 2, value := f 8 8 }

/-- The records of a relocation section. -/
def relocsOf (x : Sect) : List Reloc :=
  (List.range (x.size / 24)).map fun i =>
    let f (o n : Nat) : Nat := fieldAt x.data (24 * i + o) n
    let a := f 16 8
    { sec := x.idx, index := i, off := f 0 8, sym := f 12 4, type := f 8 4,
      addend := if a < 2 ^ 63 then (a : Int) else (a : Int) - 2 ^ 64 }

/-- R413: whether no local symbol follows another. -/
def localsFirst (l : List ElfSym) : Bool :=
  match l.dropWhile fun x => x.bind == 0 with
  | rest => rest.all fun x => x.bind != 0

/-- R277: the capabilities of the device (R406). -/
def deviceCaps : List Nat := [1, 2, 3, 4, 5, 6, 7, 8, 9, 10, 0x100, 0x101]

/-- The identifiers of a .caps section. -/
def Sect.caps (x : Sect) : List Nat := (List.range (x.size / 2)).map fun i => fieldAt x.data (2 * i) 2

def capsOk (x : Sect) : Bool := x.caps.all deviceCaps.contains

/-! ### Scope (R280) -/

/-- The definitions of the objects of a context, in load order. -/
def State.scope (s : State) (ctx : Nat) : List ScopeSym := (s.objects.filter fun o => o.ctx == ctx).flatMap LObject.defs

/-- A name's value in a scope: a global definition outranks weak ones, and the earliest wins. -/
def lookupIn (scope : List ScopeSym) (name : List Nat) : Option Nat :=
  match scope.find? fun d => d.name == name && d.strong with
  | some d => some d.value
  | none => (scope.find? fun d => d.name == name).map ScopeSym.value

/-- A symbol's value at displacement `d`; none when it is undefined. -/
def ElfSym.valueIn (x : ElfSym) (scope : List ScopeSym) (d : Int) : Option Int :=
  if x.shndx ≠ 0 then some ((x.value : Int) + d)
  else if x.bind = 0 then some x.value
  else match lookupIn scope x.name with
    | some v => some v
    | none => if x.bind = 2 then some 0 else none

/-- How a slot is filled at load (R281). -/
inductive SlotFill where
  | value (v : Int)
  | stub
  | undefined
  deriving DecidableEq, Repr

def ElfSym.slotFill (x : ElfSym) (scope : List ScopeSym) (d : Int) (eager : Bool) : SlotFill :=
  if x.shndx ≠ 0 ∨ x.bind = 0 then .value ((x.valueIn scope d).getD 0)
  else match lookupIn scope x.name with
    | some v => if eager then .value v else .stub
    | none => if x.bind = 2 then .value 0 else if eager then .undefined else .stub

/-! ### Relocation (R286 to R289) -/

/-- R287: Hi(x), and Lo(x). -/
def relHi (x : Int) : Int := (x + 0x800) / 4096
def relLo (x : Int) : Int := x - relHi x * 4096

/-- Whether Hi(x) fits its field. -/
def hiFits (x : Int) : Bool := decide (-(2 ^ 19) ≤ relHi x) && decide (relHi x < 2 ^ 19)

/-- Writes `width` bits at bit `lo` of a number. -/
def putBits (v lo width : Nat) (x : Int) : Nat :=
  v / 2 ^ (lo + width) * 2 ^ (lo + width) + (x % (2 : Int) ^ width).toNat * 2 ^ lo + v % 2 ^ lo

/-- Bytes and alignment of a place by type. -/
def placeOf (type : Nat) : Nat × Nat :=
  if type = 9 ∨ type = 10 then (32, 32) else if type = 11 then (16, 16) else if type = 12 then (64, 64) else (8, 8)

/-- The hi type of a lo type. -/
def hiOf (type : Nat) : Nat := if type = 3 then 2 else if type = 5 then 4 else if type = 7 then 6 else 9

/-- What the records of an object refer to: the symbols with their values, the slots' symbols with the
address of the first slot and how each is filled, the displacement, %devloc, and the native section's records. -/
structure RelEnv where
  syms : List ElfSym
  value : ElfSym → Option Int
  slots : List Nat
  fill : ElfSym → SlotFill
  got : Int
  d : Int
  devloc : Nat
  native : List Reloc

/-- A relocation in progress: the target's bytes, the records so far with their values, the failures. -/
structure RelAcc where
  data : Nat
  xs : List (Reloc × Int)
  fails : List LoadFail

/-- Whether the word at a place matches a type (R289). -/
def wordMatches (type bundle : Nat) : Bool :=
  let w := bundle % 2 ^ 64
  let op := w / 2 ^ 56
  let m4 := w / 16 % 16
  let sop := bundle / 2 ^ 232 % 256
  let sr := bundle / 2 ^ 218 % 1024
  if type = 2 ∨ type = 6 then op == 0x17 && m4 == 1
  else if type = 4 then op == 0x17 && m4 == 0
  else if type = 3 ∨ type = 5 ∨ type = 7 then
    op == 0x15 || ([0x51, 0x53, 0x55, 0x57].contains op && w % 2 == 0)
  else if type = 8 then [0x60, 0x61, 0x62, 0x64].contains op
  else if type = 9 then sop == 0x17 && bundle / 2 ^ 192 % 64 == 0
  else if type = 10 then op == 0x15 && w / 2 ^ 40 % 4096 == sr && w / 2 ^ 28 % 4096 == sr
  else true

/-- Whether a value overflows its field (R288). -/
def relOverflow (type : Nat) (x : Int) : Bool :=
  if [2, 4, 6, 9].contains type then !hiFits x
  else if type = 8 then x % 8 != 0 || decide (x / 8 < -(2 ^ 31)) || decide (2 ^ 31 ≤ x / 8)
  else if type = 11 ∨ type = 12 then decide (x < 0) || decide (2 ^ 57 ≤ x)
  else false

/-- The bytes of a place once its field is written (R288, R289). -/
def relField (type devloc : Nat) (w : Nat) (x : Int) : Nat :=
  if type = 1 ∨ type = 12 then putBits w 0 64 x
  else if type = 2 ∨ type = 4 ∨ type = 6 then putBits w 8 20 (relHi x)
  else if type = 3 ∨ type = 5 ∨ type = 7 then
    if w / 2 ^ 56 % 256 = 0x15 then putBits w 8 20 (relLo x) else putBits w 16 12 (relLo x)
  else if type = 8 then putBits w 8 32 (x / 8)
  else if type = 9 then putBits w 198 20 (relHi x)
  else if type = 10 then putBits w 8 20 (relLo x)
  else putBits (putBits w 0 64 x) 64 64 devloc

/-- The x of a record, or the status of its failure. -/
def RelEnv.valueOf (e : RelEnv) (acc : RelAcc) (r : Reloc) (place : Int) : Except Nat Int :=
  let same (h : Reloc) : Bool := h.type == hiOf r.type && h.sym == r.sym && h.addend == r.addend
  if [3, 5, 7].contains r.type then
    match acc.xs.reverse.find? fun h => same h.1 with
    | some h => .ok h.2
    | none => .error 0x0A
  else if r.type = 10 ∧ !(e.native.any fun h => same h && h.off == r.off) then .error 0x0A
  else
    match e.syms[r.sym]? with
    | none => .error 0x03
    | some x =>
      if r.type = 6 then
        if e.fill x = .undefined then .error 0x05
        else .ok (e.got + 8 * (e.slots.findIdx (· == r.sym) : Nat) + r.addend - place)
      else match e.value x with
        | none => .error 0x05
        | some v => .ok (v + r.addend - (if r.type = 2 ∨ r.type = 8 then place else 0))

/-- Checks and applies one record to its target. -/
def RelEnv.apply (e : RelEnv) (target : Sect) (native : Bool) (acc : RelAcc) (r : Reloc) : RelAcc :=
  let fail (st : Nat) : RelAcc :=
    { acc with fails := acc.fails ++ [{ sec := r.sec, record := r.index, status := st, sym := r.sym }] }
  let start := if native then 0 else target.addr
  let (n, al) := placeOf r.type
  if 13 ≤ r.type ∨ e.syms.length ≤ r.sym ∨ (native ∧ !([0, 9, 10].contains r.type)) ∨ (!native ∧ [9, 10].contains r.type) then
    fail 0x03
  else if r.type = 0 then acc
  else if r.off < start ∨ start + target.size < r.off + n ∨ r.off % al ≠ 0 then fail 0x03
  else
    let o := r.off - start
    match e.valueOf acc r ((r.off : Int) + e.d) with
    | .error st => fail st
    | .ok x =>
      let acc := { acc with xs := acc.xs ++ [(r, x)] }
      let w := fieldAt acc.data o n
      let fail (st : Nat) : RelAcc :=
        { acc with fails := acc.fails ++ [{ sec := r.sec, record := r.index, status := st, sym := r.sym }] }
      if !wordMatches r.type w then fail 0x0B
      else if relOverflow r.type x then fail 0x04
      else { acc with data := putBits acc.data (8 * o) (8 * n) (relField r.type e.devloc w x) }

/-- The distinct symbols of the REL_GOTHI20 records, in order (R281). -/
def gotSymbols (rels : List Sect) : List Nat :=
  ((rels.flatMap relocsOf).filter fun r => r.type == 6).map Reloc.sym |>.eraseDups

/-! ### Kernel descriptors, plans and circuit plans (R278, R279, R201, R378) -/

/-- Whether [a, a + n) lies in a section. -/
def insideOf (x : Option Sect) (a n : Nat) : Bool :=
  match x with
  | some x => decide (x.addr ≤ a) && decide (a + n ≤ x.addr + x.size)
  | none => false

/-- The plan at an address of .plans, with its reserved bytes' sum. -/
def planFields (x : Sect) (a : Nat) : List (Nat × Nat × Nat) × Nat :=
  let f (d o n : Nat) : Nat := fieldAt x.data (a - x.addr + 8 * d + o) n
  ((List.range 4).map fun d => (f d 0 4, f d 4 2, f d 6 1), (List.range 4).foldl (fun n d => n + f d 7 1) 0)

/-- R378: whether a circuit plan is accepted, from its header and entries. -/
def circuitOk (count rsvd : Nat) (l : List Nat) : Bool :=
  let slot (e : Nat) : Nat := e % 256
  let inp (e : Nat) : Nat := e / 256 % 8
  let out (e : Nat) : Nat := e / 2048 % 8
  decide (count ≤ 256) && rsvd == 0 &&
  (l.all fun e => decide (inp e ≤ 4) && decide (out e ≤ 4) && inp e != out e && decide (e < 2 ^ 15)) &&
  l.zipIdx.all fun (e, i) => l.zipIdx.all fun (f, j) =>
    i == j || slot e != slot f || (out e != out f && inp e != inp f)

/-- Walks `n` circuit plans: none when one runs past the section, else whether each is accepted. -/
def circuitWalk (x : Sect) : Nat → Nat → Option Bool
  | 0, _ => some true
  | n + 1, a =>
    let o := if insideOf (some x) a 8 then a - x.addr else 0
    let count := fieldAt x.data o 2
    if !insideOf (some x) a 8 || !insideOf (some x) a (8 + 4 * min count 256) then none
    else
      let l := (List.range (min count 256)).map fun i => fieldAt x.data (o + 8 + 4 * i) 4
      (circuitWalk x n ((a + 8 + 4 * count + 7) / 8 * 8)).map fun r => r && circuitOk count (fieldAt x.data (o + 2) 6) l

/-- The failures of one kernel descriptor at index `i` of .kdesc. -/
def kdescFails (secs : List Sect) (kd : Sect) (i : Nat) : List LoadFail :=
  let k := kdescOf (fieldAt kd.data (64 * i) 64)
  let text := named secs ".text"
  let plans := named secs ".plans"
  let circ := named secs ".circuits"
  let nameOk := match named secs ".strtab" with | some z => decide (k.name < z.size) | none => false
  let fits := k.scratch % 4096 == 0 && decide (k.scratch ≤ 1048576) && decide (k.priv ≤ 2 ^ 24) &&
    k.stage % 4096 == 0 && decide (k.stage ≤ 1048576) && decide (1 ≤ k.groups) && decide (k.groups ≤ 32) &&
    decide (k.modes < 4) && k.kver == 0x0100 && k.rsvd == 0 && nameOk
  let codeOk (a : Nat) : Bool := a % 8 == 0 && insideOf text a 8
  let planIn := if k.planbase = 0 then k.nplan == 0 else insideOf plans k.planbase (32 * k.nplan)
  let circIn := if k.circbase = 0 then k.ncirc == 0 else insideOf circ k.circbase 0
  let walk := match circ with | some x => circuitWalk x k.ncirc k.circbase | none => some true
  if !(fits && codeOk k.entry && (k.trap == 0 || codeOk k.trap) && planIn && circIn && walk.isSome) then
    [failAt kd.idx 0x07]
  else
    let plansOk := match plans with
      | none => true
      | some x => k.planbase == 0 || (k.planbase % 32 == 0 && (List.range k.nplan).all fun p =>
          let v := planFields x (k.planbase + 32 * p)
          v.2 == 0 && planOk 0xA4 v.1)
    (if plansOk then [] else [failAt ((plans.map Sect.idx).getD 0) 0x08]) ++
      (if walk == some true then [] else [failAt ((circ.map Sect.idx).getD 0) 0x08])

/-- R279: a descriptor's address fields at their places. -/
def kdescMoved (d : Int) (data i : Nat) : Nat :=
  [0, 8, 16, 24].foldl (fun v o =>
    let x := fieldAt v (64 * i + o) 8
    if x = 0 then v else putBits v (8 * (64 * i + o)) 64 ((x : Int) + d)) data

/-! ### Bases (R276, R290) -/

/-- Whether a page of a context has a mapping, the frame map's pages among them (R406). -/
def State.pageMapped (s : State) (ctx page : Nat) : Bool :=
  match s.findCtx ctx with
  | none => false
  | some c => c.nonresident.contains page || inFrameMap page ||
    (match c.root with
     | none => false
     | some root => match walkFrom s.mem (4096 * page) 5 root with | .error .page => false | _ => true)

/-- Whether the pages of [b, b + n) are free and lie below the binding range. -/
def State.rangeFree (s : State) (ctx n b : Nat) : Bool :=
  decide (b + n ≤ bindBase) &&
  (List.range ((b % 4096 + n + 4095) / 4096)).all fun i => !s.pageMapped ctx (b / 4096 + i)

/-- The lowest free range aligned to 64 KiB, from candidate `k` on. -/
def lowestFree (free : Nat → Bool) : Nat → Nat → Option Nat
  | 0, _ => none
  | fuel + 1, k => if free (65536 * k) then some (65536 * k) else lowestFree free fuel (k + 1)

/-- The base of an image at B0 with `n` bytes, when the request names none. -/
def State.chooseBase (s : State) (ctx b0 n : Nat) : Option Nat :=
  if 65536 ≤ b0 && s.rangeFree ctx n b0 then some b0
  else lowestFree (s.rangeFree ctx n) (bindBase / 65536) 1

/-! ### Load (R292) -/

/-- A load that passed its checks: what is mapped and published. -/
structure ObjImage where
  base : Nat
  pages : List (Nat × Bool × Bool)
  fills : List (Nat × Nat × Nat)
  slots : List (GotSlot × Int)
  text : Nat × Nat
  defs : List ScopeSym
  kdescs : List Nat
  caps : List Nat
  native : Option (List (BitVec 256) × Option Conc)

/-- Whether the runtime has frames for a number of pages, with 8 more for tables of each (log entry 19). -/
def State.roomFor (s : State) (pages : Nat) : Bool := decide (s.frames - s.freed + 9 * pages ≤ contextFrames)

/-- The addresses and bytes that each placed section holds, relocated. -/
def finalData (e : RelEnv) (rels : List Sect) (x : Sect) : RelAcc :=
  let mine := rels.filter fun r => r.name == charsOf ".rela" ++ x.name
  (mine.flatMap relocsOf).foldl (e.apply x (x.name == charsOf ".ntext")) { data := x.data, xs := [], fails := [] }

/-- The pages of a section at its base, with W and X. -/
def Sect.pagesAt (d : Int) (x : Sect) : List (Nat × Bool × Bool) :=
  (x.pages d).map fun p => (4096 * p, x.writable, x.exec)

/-- Checks an object and computes what a load of it places. -/
def State.tryLoad (s : State) (ctx obj size base : Nat) (eager nonative : Bool) : Except (List LoadFail) ObjImage :=
  if !headerOk obj size then .error [failAt 0 0x01]
  else if fieldAt obj 58 2 ≠ 64 ∨ size < fieldAt obj 40 8 + 64 * fieldAt obj 60 2 then .error [failAt 0 0x02]
  else
    let all := (List.range (fieldAt obj 60 2)).map (sectAt obj size (fieldAt obj 62 2))
    let gone := [".ntext", ".nconc", ".rela.ntext"].map charsOf
    let secs := (all.drop 1).filter fun x => !(nonative && gone.contains x.name)
    let placed := secs.filter Sect.placed
    let rels := secs.filter fun x => x.isListed && x.type == 4
    let syms := symsOf secs
    let b0 := (leastOf (placed.map Sect.addr)).getD 0
    let top : Nat := placed.foldl (fun m x => max m (x.addr + x.size)) b0
    let align : Nat := placed.foldl (fun m x => max m x.align) 4096
    match (if base = 0 then s.chooseBase ctx b0 (top - b0) else some base) with
    | none => .error [failAt 0 0x09]
    | some b =>
      let d : Int := (b : Int) - b0
      let scope := s.scope ctx
      let slotSyms := gotSymbols rels
      let got := named secs ".got"
      let gotAt : Int := match got with | some g => (g.addr : Int) + d | none => 0
      let env : RelEnv := {
        syms := syms, value := fun x => x.valueIn scope d, slots := slotSyms,
        fill := fun x => x.slotFill scope d eager, got := gotAt, d := d, devloc := s.devloc.toNat
        native := (rels.filter fun r => r.name == charsOf ".rela.ntext").flatMap relocsOf }
      let kd := named secs ".kdesc"
      let done := secs.map fun x => (x, finalData env rels x)
      let pages := (placed.flatMap (Sect.pagesAt d)).eraseDups
      let fails :=
        (if b % align ≠ 0 || !s.rangeFree ctx (top - b0) b || !s.roomFor pages.length then [failAt 0 0x09] else []) ++
        (syms.filterMap fun x =>
          if x.bind = 1 ∧ x.shndx ≠ 0 ∧ (scope.any fun y => y.name == x.name && y.strong) then
            some { sec := 0, record := noRecord, status := 0x0E, sym := x.idx } else none) ++
        (secs.filterMap fun x => if x.headOk secs size then none else some (failAt x.idx 0x02)) ++
        (placed.filterMap fun x => if x.shares d placed then some (failAt x.idx 0x02) else none) ++
        (match named secs ".symtab" with
          | some t => if localsFirst syms then [] else [failAt t.idx 0x02] | none => []) ++
        (match named secs ".caps" with | some c => if capsOk c then [] else [failAt c.idx 0x06] | none => []) ++
        (if ((got.map Sect.size).getD 0) < 8 * slotSyms.length then [failAt ((got.map Sect.idx).getD 0) 0x02] else []) ++
        (done.flatMap fun x => x.2.fails) ++
        (match kd with
          | none => []
          | some k => (if k.size % 64 = 0 ∧ k.addr % 64 = 0 then [] else [failAt k.idx 0x07]) ++
              (List.range (k.size / 64)).flatMap (kdescFails secs k))
      if !fails.isEmpty then .error fails
      else
        let nat := done.find? fun x => x.1.name == charsOf ".ntext"
        let conc := named secs ".nconc"
        let slots := slotSyms.zipIdx.filterMap fun (n, i) => (syms[n]?).map fun x =>
          ({ addr := (gotAt + 8 * (i : Int)).toNat, name := x.name,
             index := (match x.slotFill scope d eager with | .stub => some 0 | _ => none) : GotSlot },
           (match x.slotFill scope d eager with | .value v => v | _ => 0))
        .ok {
          base := b, pages := pages
          fills := done.filterMap fun (x, r) =>
            if !x.placed || x.type == 8 then none
            else some (x.at_ d, x.size,
              if some x.idx == kd.map Sect.idx then (List.range (x.size / 64)).foldl (kdescMoved d) r.data else r.data)
          slots := slots
          text := match named secs ".text" with | some t => (t.at_ d, t.size) | none => (0, 0)
          defs := syms.filterMap fun x =>
            if x.bind ≠ 0 ∧ x.shndx ≠ 0 then
              some { name := x.name, value := (((x.value : Int) + d) % (2 : Int) ^ 64).toNat, strong := x.bind == 1 }
            else none
          kdescs := match kd with | some k => (List.range (k.size / 64)).map (fun i => k.at_ d + 64 * i) | none => []
          caps := match named secs ".caps" with | some c => c.caps | none => []
          native := if nat.isNone && conc.isNone then none else
            some (match nat with
              | some (x, r) => parseBundles (x.size / 32) (bytesOf r.data x.size)
              | none => [],
              (conc.bind fun x => parseConc (bytesOf x.data x.size)).map fun c =>
                { c with rows := c.rows.map fun r => { r with vpc := (((r.vpc : Int) + d) % (2 : Int) ^ 64).toNat } }) }

/-- The callees of a procedure's direct calls, each once, in address order. -/
def callees (t : Translation) : List Nat :=
  (((sortBy (fun a b : Nat × Word64 × Word64 => decide (a.1 ≤ b.1)) (codeWords t)).filter fun x =>
    opOf x.2.1 == 0x64#8).map fun x => branchTo x.1 x.2.1).eraseDups

/-- R272: the loader offers an object's native sections to the translation stacks: they are installed when they pass
their checks, and else discarded and counted. The procedure is the one that the concordance's entry row names, and its
translation is checked (R35) when it compares (log entry 56). -/
def State.offerNative (s : State) (ctx : Nat) (n : List (BitVec 256) × Option Conc) : State :=
  let drop := s.updCtx ctx fun c => { c with nativeDropped := c.nativeDropped + 1 }
  match n.2 with
  | none => drop
  | some c =>
    match c.rows.find? fun r => r.flags.testBit 0 with
    | none => drop
    | some r =>
      let t0 := s.produce ctx (n.1.any fun b => opOf (slotM b) == 0xF1#8) r.vpc
      let t1 : Translation := { t0 with
        vw0 := c.vw0, vw1 := c.vw1, sw := c.sw, bundles := n.1, rows := c.rows
        version := Config.statedVersion (n.1.map BitVec.toNat) }
      let t : Translation := { t1 with calls := (callees t1).map fun a => (a, none) }
      if !t.bundles.isEmpty && xlatOk t && s.wordsNow t then s.install t else drop

/-- The address of a binding stub (R282). -/
def stubOf (b : Nat) : Nat := bindBase + 8 * b

/-- Numbers the slots that stubs fill, from binding index `b` on; the next index. -/
def numberSlots (b : Nat) : List (GotSlot × Int) → List (GotSlot × Nat) × Nat
  | [] => ([], b)
  | (g, v) :: t =>
    match g.index with
    | some _ =>
      let r := numberSlots (b + 1) t
      (({ g with index := some b }, stubOf b) :: r.1, r.2)
    | none =>
      let r := numberSlots b t
      ((g, (v % (2 : Int) ^ 64).toNat) :: r.1, r.2)

/-- Maps, fills and publishes a load; the object's handle. -/
def State.placeObject (s : State) (ctx : Nat) (l : ObjImage) : Nat × State :=
  let c := (s.findCtx ctx).getD default
  let (slots, next) := numberSlots c.bindNext l.slots
  let s1 := l.pages.foldl (fun s p => s.mapPage ctx p.1 p.2.1 p.2.2) s
  let s2 := l.fills.foldl (fun s f => s.placeCtx ctx f.1 (bytesOf f.2.2 f.2.1)) s1
  let s3 := slots.foldl (fun s x => s.placeCtx ctx x.1.addr (bytesOf x.2 8)) s2
  let h := c.handleNext + 1
  let o : LObject := {
    ctx := ctx, handle := h, base := l.base, ranges := l.pages.map fun p => (p.1, 4096), text := l.text,
    defs := l.defs, slots := slots.map Prod.fst, kdescs := l.kdescs, caps := l.caps }
  let s4 := ({ s3 with objects := s3.objects ++ [o] } : State).updCtx ctx fun c =>
    { c with bindNext := next, handleNext := h, started := true }
  (h, match l.native with | some n => s4.offerNative ctx n | none => s4)

/-- R291: writes a result record, STATUS last. -/
def State.giveResult (s : State) (ctx at_ status sec record sym base handle : Nat) : State :=
  let v := sec + record * 2 ^ 32 + sym * 2 ^ 64 + base * 2 ^ 96 + handle * 2 ^ 160
  match s.writeCtx ctx (at_ + 4) 28 v with
  | none => s
  | some s1 => (s1.writeCtx ctx at_ 4 status).getD s1

/-- The failure to report: lowest section, then lowest record (R292). -/
def leastFail (l : List LoadFail) : LoadFail :=
  (sortBy (fun a b => lexLe [a.sec, a.record] [b.sec, b.record]) l).head?.getD (failAt 0 0)

/-! ### Requests (R290) -/

/-- Whether a request's fields are accepted, apart from the object itself; reserved fields hold anything (R6). -/
def requestOk (ctx r : Nat) : Bool :=
  decide (fieldAt r 0 1 ≤ 1) && decide (fieldAt r 1 1 < 4) && fieldAt r 2 2 == ctx && fieldAt r 32 8 % 32 == 0

/-- The object that an unload request names, or the status of its refusal (R290, R293). -/
def State.unloadOf (s : State) (ctx r : Nat) : Except Nat LObject :=
  if !requestOk ctx r then .error 0x0C
  else match s.objects.find? fun o => o.ctx == ctx && o.handle == fieldAt r 40 8 with
    | none => .error 0x0C
    | some o =>
      if s.launches.any fun l => l.ctx == ctx && !l.complete && o.kdescs.contains l.kaddr then .error 0x0D
      else .ok o

/-- Whether an unload must wait: for operations that hold pages of the context pinned, and for a page with slots that the
runtime has made non-resident (R293, R319, R328). -/
def State.unloadWaits (s : State) (ctx : Nat) : Bool :=
  s.pinned ctx || s.objects.any fun o => o.ctx == ctx && o.slots.any fun g => s.awayIn ctx g.addr 8

/-- Whether a request must wait for a page that it names and that the runtime has made non-resident, or to unload. -/
def State.requestWaits (s : State) (ctx r : Nat) : Bool :=
  s.awayIn ctx (fieldAt r 32 8) 32 ||
  (if fieldAt r 0 1 = 1 then (match s.unloadOf ctx r with | .ok _ => s.unloadWaits ctx | .error _ => false)
   else s.awayIn ctx (fieldAt r 8 8) (fieldAt r 16 8))

/-- The request that stands at the head of a context's loader ring, when it can be served. -/
def State.loaderHead (s : State) (ctx : Nat) : Option (Nat × State) :=
  match s.findCtx ctx with
  | none => none
  | some c =>
    match s.recordAt ctx c.loader with
    | some (r, s1) => if s.requestWaits ctx r then none else some (r, s1)
    | none => none

/-- R292: serves the request at the head of the ring when it is no unload; a KIND that names neither is
answered here. -/
def execLoadRequest (ctx : Nat) (s : State) : Out :=
  .next (match s.loaderHead ctx with
    | none => s
    | some (r, s1) =>
      if fieldAt r 0 1 = 1 then s
      else
        let answer := s1.giveResult ctx (fieldAt r 32 8)
        if !requestOk ctx r then answer 0x0C 0 noRecord 0 0 0
        else match s1.readCtx ctx (fieldAt r 8 8) (fieldAt r 16 8) with
          | none => answer 0x0C 0 noRecord 0 0 0
          | some obj =>
            match s1.tryLoad ctx obj (fieldAt r 16 8) (fieldAt r 24 8) ((fieldAt r 1 1).testBit 0) ((fieldAt r 1 1).testBit 1) with
            | .error l => let f := leastFail l; answer f.status f.sec f.record f.sym 0 0
            | .ok l =>
              let p := s1.placeObject ctx l
              p.2.giveResult ctx (fieldAt r 32 8) 0 0 noRecord 0 l.base p.1)

/-! ### Unload (R293) -/

/-- Whether a slot's 8 bytes hold a value. -/
def State.slotHolds (s : State) (ctx : Nat) (g : GotSlot) (v : Nat) : Bool := s.readCtx ctx g.addr 8 == some v

/-- One slot after definitions have gone: its stub again, with a new binding index where it has none. -/
def State.restub (s : State) (ctx : Nat) (defs : List ScopeSym) (g : GotSlot) : GotSlot × State :=
  if !(defs.any fun d => d.name == g.name && s.slotHolds ctx g d.value) then (g, s)
  else
    match g.index with
    | some b => (g, s.placeCtx ctx g.addr (bytesOf (stubOf b) 8))
    | none =>
      let b := ((s.findCtx ctx).getD default).bindNext
      ({ g with index := some b },
        (s.placeCtx ctx g.addr (bytesOf (stubOf b) 8)).updCtx ctx fun c => { c with bindNext := b + 1 })

def State.restubAll (s : State) (ctx : Nat) (defs : List ScopeSym) : List GotSlot → List GotSlot × State
  | [] => ([], s)
  | g :: t =>
    let a := s.restub ctx defs g
    let r := a.2.restubAll ctx defs t
    (a.1 :: r.1, r.2)

/-- Unloads an object. -/
def State.unload (s : State) (o : LObject) : State :=
  let s1 := { s with objects := s.objects.filter fun x => x != o }
  let s2 := (s1.objects.filter fun x => x.ctx == o.ctx).foldl (fun s x =>
    let r := s.restubAll o.ctx o.defs x.slots
    { r.2 with objects := r.2.objects.map fun y => if y.ctx = x.ctx ∧ y.handle = x.handle then { y with slots := r.1 } else y }) s1
  let s3 := s2.withdrawRange o.ctx o.text.1 o.text.2
  o.ranges.foldl (fun s r => s.unmapRange o.ctx r.1 r.2) s3

/-- R293: serves an unload request at the head of the ring. -/
def execUnloadRequest (ctx : Nat) (s : State) : Out :=
  .next (match s.loaderHead ctx with
    | none => s
    | some (r, s1) =>
      if fieldAt r 0 1 ≠ 1 then s
      else
        match s1.unloadOf ctx r with
        | .error st => s1.giveResult ctx (fieldAt r 32 8) st 0 noRecord 0 0 0
        | .ok o => (s1.unload o).giveResult ctx (fieldAt r 32 8) 0 0 noRecord 0 o.base o.handle)

/-! ### Binding (R282) -/

/-- The lanes of a group that stand at an address. -/
def Group.lanesAt (g : Group) (a : Nat) : List Nat := g.r.live.filter fun l => (g.r.getPcv l).toNat % 2 ^ 57 == a

/-- Whether a group waits at a stub. -/
def waitsAt (ctx stub : Nat) (g : Group) : Bool :=
  g.p.ctx == ctx && (match g.pend with | .xlate va _ => va == stub | _ => false)

/-- The slot of a binding index. -/
def State.slotOf (s : State) (ctx b : Nat) : Option GotSlot :=
  (s.objects.filter fun o => o.ctx == ctx).findSome? fun o => o.slots.find? fun g => g.index == some b

/-- A group that waited at a stub goes on at an address. -/
def moveOn (ctx stub to_ : Nat) (g : Group) : Group :=
  if waitsAt ctx stub g then { g with pend := .idle, stall := .none, r := g.r.moveTo (g.lanesAt stub) to_ } else g

def execBind (ctx index : Nat) (s : State) : Out :=
  let stub := stubOf index
  let waiters := (s.groups.filter (waitsAt ctx stub)).map fun g => g.p.id
  .next (match s.slotOf ctx index with
    | none => waiters.foldl (fun s who =>
        (s.refocus who).faultHere { cause := .page, va := stub, aux := 0 }) s
    | some g =>
      match lookupIn (s.scope ctx) g.name with
      | none => waiters.foldl (fun s who =>
          let s1 := s.refocus who
          s1.takeTrap { cause := .xlat, va := 0, aux := index % 2 ^ 32 } stub) s
      | some v =>
        -- a slot on a page that the runtime has made non-resident is bound when the page is back (R328)
        if s.awayIn ctx g.addr 8 then s
        else
        let s1 := if s.slotHolds ctx g stub then s.placeCtx ctx g.addr (bytesOf v 8) else s
        { s1 with
          g := if s1.g.present then moveOn ctx stub v s1.g else s1.g
          others := s1.others.map (moveOn ctx stub v) })

end Sys2Proof.Machine
end

