-- ==== Sys2Proof/Machine/Prof.lean ====
section
/-! DEFINITION. The profiler service, sampling and the trace port (R390 to R395). -/

namespace Sys2Proof.Machine

/-- Performs a profiler request and writes its status (R394). -/
def State.profOn (s : State) (q : ProfReq) (r : Option State) : State :=
  match r with
  | some s1 => s1.writeResult q.ctx q.result 0
  | none => s.writeResult q.ctx q.result 3

/-- What nothing has been asked for is (R394). -/
def profDefault : ProfCfg := { period := 0, types := 0, filter := 0xFFFFFFFF, port := false }

def State.setProf (s : State) (ctx : Nat) (f : ProfCfg → ProfCfg) : State :=
  { s with trace := { s.trace with cfg := SMap.set profDefault s.trace.cfg ctx (f (s.profOf ctx)) } }

/-- The number of the sampling period in which a partition is: it samples when the number changes (R390). -/
def State.sampleNo (s : State) (core part q : Nat) : Nat := (s.clockOf core + part * (q / 8)) / q

/-- The least period among the contexts that sample; 0 for none. -/
def State.samplePeriod (s : State) : Nat :=
  (leastOf ((s.trace.cfg.map fun x => x.2.period).filter fun p => p != 0)).getD 0

/-- Starts the count of periods at the partitions that `p` selects. -/
def State.alignSamples (s : State) (p : Nat → Nat → Bool) : State :=
  let q := s.samplePeriod
  if q = 0 then s
  else { s with trace := { s.trace with
    sampled := ((List.range 1152).filter fun i => p (i / 8) (i % 8)).foldl
      (fun m i => NMap.set m i (s.sampleNo (i / 8) (i % 8) q)) s.trace.sampled } }

/-- After a change of what contexts ask for: where the device's period is another one, its count starts anew. -/
def State.realign (s old : State) : State :=
  if s.samplePeriod = old.samplePeriod then s else s.alignSamples fun _ _ => true

/-- A partition with no resident group takes no sample (R390): a period that begins there has nothing due. -/
def State.alignEmpty (s : State) : State :=
  if s.samplePeriod = 0 then s
  else
    let held := s.groups.filterMap fun g => if s.standsOn g.p.core g then some (g.p.core, g.p.part) else none
    s.alignSamples fun core part => !held.contains (core, part)

def execProfSample (q : ProfReq) (s : State) : Out :=
  let n := q.arg0.toNat
  .next (s.profOn q
    (if n = 0 then some ((s.setProf q.ctx fun c => { c with period := 0 }).realign s)
     else if 8 ≤ n ∧ n ≤ 24 then some ((s.setProf q.ctx fun c => { c with period := 2 ^ n }).realign s)
     else none))

def execProfTypes (q : ProfReq) (s : State) : Out :=
  let n := q.arg0.toNat
  .next (s.profOn q
    (if n % 2 = 0 ∧ n < 2 ^ 13 then some (s.setProf q.ctx fun c => { c with types := n }) else none))

def execProfFilter (q : ProfReq) (s : State) : Out :=
  .next (s.profOn q (some (s.setProf q.ctx fun c => { c with filter := q.arg0.toNat % 2 ^ 32 })))

def execProfPort (q : ProfReq) (s : State) : Out :=
  .next (s.profOn q (some (s.setProf q.ctx fun c => { c with port := q.arg0.getLsbD 0 })))

/-- A core's five totals now: the open clk are those of the commands present, and NOCMD with none (R395). -/
def State.arrayTotals (s : State) (core : Nat) : List Nat :=
  let counts := match s.arrayJob core with
    | some j => splitSums (arraySplit j.id (((s.jobOps j isArray).lookup core).getD 1)
        (s.arrayOpen core)) ++ [0]
    | none => [0, 0, 0, 0, s.arrayOpen core]
  (List.range 5).map fun i => (NMap.get s.trace.totals (5 * core + i) + counts.getD i 0) % 2 ^ 64

/-- Whether a request names cores that exist. -/
def coresOk (q : ProfReq) : Bool := decide (q.arg0.toNat + q.arg1.toNat ≤ 144)

def execArraytot (q : ProfReq) (s : State) : Out :=
  let row (i : Nat) : List Field := fieldRow (40 * i) 8 (s.arrayTotals (q.arg0.toNat + i))
  .next (s.profOn q
    (if coresOk q && q.buf % 64 == 0 then
      s.writeFields q.ctx q.buf ((List.range q.arg1.toNat).flatMap row)
    else none))

def execArrayclr (q : ProfReq) (s : State) : Out :=
  let mine (core : Nat) : Bool := decide (q.arg0.toNat ≤ core) && decide (core < q.arg0.toNat + q.arg1.toNat)
  let less (m : NMap) (core : Nat) : NMap := (s.arrayTotals core).zipIdx.foldl (fun m x =>
    NMap.set m (5 * core + x.2) ((NMap.get m (5 * core + x.2) + 2 ^ 64 - x.1) % 2 ^ 64)) m
  .next (s.profOn q
    (if coresOk q then
      some { s with trace := { s.trace with totals := (allCores.filter mine).foldl less s.trace.totals } }
    else none))

/-! ### Samples (R390, R391) -/

/-- The reasons that a group asserts: SAVE while it is being saved or flushed, DEBUG while a debugger or a core dump holds
it stopped, and else the reason why it waits. -/
def State.reasons (s : State) (g : Group) : List Nat :=
  let dumped := s.ctxs.any fun c => c.id == g.p.ctx && c.dumping
  let stopped := g.dbg.stopped || dumped
  if g.ended then [14]
  else if s.tick ≤ g.lastIssue + 1 ∧ g.stall = .none ∧ stopped = false ∧ g.frozen = false then [0]
  else
    let l := (if g.frozen && !dumped then [2] else []) ++ (if stopped then [3] else []) ++
      (if stopped || g.stall == .none then [] else [g.stall.code])
    if l.isEmpty then [13] else l.eraseDups

/-- The payload of a PCS record: in a region, the bundle and the virtual instruction that its lanes have reached; a group
that waits for a translation stands at none (R391). -/
def State.samplePayload (s : State) (g : Group) : Nat :=
  let rs := s.reasons g
  let at_ := if g.nat.on && !g.ended then s.xlatOf g else none
  let waits := match g.pend with | .xlate _ _ => true | _ => false
  let t := if waits then none else at_
  let pc := match at_ with
    | some t => g.laneAddr t (lowest g.bundleLanes)
    | none => g.atAddr
  let nba := match t with | some t => t.nba + g.bundleIndex | none => 0
  g.p.ctx % 2 ^ 16 * 2 ^ 104 + maskOf rs * 2 ^ 88 + (leastOf rs).getD 0 * 2 ^ 84 +
    (if t.isSome then 2 ^ 83 else 0) + nba % 2 ^ 29 * 2 ^ 54 + pc / 8 % 2 ^ 54

/-- The next occupied slot of a partition, wrapping: the group in it. -/
def State.nextSampled (s : State) (core part : Nat) : Option Group :=
  let gs := s.groups.filter fun g => s.standsOn core g && g.p.part == part
  let from_ := NMap.get s.trace.cursor (8 * core + part)
  (sortBy (fun a b : Group => decide ((a.p.slot + 16 - from_) % 16 ≤ (b.p.slot + 16 - from_) % 16)) gs).head?

/-- R390: one sample of a partition, for the earliest boundary that it has not been sampled at. -/
def execPcSample (core part : Nat) (s : State) : Out :=
  .next (match s.nextSampled core part with
    | none => s
    | some g =>
      let q := s.samplePeriod
      let tr : Trace := { s.trace with
        cursor := NMap.set s.trace.cursor (8 * core + part) ((g.p.slot + 1) % 16)
        sampled := NMap.set s.trace.sampled (8 * core + part)
          (min (NMap.get s.trace.sampled (8 * core + part) + 1) (s.sampleNo core part q)) }
      let s1 := { s with trace := tr }
      if (s.profOf g.p.ctx).period = 0 then s1 else s1.emitFor g 0x01 (s.samplePayload g))

/-- R393: the port sends the oldest record of the buffer; room that returns takes the DROP record of what was
lost. -/
def execTracePortSend (s : State) : Out :=
  .next (match s.trace.buf with
    | [] => s
    | r :: rest =>
      State.flushDrop { s with trace := { s.trace with buf := rest, port := s.trace.port ++ [r] } })

end Sys2Proof.Machine
end

