-- ==== Sys2Proof/Machine/Process.lean ====
section
/-! DEFINITION. The resident runtime for a process: private growth and non-resident pages (R29, R328), mapping
changes (R334), the end of a context (R414), core dumps (R397 to R399) and the replay log (R396). -/

namespace Sys2Proof.Machine

/-! ### Growth and paging (R29, R174, R328) -/

/-- The runtime's answer to a group that waits for private pages. -/
def Group.grown (g : Group) (granted : Bool) (perLane : Nat) : Group :=
  let bytes := if granted then max g.privBytes perLane else g.privBytes
  match g.pend with
  | .service t none =>
    { g with pend := if granted then .idle else .service t (some true),
             stall := if granted then .none else g.stall, privBytes := bytes }
  | .privsize n none => { g with pend := .privsize n (some (!granted)), privBytes := bytes }
  | .deliver t pc _ => { g with pend := .deliver t pc (!granted), privBytes := bytes }
  | _ => g

/-- Whether a group waits for private growth: an access to its private window, PRIVSIZE, or trap frames. -/
def Group.wantsGrowth (g : Group) : Bool :=
  match g.pend with
  | .service t none => decide (winPrivate ≤ localOf t.va) && decide (localOf t.va < winScratch)
  | .privsize _ none => true
  | .deliver _ _ false => true
  | _ => false

def execPrivateGrowth (who : GRef) (granted : Bool) (ptes : List (Nat × BitVec 64)) (perLane : Nat) (s : State) :
    Out :=
  .next (match s.findGroup who with
    | none => s
    | some g =>
      if !g.wantsGrowth then s
      else (if granted then s.writePtes ptes else s).updGroup who fun g => g.grown granted (min perLane (2 ^ 24)))

/-- R313, R406: the bytes of a page of the frame map: the stack of each of 4096 frames. -/
def frameMapPage (page : Nat) : List Nat :=
  (List.range 4096).map fun i => stackOf (4096 * (4096 * page - capAddr 6 + i))

/-- A page of the frame map is placed, read-only. -/
def State.placeMap (s : State) (ctx page : Nat) : State :=
  (s.mapPage ctx (4096 * page) false false).placeCtx ctx (4096 * page) (frameMapPage page)

/-- A page's contents return and its leaf is valid again; the requests of other devices that wait for it are served. -/
def State.pageBack (s : State) (ctx page : Nat) (ptes : List (Nat × BitVec 64)) (bytes : List (Nat × BitVec 8)) :
    State :=
  let s1 := { s with
    mem := bytes.foldl (fun m (b : Nat × BitVec 8) => BMap.set m b.1 b.2) s.mem
    poison := s.poison.filter fun x => !(bytes.any fun b => b.1 == x.1) }
  let placed := if inFrameMap page then s.placeMap ctx page else s1.writePtes ptes
  let s2 := placed.updCtx ctx fun c => { c with nonresident := c.nonresident.filter fun p => p != page }
  let mine (x : PageWait) : Bool := x.ctx == ctx && x.page == page
  (s2.pageWaits.filter mine).foldl (fun s x => s.later x.req)
    { s2 with pageWaits := s2.pageWaits.filter fun x => !mine x }

/-- R328: the contents of a non-resident page return, its leaf is valid again, and the group goes on; or the
group takes PAGE. A request of another device goes on in the same way (R333). -/
def execNonresidentPageService (who : GRef) (granted : Bool) (ptes : List (Nat × BitVec 64))
    (bytes : List (Nat × BitVec 8)) (s : State) : Out :=
  let far (s : State) : State :=
    match s.pageWaits.find? fun x => x.who == who && !x.behind with
    | none => s
    | some x =>
      if granted || inFrameMap x.page then s.pageBack x.ctx x.page ptes bytes
      else
        let s1 := ({ s with pageWaits := s.pageWaits.erase x } : State).afterWait x
        match x.refusal, x.job with
        | some i, _ => s1.later i
        | none, some id => (s1.post x.answer).dropJob id
        | none, none => s1.post x.answer
  .next (match s.findGroup who with
    | none => far s
    | some g =>
      match g.pend with
      | .service t none =>
        if g.wantsGrowth then s
        else if granted || inFrameMap (localOf t.va / 4096) then
          (s.pageBack (t.ctx.getD g.p.ctx) (localOf t.va / 4096) ptes bytes).updGroup who
            fun g => { g with pend := .idle, stall := .none }
        else s.updGroup who fun g => { g with pend := .service t (some true) }
      | _ => far s)

/-! ### Mapping changes (R334) -/

/-- R334: the entries are written and the old translations are gone once nothing is pinned. -/
def execMappingChange (ctx : Nat) (ptes : List (Nat × BitVec 64)) (nonresident : List Nat) (s : State) : Out :=
  let me : Instr := .mappingChange ctx ptes nonresident
  .next (if s.pinned ctx then
      if s.mapWaits.contains me then s else { s with mapWaits := s.mapWaits ++ [me] }
    else
      let s1 := (({ s with mapWaits := s.mapWaits.erase me } : State).writePtes ptes).updCtx ctx fun c =>
        { c with nonresident := nonresident }
      let back (x : PageWait) : Bool := x.ctx == ctx && !nonresident.contains x.page
      (s1.pageWaits.filter back).foldl (fun s x => s.later x.req)
        { s1 with pageWaits := s1.pageWaits.filter fun x => !back x })

/-! ### The end of a context (R414) -/

/-- Ends a context's queues: they are enabled no more, and belong to no context until they are allotted again; queue 0
stays the system context's (R335). -/
def State.closeQueues (s : State) (ctx : Nat) : State :=
  ((s.queues.filter fun x => x.2.ctx == some ctx).map Prod.fst).foldl (fun s q =>
    ((s.updQueue q fun d => { d with enable := false, hosten := false }).writeCb q false).updQueue q fun d =>
      { d with ctx := if q = 0 then some 0 else none }) s

/-- Discards a context's launches with all that they hold, but for their groups. -/
def State.dropLaunches (s : State) (ctx : Nat) : State :=
  let mine := (s.launches.filter fun l => l.ctx == ctx).map Launch.id
  let dies := (s.launches.filter fun l => l.ctx == ctx && l.ready).map fun l => l.die
  let s1 := dies.foldl (fun s d => s.setDie d fun x => { x with since := s.gtime }) (mine.foldl State.freeLaunch s)
  State.roomAgain { s1 with launches := s1.launches.filter fun l => l.ctx != ctx } s

/-- Takes a context's groups and blocks away, with the work, waits and reports that name them. -/
def State.dropGroups (s : State) (ctx : Nat) : State :=
  let gs := s.groups.filter fun g => g.p.ctx == ctx
  let names := gs.map fun g => g.p.id
  let mine (who : GRef) : Bool := names.contains who
  let s1 := gs.foldl (fun s g => ((s.leaveQueues g true).releaseLease g.p.core g.p.id).leaveCore g.p.id.launch
    g.p.id.block) (s.idleFrom (s.coresAt fun j => mine j.who))
  { s1 with
    g := if s1.g.p.ctx = ctx then { s1.g with present := false } else s1.g
    others := s1.others.filter fun g => g.p.ctx != ctx
    blocks := s1.blocks.filter fun b => !(names.any fun w => w.launch == b.launch && w.block == b.block)
    jobs := s1.jobs.filter fun j => !mine j.who
    shelf := s1.shelf.filter fun e => match e.who with | some w => !mine w | none => true
    joins := s1.joins.filter fun j => !(mine j.member.who && j.member.msg.isNone)
    sets := s1.sets.map fun o =>
      { o with members := o.members.filter fun m => !(mine m.who && m.msg.isNone) }
    icinvs := s1.icinvs.filter fun e => !mine e.who }

/-- R414, R397 step 5: the context is over: its queues, launches, groups, objects, translations, receive
queues and profiler settings. -/
def State.endContext (s : State) (ctx : Nat) : State :=
  let areas := (s.launches.filter fun l => l.ctx == ctx).flatMap fun l => l.runs.flatMap BlockRun.area
  let s0 : State := { s with freed := s.freed + areas.length + ((s.findCtx ctx).map Ctx.frames).getD 0 }
  let s1 := ((s0.closeQueues ctx).dropLaunches ctx).dropGroups ctx
  let s2 := ((s1.xlats ++ s1.olds.map OldXlat.t).filter fun t => t.ctx == ctx).foldl State.withdraw s1
  let ended (c : Ctx) : Ctx :=
    if c.id = ctx then
      { c with live := false, root := none, nonresident := [], rxMask := 0, debugged := false, dumping := false, frames := 0 }
    else c
  let gone := s2.pageWaits.filter fun x => x.ctx == ctx && !x.behind
  State.realign { gone.foldl State.afterWait { s2 with pageWaits := s2.pageWaits.filter fun x => x.msg.ctx != ctx } with
    objects := s2.objects.filter fun o => o.ctx != ctx
    rxq := s2.rxq.filter fun x => x.2.ctx != some ctx
    learned := s2.learned.filter fun l => l.ctx != ctx
    oldLogs := s2.oldLogs.filter fun o => o.l.ctx != ctx
    trace := { s2.trace with cfg := s2.trace.cfg.filter fun x => x.1 != ctx }
    pins := s2.pins.filter fun p => p.ctx != ctx
    unmaps := s2.unmaps.filter fun x => x.1 != ctx
    mapWaits := s2.mapWaits.filter fun i => match i with | .mappingChange c _ _ => c != ctx | _ => true
    ctxs := s2.ctxs.map ended } s2

def execContextEnd (ctx : Nat) (s : State) : Out := .next (s.endContext ctx)

/-! ### The replay log (R396) -/

/-- The group that waits for its log, and its block's log. -/
def State.waitingLog (s : State) (who : GRef) : Option (Group × RLog) :=
  match s.findGroup who with
  | none => none
  | some g => match g.pend with
    | .log false => ((s.findBlock who.launch who.block).bind Block.log).map fun l => (g, l)
    | _ => none

/-- A log that is extended lies beyond the logs of all blocks, in a region of twice its room (DESIGN CHOICE, log entry 61):
where the service allots it. -/
def Launch.nextLog (l : Launch) (block : Nat) (log : RLog) : RLog :=
  let bytes := 16 * log.cap
  { log with base := l.logBase + l.count * (2 * bytes - l.logRoom) + block * (2 * bytes), cap := 2 * log.cap }

/-- A block's log with its entries in its new place. -/
def State.moveLog (s : State) (ctx : Nat) (old new : RLog) : State :=
  let v := (s.readCtx ctx old.base (16 * old.used)).getD 0
  (s.mapRange ctx (new.base / 4096 * 4096) (new.base % 4096 + 16 * new.cap) true false).placeCtx ctx new.base
    (bytesOf v (16 * old.used))

/-- R396: the log gets as much room again, or logging stops with an entry of KIND 15. -/
def execReplayLogExtend (who : GRef) (granted : Bool) (s : State) : Out :=
  .next (match s.waitingLog who with
    | none => s
    | some (g, l) =>
      let go (s : State) : State := s.updGroup who fun g => { g with pend := .idle, stall := .none }
      if granted then
        match s.launchById who.launch with
        | none => s
        | some x =>
          let new := x.nextLog who.block l
          go ((s.moveLog g.p.ctx l new).updBlock who.launch who.block fun b => { b with log := some new })
      else
        let s1 := s.placeCtx g.p.ctx (l.base + 16 * l.used) (bytesOf (2 ^ 64 * logTag 15 who.group 0 g.logged) 16)
        go (s1.updBlock who.launch who.block fun b =>
          { b with log := some { l with used := l.used + 1, off := true } }))

/-- R396: the service allots `size` bytes for each block of a launch, from `base` on; blocks that have begun are
not logged. -/
def execReplayLogEnable (launch base size : Nat) (s : State) : Out :=
  .next (s.updLaunch launch fun l => { l with logBase := base, logCap := size })

/-- A group of a block as it stood at the block's start, in its place. -/
def Group.restart (l : Launch) (g : Group) : Group :=
  { Group.reset with
    present := true, p := g.p, u := { g.u with lchk := l.lchk }
    r := ((Regs.reset.moveTo lanes g.u.entry).setS 1 (BitVec.ofNat 64 l.kaddr)).setS 2
      (BitVec.ofNat 64 (l.affinity g.p.id.block))
    privBytes := g.privBytes, lastIssue := g.lastIssue, issuedAt := g.issuedAt, sendSeq := g.sendSeq, dbg := g.dbg }

/-- R396: a block that has ended is to be placed again, with its log; its launch, when it is over, comes back for it
without its completion action. -/
def State.replayEnded (s : State) (o : OldLog) : State :=
  let back (l : Launch) : Launch := { l.updRun o.block fun r => { r with stat := .unplaced, preempt := .none } with
    ended := l.ended - 1, replays := o.block :: l.replays.filter fun b => b != o.block }
  match s.launchById o.l.id with
  | some l =>
    if l.complete || !(l.runs.any fun r => r.index == o.block && r.stat == .ended) then s
    else s.updLaunch l.id back
  | none =>
    let run : BlockRun := { (default : BlockRun) with index := o.block, stat := .ended }
    { s with launches := s.launches ++ [back { o.l with
        runs := [run], next := o.l.count, ended := o.l.count, ckind := 0, res := none, complete := false, ready := true
        readySince := s.gtime, waitSince := [], unfit := none }] }

/-- R396: a block with a log runs again from its start, and takes the values of logged instructions from it. -/
def execReplay (launch block : Nat) (s : State) : Out :=
  .next (match s.launchById launch, s.findBlock launch block with
    | some l, some b =>
      match b.log with
      | none => s
      | some log =>
        let mine (who : GRef) : Bool := who.launch == launch && who.block == block
        let again (g : Group) : Group := if isOf launch block g then g.restart l else g
        let s1 := (s.groupsOf launch block).foldl (fun s g => (s.leaveQueues g true).releaseLease g.p.core g.p.id) s
        ({ s1 with
          g := if s1.g.present then again s1.g else s1.g
          others := s1.others.map again
          jobs := s1.jobs.filter fun j => !mine j.who
          shelf := s1.shelf.filter fun e => match e.who with | some w => !mine w | none => true
          joins := s1.joins.filter fun j => !(mine j.member.who && j.member.msg.isNone)
          sets := s1.sets.map fun o =>
            { o with members := o.members.filter fun m => !(mine m.who && m.msg.isNone) } } : State).updBlock
          launch block fun b =>
            { b with scratch := [], poison := [], owner := [], arrivals := [], resets := []
                     log := some { log with replay := true } }
    | _, _ => match s.oldLogs.find? fun o => o.l.id == launch && o.block == block with
      | some o => s.replayEnded o
      | none => s)

end Sys2Proof.Machine
end

