-- ==== Sys2Proof/Machine/Dump.lean ====
section
/-! DEFINITION. Core dumps (R397 to R399). The layout within notes that R398 does not give is the model's own
(log entry 23). -/

namespace Sys2Proof.Machine

/-! ### Stopping a process (R397 steps 1 and 2) -/

/-- A group stops for the dump; it keeps the reason why it waits. -/
def stopFor (ctx : Nat) (g : Group) : Group :=
  if g.p.ctx = ctx then
    { g with frozen := true, stall := if g.stall = .none then .debug else g.stall }
  else g

def State.stopAll (s : State) (ctx : Nat) : State :=
  ({ s with g := stopFor ctx s.g, others := s.others.map (stopFor ctx) } : State).updCtx ctx fun c =>
    { c with dumping := true }

/-- Whether copies, load and store operations or running children of a context are still under way. -/
def State.draining (s : State) (ctx : Nat) : Bool := s.jobs.any fun j => j.ctx == ctx && !j.isArray

/-! ### Notes (R398) -/

/-- A note: its type, the bytes of its contents, and their fields. -/
structure Note where
  type : Nat
  size : Nat
  fields : List Field

/-- "Theanum" with its ending zero. -/
def noteName : Nat := 0x006D756E61656854

/-- Bytes of a note in the image. -/
def Note.bytes (n : Note) : Nat := 20 + (n.size + 3) / 4 * 4

/-- The fields of a note at an offset of the image. -/
def Note.at_ (off : Nat) (n : Note) : List Field :=
  [(off, 4, 8), (off + 4, 4, n.size), (off + 8, 4, n.type), (off + 12, 8, noteName)] ++
    n.fields.map fun f => (off + 20 + f.1, f.2.1, f.2.2)

/-- Words of 8 bytes, one after another. -/
def wordNote (type : Nat) (l : List Nat) : Note :=
  { type := type, size := 8 * l.length, fields := fieldRow 0 8 (l.map fun v => v % 2 ^ 64) }

def NPlace.word : NPlace → Nat
  | .vec c i l => 2 ^ 40 + c * 2 ^ 32 + i * 32 + l
  | .sca i => 2 * 2 ^ 40 + i
  | .pred i l => 3 * 2 ^ 40 + i * 32 + l
  | .loc i => 4 * 2 ^ 40 + i
  | .lc i => 5 * 2 ^ 40 + i

/-- INFLIGHT: the bundle, results with their distances, gated stores by their virtual addresses and words, collation
entries, the checkpoint and the ib registers. -/
def inflightNote (g : Group) : Note :=
  let n := g.nat
  wordNote 0x0103 (
    [n.npc.foldl (fun m x => min m x.2) (2 ^ 64 - 1), n.flight.length] ++
    (n.flight.flatMap fun f => [f.due - n.pos, f.place.word, f.value]) ++
    [n.gate.length] ++ (n.gate.flatMap fun e =>
      let ws := encode e.op
      [e.vpc, (ws.headD 0).toNat, (ws.tail.headD 0).toNat]) ++
    [n.coll.length] ++ (n.coll.flatMap fun c => [c.lo, c.hi, c.site]) ++
    (lanes.map fun l => NMap.get n.check.npc l) ++
    ((List.range 8).map fun i => (BMap.get n.check.k i).toNat) ++
    ((List.range 16).map fun i => (BMap.get n.check.n i).toNat) ++
    ((List.range 4).map fun i => (BMap.get n.check.lc i).toNat) ++
    [n.check.fmtbase.toNat, if n.check.lchk then 1 else 0, n.check.fmt.length + n.check.fmtN * 64] ++
    n.check.fmt.map FmtEntry.word ++ (List.range 8).map (NMap.get n.ib))

/-- TOKENS. -/
def State.tokensNote (s : State) (g : Group) : Note :=
  wordNote 0x0104 ([g.r.tokens] ++ (List.range 16).flatMap fun i =>
    let r := SMap.get default g.recs i
    [bitmapOf r.bitmap, r.status, (r.fault.map fun x => x.trap.va % 2 ^ 64).getD 0,
     (if g.arr.gflush then 1 else 0) + (if (s.leaseOf g.p.core).holder = some g.p.id then 2 else 0), r.kept.pc])

/-- The first poisoned bytes of the granules of a block's allocation: what reading them raises is MCHK (R399). -/
def Block.badGranules (b : Block) (size : Nat) : List Nat :=
  (List.range (size / 4096)).filterMap fun g =>
    (List.find? (fun x => x.1 / 4096 == g) b.poison).map Prod.fst

/-- SCRATCH; a granule that cannot be read is left 0. -/
def scratchNote (b : Block) (size : Nat) : Note :=
  let bad := (b.badGranules size).map fun a => a / 4096
  { type := 0x0105, size := size + 2 * (size / 4096)
    fields := ((List.range (size / 4096)).map fun g =>
        (4096 * g, 4096, if bad.contains g then 0 else BMap.readNat b.scratch (4096 * g) 4096)) ++
      fieldRow size 2 ((List.range (size / 4096)).map fun g => (b.ownerOf g).word) }

/-- A group that waits in BARW: the object's offset and the awaited phase. -/
def State.barwOf (s : State) (g : Group) : Option (Nat × Nat) :=
  let s1 := s.refocus g.p.id
  match s1.fetch with
  | .ok (.barw f w) =>
    let a := barAcc s1 f w (s1.g.r.getS f.a.toNat) (lowest (s1.g.r.active f.g)) false
    match s1.barOff a with
    | .ok off => some (off, (s1.g.r.getS w.e1.toNat).toNat % 2 ^ 32)
    | .error _ => none
  | _ => none

/-- BARRIERS. -/
def State.barriersNote (s : State) (gs : List Group) : Note :=
  wordNote 0x0106 (gs.flatMap fun g =>
    match (if g.stall = .barrier then s.barwOf g else none) with
    | some (off, p) => [GRef.word g.p.id, off, p]
    | none => [])

/-- R208: a save image, its header and then its opaque bytes. -/
def imageNote (launch owner : Nat) (im : SaveImage) : Note :=
  let opaqueBytes := (List.range (im.length - 32)).map fun i => Config.imageByte (im.bytes * 2 ^ 20 + i) % 256
  { type := 0x0107, size := im.length + 8
    fields := [(0, 4, launch % 2 ^ 32), (4, 4, owner % 2 ^ 32), (8, 2, im.version), (10, 2, im.family),
      (12, 4, im.flags), (16, 8, im.length), (24, 8, im.owner), (32, 8, im.digest)] ++ fieldRow 40 1 opaqueBytes }

/-- QUEUES: the bindings, then for each bound queue its count and its entries. -/
def State.queuesNote (s : State) (g : Group) : Note :=
  let binds := (List.range 8).map (NMap.get g.qbind)
  wordNote 0x0108 ((binds.map fun b => match b with | 0 => 0 | q + 1 => 2 ^ 63 + q) ++
    (binds.filter fun b => b != 0).flatMap fun b =>
      let l := (SMap.get default s.rxq (b - 1)).entries
      l.length :: l.map BitVec.toNat)

/-- The notes of a block: SCRATCH and BARRIERS. -/
def State.blockNotes (s : State) (ctx : Nat) (b : Block) : List Note :=
  match s.groupsOf b.launch b.block with
  | [] => []
  | g :: t => if g.p.ctx ≠ ctx then [] else [scratchNote b g.u.scratch, s.barriersNote (g :: t)]

/-- The notes of a group: GROUP, INFLIGHT, TOKENS and QUEUES. -/
def State.groupNotes (s : State) (by_ : Option GRef) (g : Group) : List Note :=
  let v := s.viewOf g
  let kind := if some g.p.id = by_ then 1 else if g.ended then 2 else if s.isSaved g.p.id then 3 else 0
  [{ type := 0x0102, size := groupNoteSize,
     fields := groupNote v kind g.stall.code v.atAddr },
   inflightNote g, s.tokensNote v, s.queuesNote v]

/-- The array states of a context: of groups, a saved one's as it was saved, and of launches. -/
def State.arrayNotes (s : State) (ctx : Nat) : List Note :=
  let gs := (s.groups.filter fun g => g.p.ctx == ctx).filterMap fun g =>
    ((match g.image with | some im => some im | none => s.imageFor g).map
      fun im => imageNote g.p.id.launch (GRef.word g.p.id) im)
  let ls := s.stages.filter fun x => x.arr != ArraySt.new && s.launches.any fun l => l.id == x.key && l.ctx == ctx
  gs ++ ls.zipIdx.map fun (x, i) =>
    imageNote x.key (2 ^ 32 - 1) (saveImage ctx x.key (s.free + 4096 + i) x.arr false true)

/-- DUMPHDR with a status, a length, the number of GROUP notes and the addresses where reading the context met MCHK:
the first one and the count are recorded (R399). -/
def State.dumpHdr (s : State) (c : Ctx) (ngroups : Nat) (faults : List Nat) (status length : Nat) : Note :=
  let g := (c.dumpBy.bind s.findGroup).getD Group.reset
  { type := 0x0101, size := 128
    fields := [(0, 4, 0x00010000), (4, 2, c.id), (6, 2, 0),
      (8, 4, if c.dumped.isSome then 0 else g.r.faultcause.toNat % 256), (12, 4, GRef.word g.p.id),
      (16, 4, g.p.id.launch), (20, 4, ngroups), (24, 8, g.r.faultpc.toNat), (32, 8, g.r.faultva.toNat),
      (40, 8, g.r.faultaux.toNat), (48, 2, if faults.isEmpty then 0 else causeCode .mchk),
      (50, 2, min faults.length 65535), (52, 4, status), (56, 8, faults.headD 0), (64, 8, length),
      (72, 8, (c.dumped.getD 0).toNat), (80, 48, 0)] }

/-! ### Mapped writable ranges -/

/-- The writable leaves below a table of level l, as (va, pa, bytes); those of non-resident pages (R328) among them. -/
def writableLeaves (m : BMap 8) (away : List Nat) : Nat → Nat → Nat → List (Nat × Nat × Nat)
  | 0, _, _ => []
  | l + 1, t, va =>
    (List.range 512).flatMap fun i =>
      let e := Mem.read64 m (t + 8 * i)
      let va' := va + i * leafSize (l + 1)
      if !e.getLsbD 0 then
        if l = 0 ∧ e.getLsbD 2 = true ∧ away.contains (va' / 4096) = true then [(va', pteAddr e, 4096)] else []
      else if e.getLsbD 1 then
        if e.getLsbD 2 && decide (l < 3) then [(va', pteAddr e, leafSize (l + 1))] else []
      else writableLeaves m away l (pteAddr e) va'

/-- A range of a PT_LOAD: its address, its bytes, and where they lie. -/
structure Seg where
  va : Nat
  len : Nat
  spans : List Span

/-- Joins leaves that follow one another. -/
def segments : List (Nat × Nat × Nat) → List Seg
  | [] => []
  | (va, pa, n) :: t =>
    let p : Span := { scratch := false, at_ := pa, len := n }
    match segments t with
    | [] => [{ va := va, len := n, spans := [p] }]
    | g :: rest =>
      if va + n = g.va then { va := va, len := n + g.len, spans := p :: g.spans } :: rest
      else { va := va, len := n, spans := [p] } :: g :: rest

/-- R399: the first poisoned byte of each 4 KiB page of the resident pages of the ranges, in memory and in the private
bytes of groups: what reading it raises is MCHK. -/
def State.unreadable (s : State) (gs : List Group) (away : List Nat) (segs : List Seg) : List Nat :=
  let marked (g : Seg) : List Nat := (g.spans.foldl (fun (r : List Nat × Nat) p =>
    (r.1 ++ ((s.poison.filter fun x => decide (p.at_ ≤ x.1) && decide (x.1 < p.at_ + p.len)).map fun x =>
      r.2 + x.1 - p.at_), r.2 + p.len)) ([], g.va)).1
  let inSeg (a : Nat) : Bool := segs.any fun g => decide (g.va ≤ a) && decide (a < g.va + g.len)
  let priv := gs.flatMap fun g => (g.privPoison.map fun x => g.u.pbase + x.1).filter inSeg
  (sortBy (fun a b => decide (a ≤ b)) ((segs.flatMap marked ++ priv).filter fun a => !away.contains (a / 4096))).foldl
    (fun l a => if (l.getLast?.map fun b => b / 4096) == some (a / 4096) then l else l ++ [a]) []

/-- The faults of reading a context for its dump, by address: of a register that holds an error, which has none (0), of the
ranges, and of scratchpads (R399). -/
def State.dumpFaults (s : State) (gs : List Group) (pages : List Nat) : List Nat :=
  let mine (b : Block) : List Nat := match (s.groupsOf b.launch b.block).head? with
    | some g => if gs.any fun x => x.p.id == g.p.id then (b.badGranules g.u.scratch).map fun o => winScratch + o else []
    | none => []
  (gs.flatMap fun g => g.badRegs.map fun _ => 0) ++ pages ++ s.blocks.flatMap mine

/-- The runs of a range of `len` bytes from `va` on that leave out the pages in `bad`, as offsets and lengths. -/
def goodRuns (va len : Nat) : Nat → List Nat → List (Nat × Nat)
  | o, [] => if o < len then [(o, len - o)] else []
  | o, p :: ps =>
    let b := 4096 * p - va
    (if o < b then [(o, b - o)] else []) ++ goodRuns va len (b + 4096) ps

/-- The contents of a PT_LOAD but for some pages. -/
def State.loadFields (s : State) (skip : List Nat) (off : Nat) (g : Seg) : List Field :=
  let v := s.readSpans g.spans
  let bad := skip.filter fun p => decide (g.va ≤ 4096 * p) && decide (4096 * p < g.va + g.len)
  (goodRuns g.va g.len 0 bad).map fun r => (off + r.1, r.2, v / 256 ^ r.1 % 256 ^ r.2)

/-- ABSENT: the pages that are not recorded, and the ranges beyond the program headers' room. -/
def absentNotes (pages : List Nat) (rest : List Seg) : List Note :=
  let l := pages.flatMap (fun p => [4096 * p, 4096]) ++ rest.flatMap fun g => [g.va, g.len]
  if l.isEmpty then [] else [wordNote 0x0109 l]

/-- The PT_LOADs whose headers leave DUMPHDR within the first 4 KiB (R398). -/
def loadRoom : Nat := 68

/-! ### The image (R398, R399) -/

/-- Notes from an offset on. -/
def notesAt (off : Nat) : List Note → List Field
  | [] => []
  | n :: t => n.at_ off ++ notesAt (off + n.bytes) t

/-- The ELF header of a core image with `n` program headers (R274, R398). -/
def coreHeader (n : Nat) : List Field :=
  [(0, 4, 0x464C457F), (4, 1, 2), (5, 1, 1), (6, 1, 1), (7, 1, 0), (8, 1, 1), (9, 7, 0), (16, 2, 4), (18, 2, 0xD7E5),
   (20, 4, 1), (24, 8, 0), (32, 8, 64), (40, 8, 0), (48, 4, 0x0100), (52, 2, 64), (54, 2, 56), (56, 2, n),
   (58, 2, 64), (60, 2, 0), (62, 2, 0)]

/-- A program header. -/
def progHeader (i type flags off va pa size : Nat) : List Field :=
  let b := 64 + 56 * i
  [(b, 4, type), (b + 4, 4, flags), (b + 8, 8, off), (b + 16, 8, va), (b + 24, 8, pa), (b + 32, 8, size),
   (b + 40, 8, size), (b + 48, 8, if type = 4 then 4 else 4096)]

/-- The headers and contents of the PT_LOADs from an offset on. -/
def loadsAt (loc : Nat) : Nat → Nat → List Seg → List Field × List (Nat × Seg)
  | _, _, [] => ([], [])
  | i, off, g :: t =>
    let r := loadsAt loc (i + 1) (off + (g.len + 4095) / 4096 * 4096) t
    (progHeader i 1 6 off g.va loc g.len ++ r.1, (off, g) :: r.2)

/-- The private bytes of groups (R28), at the pages of their regions among the contents of PT_LOADs. -/
def privFields (gs : List Group) (absent : List Nat) (loads : List (Nat × Seg)) : List Field :=
  gs.flatMap fun g => (List.range ((privSize g.privBytes + 4095) / 4096)).flatMap fun i =>
    let va := g.u.pbase + 4096 * i
    if absent.contains (va / 4096) then [] else
    (loads.filter fun x => decide (x.2.va ≤ va) && decide (va + 4096 ≤ x.2.va + x.2.len)).map fun x =>
      (x.1 + va - x.2.va, 4096, BMap.readNat g.priv (4096 * i) 4096)

/-- Writes fields at the destination, in context 0, until one cannot be written; the bytes written. -/
def State.writeUntil (s : State) (base : Nat) : List Field → State × Nat × Bool
  | [] => (s, 0, true)
  | f :: t =>
    match s.writeCtx 0 (base + f.1) f.2.1 f.2.2 with
    | none => (s, 0, false)
    | some s1 =>
      let r := s1.writeUntil base t
      (r.1, f.2.1 + r.2.1, r.2.2)

/-- R397 step 4, R399: writes the image, or reports that its destination fails. -/
def State.writeDump (s : State) (c : Ctx) : State :=
  let failed (s : State) : State :=
    let v := s.fresh
    { v.2 with host := { v.2.host with mbox := v.1 } }
  match c.dumpTo with
  | none => failed s
  | some page =>
    let dest := page % privPages * 4096
    if (s.ctxSpans 0 dest 4096 true).isNone then failed s
    else
      let gs := s.groups.filter fun g => g.p.ctx == c.id
      let all := match c.root with | some t => segments (writableLeaves s.mem c.nonresident 5 t 0) | none => []
      let segs := all.take loadRoom
      let bad := s.unreadable gs c.nonresident segs
      let faults := s.dumpFaults gs bad
      let away := c.nonresident.filter fun p => segs.any fun g => decide (g.va ≤ 4096 * p) && decide (4096 * p < g.va + g.len)
      let absent := sortBy (fun a b => decide (a ≤ b)) (bad.map (fun a => a / 4096) ++ away)
      let priv := gs.flatMap fun g => (List.range ((privSize g.privBytes + 4095) / 4096)).map fun i => g.u.pbase / 4096 + i
      let skip := sortBy (fun a b => decide (a ≤ b)) (absent ++ priv).eraseDups
      let notes := gs.flatMap (s.groupNotes c.dumpBy) ++ s.blocks.flatMap (s.blockNotes c.id) ++ s.arrayNotes c.id ++
        absentNotes absent (all.drop loadRoom)
      let noteOff := 64 + 56 * (segs.length + 1)
      let hdr := s.dumpHdr c gs.length faults
      let total : Nat := notes.foldl (fun n x => n + x.bytes) (hdr 0 0).bytes
      let loadOff := (noteOff + total + 4095) / 4096 * 4096
      let loads := loadsAt s.devloc.toNat 1 loadOff segs
      let fields := coreHeader (segs.length + 1) ++ progHeader 0 4 4 noteOff 0 0 total ++ loads.1 ++
        notesAt (noteOff + (hdr 0 0).bytes) notes ++ loads.2.flatMap fun x => s.loadFields skip x.1 x.2
      let image := fields ++ privFields gs absent loads.2
      let first := s.writeUntil dest ((hdr 0 0).at_ noteOff)
      let rest := first.1.writeUntil dest image
      (rest.1.writeUntil dest ((hdr (if rest.2.2 then 1 else 2) (first.2.1 + rest.2.1)).at_ noteOff)).1

/-- R397: every group stops; once copies, load and store operations and running children are complete, the
image is written and the process ends. -/
def execCoreDump (ctx : Nat) (s : State) : Out :=
  .next (match s.findCtx ctx with
    | none => s
    | some c =>
      if !c.live then s
      else
        let s1 := s.stopAll ctx
        if s1.draining ctx then s1
        else (s1.writeDump ((s1.findCtx ctx).getD c)).endContext ctx)

end Sys2Proof.Machine
end

