-- ==== Sys2Proof/Machine/Dispatch.lean ====
section
/-! DEFINITION. The one dispatch: one arm for each constructor of Instr, each a direct call of its
meaning, or a refusal by name. -/

namespace Sys2Proof.Machine

/-- Executes one instruction or step. -/
def exec (i : Instr) (s : State) : Host.Outcome State Fault Refusal :=
  match i with
  | .add f => Sys2Proof.Machine.execAdd f s
  | .sub f => Sys2Proof.Machine.execSub f s
  | .mul f => Sys2Proof.Machine.execMul f s
  | .mulh f => Sys2Proof.Machine.execMulh f s
  | .div f => Sys2Proof.Machine.execDiv f s
  | .rem f => Sys2Proof.Machine.execRem f s
  | .and f => Sys2Proof.Machine.execAnd f s
  | .or f => Sys2Proof.Machine.execOr f s
  | .xor f => Sys2Proof.Machine.execXor f s
  | .andn f => Sys2Proof.Machine.execAndn f s
  | .shl f => Sys2Proof.Machine.execShl f s
  | .shr f => Sys2Proof.Machine.execShr f s
  | .sar f => Sys2Proof.Machine.execSar f s
  | .rot f => Sys2Proof.Machine.execRot f s
  | .min f => Sys2Proof.Machine.execMin f s
  | .max f => Sys2Proof.Machine.execMax f s
  | .set f => Sys2Proof.Machine.execSet f s
  | .clz f => Sys2Proof.Machine.execClz f s
  | .ctz f => Sys2Proof.Machine.execCtz f s
  | .popc f => Sys2Proof.Machine.execPopc f s
  | .bfx f => Sys2Proof.Machine.execBfx f s
  | .bfi f => Sys2Proof.Machine.execBfi f s
  | .sel f => Sys2Proof.Machine.execSel f s
  | .addi f => Sys2Proof.Machine.execAddi f s
  | .logi f => Sys2Proof.Machine.execLogi f s
  | .shi f => Sys2Proof.Machine.execShi f s
  | .lih f => Sys2Proof.Machine.execLih f s
  | .addpc f => Sys2Proof.Machine.execAddpc f s
  | .nset f => Sys2Proof.Machine.execNset f s
  | .nget f => Sys2Proof.Machine.execNget f s
  | .vadd f => Sys2Proof.Machine.execVadd f s
  | .vsub f => Sys2Proof.Machine.execVsub f s
  | .vmul f => Sys2Proof.Machine.execVmul f s
  | .vmulh f => Sys2Proof.Machine.execVmulh f s
  | .vmad f => Sys2Proof.Machine.execVmad f s
  | .vmin f => Sys2Proof.Machine.execVmin f s
  | .vmax f => Sys2Proof.Machine.execVmax f s
  | .vabs f => Sys2Proof.Machine.execVabs f s
  | .vand f => Sys2Proof.Machine.execVand f s
  | .vor f => Sys2Proof.Machine.execVor f s
  | .vxor f => Sys2Proof.Machine.execVxor f s
  | .vnot f => Sys2Proof.Machine.execVnot f s
  | .vshl f => Sys2Proof.Machine.execVshl f s
  | .vshr f => Sys2Proof.Machine.execVshr f s
  | .vsar f => Sys2Proof.Machine.execVsar f s
  | .vbfx f => Sys2Proof.Machine.execVbfx f s
  | .vbfi f => Sys2Proof.Machine.execVbfi f s
  | .vclz f => Sys2Proof.Machine.execVclz f s
  | .vpopc f => Sys2Proof.Machine.execVpopc f s
  | .vcmp f => Sys2Proof.Machine.execVcmp f s
  | .vsel f => Sys2Proof.Machine.execVsel f s
  | .vmov f => Sys2Proof.Machine.execVmov f s
  | .vbcast f => Sys2Proof.Machine.execVbcast f s
  | .viota f => Sys2Proof.Machine.execViota f s
  | .vdot4 f => Sys2Proof.Machine.execVdot4 f s
  | .kop f => Sys2Proof.Machine.execKop f s
  | .kmovTos f => Sys2Proof.Machine.execKmovTos f s
  | .kmovFroms f => Sys2Proof.Machine.execKmovFroms f s
  | .vfadd f => Sys2Proof.Machine.execVfadd f s
  | .vfsub f => Sys2Proof.Machine.execVfsub f s
  | .vfmul f => Sys2Proof.Machine.execVfmul f s
  | .vfma f => Sys2Proof.Machine.execVfma f s
  | .vfmin f => Sys2Proof.Machine.execVfmin f s
  | .vfmax f => Sys2Proof.Machine.execVfmax f s
  | .vfcmp f => Sys2Proof.Machine.execVfcmp f s
  | .vfdiv f => Sys2Proof.Machine.execVfdiv f s
  | .vfsqrt f => Sys2Proof.Machine.execVfsqrt f s
  | .vrcp f => Sys2Proof.Machine.execVrcp f s
  | .vrsq f => Sys2Proof.Machine.execVrsq f s
  | .vexp2 f => Sys2Proof.Machine.execVexp2 f s
  | .vlog2 f => Sys2Proof.Machine.execVlog2 f s
  | .vsin f => Sys2Proof.Machine.execVsin f s
  | .vcos f => Sys2Proof.Machine.execVcos f s
  | .vtanh f => Sys2Proof.Machine.execVtanh f s
  | .vround f => Sys2Proof.Machine.execVround f s
  | .vcvt f => Sys2Proof.Machine.execVcvt f s
  | .vpack f => Sys2Proof.Machine.execVpack f s
  | .vunpack f => Sys2Proof.Machine.execVunpack f s
  | .vscale f => Sys2Proof.Machine.execVscale f s
  | .vperm f => Sys2Proof.Machine.execVperm f s
  | .vshfl f => Sys2Proof.Machine.execVshfl f s
  | .vred f => Sys2Proof.Machine.execVred f s
  | .vscan f => Sys2Proof.Machine.execVscan f s
  | .vvote f => Sys2Proof.Machine.execVvote f s
  | .vpart f => Sys2Proof.Machine.execVpart f s
  | .ld f => Sys2Proof.Machine.execLd f s
  | .ldi f => Sys2Proof.Machine.execLdi f s
  | .st f => Sys2Proof.Machine.execSt f s
  | .sti f => Sys2Proof.Machine.execSti f s
  | .vld f => Sys2Proof.Machine.execVld f s
  | .vldi f => Sys2Proof.Machine.execVldi f s
  | .vst f => Sys2Proof.Machine.execVst f s
  | .vsti f => Sys2Proof.Machine.execVsti f s
  | .vldc f => Sys2Proof.Machine.execVldc f s
  | .vstc f => Sys2Proof.Machine.execVstc f s
  | .pld f => Sys2Proof.Machine.execPld f s
  | .cwb f => Sys2Proof.Machine.execCwb f s
  | .cinv f => Sys2Proof.Machine.execCinv f s
  | .ldo f w => Sys2Proof.Machine.execLdo f w s
  | .sto f w => Sys2Proof.Machine.execSto f w s
  | .vldo f w => Sys2Proof.Machine.execVldo f w s
  | .vsto f w => Sys2Proof.Machine.execVsto f w s
  | .stf f w => Sys2Proof.Machine.execStf f w s
  | .acp f w => Sys2Proof.Machine.execAcp f w s
  | .bpf f w => Sys2Proof.Machine.execBpf f w s
  | .nld f w => Sys2Proof.Machine.execNld f w s
  | .nst f w => Sys2Proof.Machine.execNst f w s
  | .fao f w => Sys2Proof.Machine.execFao f w s
  | .faor f w => Sys2Proof.Machine.execFaor f w s
  | .red f w => Sys2Proof.Machine.execRed f w s
  | .cas f w => Sys2Proof.Machine.execCas f w s
  | .enq f w => Sys2Proof.Machine.execEnq f w s
  | .deq f w => Sys2Proof.Machine.execDeq f w s
  | .waitc f w => Sys2Proof.Machine.execWaitc f w s
  | .fence f w => Sys2Proof.Machine.execFence f w s
  | .bari f w => Sys2Proof.Machine.execBari f w s
  | .bara f w => Sys2Proof.Machine.execBara f w s
  | .barw f w => Sys2Proof.Machine.execBarw f w s
  | .br f => Sys2Proof.Machine.execBr f s
  | .brc f => Sys2Proof.Machine.execBrc f s
  | .brk f => Sys2Proof.Machine.execBrk f s
  | .jmpi f => Sys2Proof.Machine.execJmpi f s
  | .call f => Sys2Proof.Machine.execCall f s
  | .calli f => Sys2Proof.Machine.execCalli f s
  | .ret f => Sys2Proof.Machine.execRet f s
  | .exit f => Sys2Proof.Machine.execExit f s
  | .loop f => Sys2Proof.Machine.execLoop f s
  | .lbrk f => Sys2Proof.Machine.execLbrk f s
  | .waitt f => Sys2Proof.Machine.execWaitt f s
  | .yield f => Sys2Proof.Machine.execYield f s
  | .nop f => Sys2Proof.Machine.execNop f s
  | .srd f => Sys2Proof.Machine.execSrd f s
  | .swr f => Sys2Proof.Machine.execSwr f s
  | .trap f => Sys2Proof.Machine.execTrap f s
  | .tret f => Sys2Proof.Machine.execTret f s
  | .bkpt f => Sys2Proof.Machine.execBkpt f s
  | .svcVersion f => Sys2Proof.Machine.execSvcVersion f s
  | .svcAbort f => Sys2Proof.Machine.execSvcAbort f s
  | .svcPrivsize f => Sys2Proof.Machine.execSvcPrivsize f s
  | .svcDebugged f => Sys2Proof.Machine.execSvcDebugged f s
  | .svcSleep f => Sys2Proof.Machine.execSvcSleep f s
  | .svcUnknown f => Sys2Proof.Machine.execSvcUnknown f s
  | .svcHelper f => Sys2Proof.Machine.execSvcHelper f s
  | .icinv f => Sys2Proof.Machine.execIcinv f s
  | .synci f => Sys2Proof.Machine.execSynci f s
  | .send f => Sys2Proof.Machine.execSend f s
  | .qbind f => Sys2Proof.Machine.execQbind f s
  | .qbindUn f => Sys2Proof.Machine.execQbindUn f s
  | .pmark f => Sys2Proof.Machine.execPmark f s
  | .hpf body => Sys2Proof.Machine.execHpf body s
  | .hbr body => Sys2Proof.Machine.execHbr body s
  | .hhot op body => Sys2Proof.Machine.execHhot op body s
  | .pair p v => Sys2Proof.Machine.execPair p v s
  | .unassignedEncoding w0 w1 => Sys2Proof.Machine.execUnassignedEncoding w0 w1 s
  | .tld f w => Sys2Proof.Machine.execTld f w s
  | .tst f w => Sys2Proof.Machine.execTst f w s
  | .tcp f w => Sys2Proof.Machine.execTcp f w s
  | .wbld f w => Sys2Proof.Machine.execWbld f w s
  | .tmma f w => Sys2Proof.Machine.execTmma f w s
  | .tscan f w => Sys2Proof.Machine.execTscan f w s
  | .tzero f w => Sys2Proof.Machine.execTzero f w s
  | .tacrd f w => Sys2Proof.Machine.execTacrd f w s
  | .tacwr f w => Sys2Proof.Machine.execTacwr f w s
  | .tred f w => Sys2Proof.Machine.execTred f w s
  | .tew f w => Sys2Proof.Machine.execTew f w s
  | .tfmt f w => Sys2Proof.Machine.execTfmt f w s
  | .tlease f w => Sys2Proof.Machine.execTlease f w s
  | .tfree f w => Sys2Proof.Machine.execTfree f w s
  | .tbmap f w => Sys2Proof.Machine.execTbmap f w s
  | .trsm f w => Sys2Proof.Machine.execTrsm f w s
  | .ibset g r imm => Sys2Proof.Machine.execIbset g r imm s
  | .xcmp g d a voff => Sys2Proof.Machine.execXcmp g d a voff s
  | .bundleIssue => Sys2Proof.Machine.execBundleIssue s
  | .resultArrival who index => Sys2Proof.Machine.execResultArrival who index s
  | .breakpointHit index => Sys2Proof.Machine.execBreakpointHit index s
  | .homeSliceOperation op => Sys2Proof.Machine.execHomeSliceOperation op s
  | .waitcTimeout who => Sys2Proof.Machine.execWaitcTimeout who s
  | .shelfEntryError who => Sys2Proof.Machine.execShelfEntryError who s
  | .faorSetTimeout pa => Sys2Proof.Machine.execFaorSetTimeout pa s
  | .remoteCheckReturn who answer => Sys2Proof.Machine.execRemoteCheckReturn who answer s
  | .engineOperationComplete id => Sys2Proof.Machine.execEngineOperationComplete id s
  | .tileChildComplete who record child => Sys2Proof.Machine.execTileChildComplete who record child s
  | .tileChildFault who record child report => Sys2Proof.Machine.execTileChildFault who record child report s
  | .leaseTenureEnd core => Sys2Proof.Machine.execLeaseTenureEnd core s
  | .icinvComplete id => Sys2Proof.Machine.execIcinvComplete id s
  | .translationStubCall who callee => Sys2Proof.Machine.execTranslationStubCall who callee s
  | .xlatTimeout who => Sys2Proof.Machine.execXlatTimeout who s
  | .hotRetranslation id => Sys2Proof.Machine.execHotRetranslation id s
  | .translatorKernelStart => Sys2Proof.Machine.execTranslatorKernelStart s
  | .bind ctx index => Sys2Proof.Machine.execBind ctx index s
  | .loadRequest ctx => Sys2Proof.Machine.execLoadRequest ctx s
  | .unloadRequest ctx => Sys2Proof.Machine.execUnloadRequest ctx s
  | .privateGrowth who granted ptes perLane => Sys2Proof.Machine.execPrivateGrowth who granted ptes perLane s
  | .nonresidentPageService who granted ptes bytes => Sys2Proof.Machine.execNonresidentPageService who granted ptes bytes s
  | .mappingChange ctx ptes nonresident => Sys2Proof.Machine.execMappingChange ctx ptes nonresident s
  | .contextEnd ctx => Sys2Proof.Machine.execContextEnd ctx s
  | .coreDump ctx => Sys2Proof.Machine.execCoreDump ctx s
  | .replayLogExtend who granted => Sys2Proof.Machine.execReplayLogExtend who granted s
  | .deviceQueueWake queue => Sys2Proof.Machine.execDeviceQueueWake queue s
  | .counterWatchWake line => Sys2Proof.Machine.execCounterWatchWake line s
  | .blockPlacement die => Sys2Proof.Machine.execBlockPlacement die s
  | .placementWaitExpiry launch => Sys2Proof.Machine.execPlacementWaitExpiry launch s
  | .priorityStarvationExpiry die => Sys2Proof.Machine.execPriorityStarvationExpiry die s
  | .runtimePreemptRequest launch block bound => Sys2Proof.Machine.execRuntimePreemptRequest launch block bound s
  | .drainBoundExpiry launch block => Sys2Proof.Machine.execDrainBoundExpiry launch block s
  | .preemptSave launch block => Sys2Proof.Machine.execPreemptSave launch block s
  | .preemptFlush launch block => Sys2Proof.Machine.execPreemptFlush launch block s
  | .blockResume launch block => Sys2Proof.Machine.execBlockResume launch block s
  | .launchComplete launch => Sys2Proof.Machine.execLaunchComplete launch s
  | .completionActionRetry launch => Sys2Proof.Machine.execCompletionActionRetry launch s
  | .pL1Entry core => Sys2Proof.Machine.execPL1Entry core s
  | .pL2Entry core => Sys2Proof.Machine.execPL2Entry core s
  | .pL3Entry die => Sys2Proof.Machine.execPL3Entry die s
  | .pL4Entry => Sys2Proof.Machine.execPL4Entry s
  | .powerWake unit => Sys2Proof.Machine.execPowerWake unit s
  | .hostApertureEnqueue queue offset bytes => Sys2Proof.Machine.execHostApertureEnqueue queue offset bytes s
  | .hostMemWrite pa bytes => Sys2Proof.Machine.execHostMemWrite pa bytes s
  | .hostMemRead pa count => Sys2Proof.Machine.execHostMemRead pa count s
  | .pcapWrite watts => Sys2Proof.Machine.execPcapWrite watts s
  | .resetWrite value => Sys2Proof.Machine.execResetWrite value s
  | .mgmtRegisterWrite register value => Sys2Proof.Machine.execMgmtRegisterWrite register value s
  | .getVersion => Sys2Proof.Machine.execGetVersion s
  | .getCapabilities => Sys2Proof.Machine.execGetCapabilities s
  | .negotiateAlgorithms offered => Sys2Proof.Machine.execNegotiateAlgorithms offered s
  | .getDigests => Sys2Proof.Machine.execGetDigests s
  | .getCertificate slot => Sys2Proof.Machine.execGetCertificate slot s
  | .challenge slot nonce => Sys2Proof.Machine.execChallenge slot nonce s
  | .getMeasurements slot => Sys2Proof.Machine.execGetMeasurements slot s
  | .keyExchange session => Sys2Proof.Machine.execKeyExchange session s
  | .finish at_ => Sys2Proof.Machine.execFinish at_ s
  | .keyUpdate at_ link => Sys2Proof.Machine.execKeyUpdate at_ link s
  | .endSession at_ => Sys2Proof.Machine.execEndSession at_ s
  | .trustDomainLoad at_ digests => Sys2Proof.Machine.execTrustDomainLoad at_ digests s
  | .powerOnReset => Sys2Proof.Machine.execPowerOnReset s
  | .bootStage1 slotA slotB => Sys2Proof.Machine.execBootStage1 slotA slotB s
  | .bootStage2Complete runtime translator setup => Sys2Proof.Machine.execBootStage2Complete runtime translator setup s
  | .scrub line seen corrected => Sys2Proof.Machine.execScrub line seen corrected s
  | .dieStateError die => Sys2Proof.Machine.execDieStateError die s
  | .thermalShutdown => Sys2Proof.Machine.execThermalShutdown s
  | .dbgStop q => Sys2Proof.Machine.execDbgStop q s
  | .dbgResume q => Sys2Proof.Machine.execDbgResume q s
  | .dbgStep q => Sys2Proof.Machine.execDbgStep q s
  | .setbp q => Sys2Proof.Machine.execSetbp q s
  | .setwp q => Sys2Proof.Machine.execSetwp q s
  | .dbgRead q => Sys2Proof.Machine.execDbgRead q s
  | .dbgWrite q => Sys2Proof.Machine.execDbgWrite q s
  | .detach q => Sys2Proof.Machine.execDetach q s
  | .profSample q => Sys2Proof.Machine.execProfSample q s
  | .profTypes q => Sys2Proof.Machine.execProfTypes q s
  | .profFilter q => Sys2Proof.Machine.execProfFilter q s
  | .arraytot q => Sys2Proof.Machine.execArraytot q s
  | .arrayclr q => Sys2Proof.Machine.execArrayclr q s
  | .profPort q => Sys2Proof.Machine.execProfPort q s
  | .pcSample core part => Sys2Proof.Machine.execPcSample core part s
  | .tracePortSend => Sys2Proof.Machine.execTracePortSend s
  | .flitReceive link flit => Sys2Proof.Machine.execFlitReceive link flit s
  | .lnak link seq => Sys2Proof.Machine.execLnak link seq s
  | .linkRetrain link trained => Sys2Proof.Machine.execLinkRetrain link trained s
  | .requestForward element port m => Sys2Proof.Machine.execRequestForward element port m s
  | .replyRetrace element m => Sys2Proof.Machine.execReplyRetrace element m s
  | .waitBufferTimeout element port entry => Sys2Proof.Machine.execWaitBufferTimeout element port entry s
  | .rd m => Sys2Proof.Machine.execRd m s
  | .wr m => Sys2Proof.Machine.execWr m s
  | .stfMessage m => Sys2Proof.Machine.execStfMessage m s
  | .atom m => Sys2Proof.Machine.execAtom m s
  | .faorMessage m => Sys2Proof.Machine.execFaorMessage m s
  | .ring m => Sys2Proof.Machine.execRing m s
  | .checkMessage m => Sys2Proof.Machine.execCheckMessage m s
  | .tileMessage m => Sys2Proof.Machine.execTileMessage m s
  | .xpkg p => Sys2Proof.Machine.execXpkg p s
  | .data m => Sys2Proof.Machine.execData m s
  | .done m => Sys2Proof.Machine.execDone m s
  | .value m => Sys2Proof.Machine.execValue m s
  | .faultReply m => Sys2Proof.Machine.execFaultReply m s
  | .wake m => Sys2Proof.Machine.execWake m s
  | .sack m => Sys2Proof.Machine.execSack m s
  | .sendMessage m => Sys2Proof.Machine.execSendMessage m s
  | .sendRetry who index => Sys2Proof.Machine.execSendRetry who index s
  | .sendTimeout who index => Sys2Proof.Machine.execSendTimeout who index s
  | .fabricReplyTimeout tag => Sys2Proof.Machine.execFabricReplyTimeout tag s
  | .mgmt b => Sys2Proof.Machine.execMgmt b s
  | .null link ack => Sys2Proof.Machine.execNull link ack s
  | .svcSleepExpiry who => Sys2Proof.Machine.execSvcSleepExpiry who s
  | .translationInstall t => Sys2Proof.Machine.execTranslationInstall t s
  | .wakeComplete unit => Sys2Proof.Machine.execWakeComplete unit s
  | .junctionTemperatureChange die celsius => Sys2Proof.Machine.execJunctionTemperatureChange die celsius s
  | .queueAllotment queue receive ctx enable hosten => Sys2Proof.Machine.execQueueAllotment queue receive ctx enable hosten s
  | .replayLogEnable launch base size => Sys2Proof.Machine.execReplayLogEnable launch base size s
  | .replay launch block => Sys2Proof.Machine.execReplay launch block s

end Sys2Proof.Machine
end

