-- ==== Sys2Proof/Machine/Due.lean ====
section
/-! DEFINITION. The steps of other agents that are due: those whose time has come or whose condition holds. A due
step removes its own cause. -/

namespace Sys2Proof.Machine

/-- Waits that end by time: the shelf, ordered sets, SVC SLEEP, and translations. -/
def State.dueWaits (s : State) : List Instr :=
  (s.shelf.filterMap fun e => match e.who, e.deadline with
    | some who, some d => if d ≤ s.gtime then some (.waitcTimeout who) else none
    | _, _ => none) ++
  (s.sets.filterMap fun o => if o.deadline ≤ s.gtime then some (.faorSetTimeout o.pa) else none) ++
  (s.joins.filterMap fun j => if j.since + 1000000 ≤ s.gtime then some (.faorSetTimeout j.pa) else none) ++
  (s.groups.filterMap fun g => match g.pend with
    | .sleep u false => if u ≤ s.gtime then some (.svcSleepExpiry g.p.id) else none
    | .xlate va since =>
      if bindBase ≤ va then
        let b := (va - bindBase) / 8
        match s.slotOf g.p.ctx b with
        | some x => if s.awayIn g.p.ctx x.addr 8 then none else some (.bind g.p.ctx b)
        | none => some (.bind g.p.ctx b)
      else if since + 100000000 ≤ s.gtime then some (.xlatTimeout g.p.id)
      else if since + Config.xlateNs since ≤ s.gtime then some (.translationStubCall g.p.id va)
      else none
    | _ => none)

/-- The tags of requests whose replies are late (R367). -/
def lateTags (now : Nat) (l : List ReqOut) : List Instr :=
  l.filterMap fun q => if q.answer.isNone ∧ q.deadline ≤ now then some (.fabricReplyTimeout q.tag) else none

/-- A group's requests. -/
def Pend.requests : Pend → List ReqOut
  | .remote _ reqs _ => reqs
  | .tile _ reqs _ => reqs
  | _ => []

/-- Requests, SENDs, wait buffers, links in training, and the next hop on this device (R363, R367, R371, R374, R380). -/
def State.dueFabric (s : State) : List Instr :=
  (s.groups.flatMap fun g => lateTags s.gtime g.pend.requests ++ g.sends.filterMap fun o =>
    if o.deadline ≤ s.gtime then some (.sendTimeout g.p.id o.index)
    else if o.retryAt ≠ 0 ∧ o.retryAt ≤ s.gtime then some (.sendRetry g.p.id o.index)
    else none) ++
  (s.jobs.flatMap fun j => lateTags s.gtime j.reqs) ++
  (s.fab.elems.flatMap fun x => x.2.waits.filterMap fun w =>
    if w.since + 250000 ≤ s.gtime then some (.waitBufferTimeout x.1 w.port w.entry) else none) ++
  (s.lateTraining.map fun n => .linkRetrain n (some false)) ++ s.dueHop.toList

/-- Engines, executors and the lease (R141, R199, R207). -/
def State.dueJobs (s : State) : List Instr :=
  (s.jobs.filter s.jobReady).map Job.event ++
  (s.leases.filter fun x => s.leaseDue x.2).map fun x => Instr.leaseTenureEnd x.1

/-- Data that a frozen native group waits for (R252), and hot translations (R271). -/
def State.dueNative (s : State) : List Instr :=
  (s.groups.flatMap fun g =>
    if g.nat.on && g.stall == .memory then
      g.nat.flight.zipIdx.filterMap fun x =>
        if x.1.missing ∧ x.1.due ≤ g.nat.pos then some (.resultArrival g.p.id x.2) else none
    else []) ++
  s.profiles.filterMap fun x =>
    if (x.2.window + 100000000 < s.gtime && (x.2.entries != 0 || x.2.clk != 0)) || x.2.isHot then
      some (.hotRetranslation x.1)
    else none

/-- Whether the service's queued work exceeds 2 ms, with no translator kernel started for it (R270). -/
def State.wantsKernel (s : State) : Bool :=
  (s.groups.any fun g => match g.pend with
    | .xlate va since => decide (va < bindBase) && decide (since + 2000000 ≤ s.gtime)
    | _ => false) &&
  (s.queueOf 0).enable && (s.ringAt (s.cbAt 0)).fill == 0 &&
  !(s.launches.any fun l => l.kaddr == Config.translatorKernel && l.ctx == 0) &&
  (match s.enqAt 0 (s.cbAt 0) 0 64 0 with | .ok (st, _) => st != ringFull | .error _ => false)

/-- Desks: watches that waited for room, placement, starvation (R337, R345, R348). -/
def State.dueDesks (s : State) : List Instr :=
  (s.wants.filterMap fun x => if s.deskRoom (sliceOf (128 * x.1)) x.2 then some x.2 else none) ++
  (if s.wantsKernel then [.translatorKernelStart] else []) ++
  (if s.launches.isEmpty then []
   else ((List.range 4).filter fun d => !(s.dieSt d).off).flatMap fun d =>
    ((s.deskPick d).map fun a => a.step d).toList ++
    (if (s.starving d).isEmpty then [] else [.priorityStarvationExpiry d]))

/-- Pre-emptions (R353 to R356). -/
def State.duePreempt (s : State) : List Instr :=
  s.launches.flatMap fun l => l.runs.filterMap fun r =>
    match r.stat, r.preempt with
    | .running _ _, .drain b => if b ≤ s.gtime then some (.drainBoundExpiry l.id r.index) else none
    | .running _ _, .save =>
      if s.jobs.any fun j => j.ofBlock l.id r.index && j.beforeSave then none else some (.preemptSave l.id r.index)
    | .running _ _, .flush =>
      if s.jobs.any fun j => j.ofBlock l.id r.index then none else some (.preemptFlush l.id r.index)
    | _, _ => none

/-- Power states, once the device has booted (R358 to R360). -/
def State.duePower (s : State) : List Instr :=
  if s.boot.stage ≠ 2 then []
  else
    (if due? s.gtime s.devWakeAt then [.wakeComplete .device] else []) ++
    (s.dies.filterMap fun d => if due? s.gtime d.2.wakeAt then some (.wakeComplete (.die d.1)) else none) ++
    (s.cores.filterMap fun c => if due? s.gtime c.2.wakeAt then some (.wakeComplete (.core c.1)) else none) ++
    ((allCores.filter fun c => s.coreEnters c 2).map Instr.pL2Entry) ++
    ((allCores.filter fun c => (s.coreSt c).power == 0 && s.coreEnters c 1).map Instr.pL1Entry) ++
    (((List.range 4).filter s.dieEnters).map Instr.pL3Entry) ++
    (if s.devEnters then [.pL4Entry] else [])

/-- The resident runtime: loader rings, mapping changes, dumps (R292, R293, R334, R397). -/
def State.dueRuntime (s : State) : List Instr :=
  (s.ctxs.filterMap fun c =>
    if c.live && c.dumping && !s.draining c.id then some (.coreDump c.id)
    else match s.loaderHead c.id with
      | some (r, _) => some (if fieldAt r 0 1 = 1 then .unloadRequest c.id else .loadRequest c.id)
      | none => none) ++
  s.mapWaits.filter fun i => match i with | .mappingChange ctx _ _ => !s.pinned ctx | _ => false

/-- Sampling and the trace port (R390, R393). -/
def State.dueTrace (s : State) : List Instr :=
  (if s.samplePeriod = 0 then []
   else (s.groups.map fun g => (g.p.core, g.p.part)).eraseDups.filterMap fun x =>
    if NMap.get s.trace.sampled (8 * x.1 + x.2) ≠ s.sampleNo x.1 x.2 s.samplePeriod ∧
        (s.nextSampled x.1 x.2).isSome then some (.pcSample x.1 x.2)
    else none) ++
  (if s.trace.buf.isEmpty then [] else [.tracePortSend])

/-- The steps of other agents that are due. -/
def State.due (s : State) : List Instr :=
  s.dueWaits ++ s.dueFabric ++ s.dueJobs ++ s.dueNative ++ s.duePreempt ++ s.duePower ++ s.dueRuntime ++ s.dueDesks ++
    s.dueTrace

end Sys2Proof.Machine
end

