-- ==== Sys2Proof/Machine/Service.lean ====
section
/-! DEFINITION. The records of the debug and profiler rings (R384, R394): the services take the records
in ring order and perform them. -/

namespace Sys2Proof.Machine

/-- R384: the request that a record of the debug ring holds, with the group that it names. -/
def dbgReq (r : Nat) : DbgReq :=
  { all := (fieldAt r 1 1).testBit 0, ctx := fieldAt r 2 2
    who := { launch := fieldAt r 4 4, block := fieldAt r 8 4 / 32, group := fieldAt r 8 4 % 32 }
    arg0 := BitVec.ofNat 64 (fieldAt r 16 8), arg1 := BitVec.ofNat 64 (fieldAt r 24 8)
    buf := fieldAt r 32 8, result := fieldAt r 40 8 }

/-- R394: the request that a record of the profiler ring holds. -/
def profReq (r : Nat) : ProfReq :=
  { ctx := fieldAt r 2 2, arg0 := BitVec.ofNat 64 (fieldAt r 8 8), arg1 := BitVec.ofNat 64 (fieldAt r 16 8)
    buf := fieldAt r 24 8, result := fieldAt r 32 8 }

/-- R384: the request of an OP; none for another code. -/
def dbgOp (op : Nat) (q : DbgReq) : Option (State → Out) :=
  match op with
  | 1 => some (execDbgStop q) | 2 => some (execDbgResume q) | 3 => some (execDbgStep q) | 4 => some (execSetbp q)
  | 5 => some (execSetwp q) | 6 => some (execDbgRead q) | 7 => some (execDbgWrite q) | 8 => some (execDetach q)
  | _ => none

/-- R394: the request of an OP; none for another code. -/
def profOp (op : Nat) (q : ProfReq) : Option (State → Out) :=
  match op with
  | 1 => some (execProfSample q) | 2 => some (execProfTypes q) | 3 => some (execProfFilter q)
  | 4 => some (execArraytot q) | 5 => some (execArrayclr q) | 6 => some (execProfPort q)
  | _ => none

/-- Whether the bits that FLAGS and GROUP of a record of the debug ring have as 0 are 0 (log entry 38); reserved fields
hold anything (R6). -/
def dbgRecordOk (r : Nat) : Bool := decide (fieldAt r 1 1 < 2) && decide (fieldAt r 8 4 < 2 ^ 29)

/-- Performs a record taken from a context's ring; one that names another context, or that is no request, is answered
here (log entry 38). -/
def State.performRequest (s : State) (ctx owner result : Nat) (f : Option (State → Out)) : Out :=
  if owner ≠ ctx then .next (s.writeResult ctx result 5)
  else match f with
    | some f => f s
    | none => .next (s.writeResult ctx result 3)

/-- Whether the pages that a request writes or reads are not resident: it waits for them (R328). -/
def State.bufferAway (s : State) (ctx result buf n : Nat) : Bool :=
  s.awayIn ctx result 8 || (n != 0 && s.awayIn ctx buf n)

/-- Whether a group is in a STEP of some context's debugger. -/
def Dbg.steps (d : Dbg) (ctx : Nat) : Bool := match d.stepping with | some x => x.1 == ctx | none => false

/-- Whether a STOP that waits for saves, or a READ whose view is being built, holds a context's ring. -/
def Dbg.holds (d : Dbg) (ctx : Nat) : Bool :=
  (d.stopAt.any fun x => x.1 == ctx) || (match d.viewing with | some v => v.req.ctx == ctx | none => false)

/-- A context's debug ring; a request that is not over holds it, but for a STEP, which lets a STOP or a DETACH by
(R389, log entry 38). -/
def State.serveDebug (s : State) (ctx : Nat) : Option Out :=
  if s.groups.any fun g => g.dbg.holds ctx then none
  else match (s.findCtx ctx).bind fun c => s.recordAt ctx c.dbgRing with
    | none => none
    | some (r, s1) =>
      let q := dbgReq r
      let op := fieldAt r 0 1
      if (s.groups.any fun g => g.dbg.steps ctx) && op != 1 && op != 8 then none
      else if s.bufferAway ctx q.result q.buf (if op = 6 ∨ op = 7 then groupNoteSize else 0) then none
      else some (s1.performRequest ctx q.ctx q.result (if dbgRecordOk r then dbgOp op q else none))

/-- A context's profiler ring. -/
def State.serveProfiler (s : State) (ctx : Nat) : Option Out :=
  match (s.findCtx ctx).bind fun c => s.recordAt ctx c.profRing with
  | none => none
  | some (r, s1) =>
    let q := profReq r
    let op := fieldAt r 0 1
    if s.bufferAway ctx q.result q.buf (if op = 4 && coresOk q then 40 * q.arg1.toNat else 0) then none
    else some (s1.performRequest ctx q.ctx q.result (profOp op q))

/-- R319, R334: a private region that has waited is unmapped once its context has no page pinned. -/
def State.serveUnmaps (s : State) : Option State :=
  (s.unmaps.find? fun x => !s.pinned x.1).map fun x =>
    State.unmapRange { s with unmaps := s.unmaps.erase x } x.1 x.2.1 x.2.2

/-- The runtime unmaps what has waited; and the services perform the next request of the rings, one at a time in each
ring's order (R384, R394). -/
def State.serveRings (s : State) : Option Out :=
  (s.serveUnmaps.map .next).orElse fun _ => s.ctxs.findSome? fun c => (s.serveDebug c.id).orElse fun _ => s.serveProfiler c.id

end Sys2Proof.Machine
end

