-- ==== Sys2Proof/Machine/Run.lean ====
section
/-! DEFINITION. What a group does when it is tried: a bundle of its translation, or a virtual instruction (R11, R242,
R258, R385, R389), and the choice of the group that issues (R351). -/

namespace Sys2Proof.Machine

/-- A group with a breakpoint, in a STEP, or with a register that holds an error leaves its region for the companion
(R388, R389, R258). -/
def State.toCompanion (s : State) : State :=
  if s.g.nat.on && (!s.g.dbg.bp.isEmpty || s.g.dbg.stepping.isSome || !s.g.badRegs.isEmpty) then { s with g := s.viewOf s.g } else s

/-! ### Lookahead (R74) -/

/-- The translation that holds an address of the focus group's procedure. -/
def State.procedureAt (s : State) (a : Nat) : Nat :=
  match s.xlats.find? fun t => t.ctx == s.g.p.ctx && t.xchk == s.g.u.xchk && (SMap.find? t.words a).isSome with
  | some t => t.id
  | none => 0

/-- After an instruction has issued: a claim whose destination it reads is contradicted and counted for its procedure,
the others have one instruction less to go, and its own claim begins. An instruction with no active lane reads its
guard and claims nothing (log entry 56). -/
def State.lookahead (s t : State) (i : Instr) : State :=
  match encode i with
  | [] => t
  | w0 :: rest =>
    let w1 := rest.headD 0
    let idle := (s.g.r.active (FR.ofWord w0).g).isEmpty
    let reads := if idle then [RName.k ((FR.ofWord w0).g.toNat % 8)] else wordReads w0 w1
    let missed := s.g.claims.filter fun c => c.dests.any reads.contains
    let left := s.g.claims.filterMap fun c =>
      if (c.dests.any reads.contains) || decide (c.left ≤ 1) then none else some { c with left := c.left - 1 }
    let n := if idle then 0 else claimOf w0 w1
    let new : List Claim := if n = 0 then [] else [{ left := n, tid := s.procedureAt s.pc, dests := claimDests w0 w1 }]
    let t1 := missed.foldl (fun t c =>
      let p := t.profile c.tid
      t.setProfile c.tid { p with misses := p.misses + 1 }) t
    { t1 with g := { t1.g with claims := left ++ new } }

/-! ### Uncorrectable errors (R94, R407, R408) -/

/-- Whether an instruction with an active lane reads a register entry with an uncorrectable error. -/
def State.readsBad (s : State) (i : Instr) : Bool :=
  match encode i with
  | [] => false
  | w0 :: rest =>
    let w1 := rest.headD 0
    let op := (opOf (if opOf w0 = 0xF8#8 then w1 else w0)).toNat
    s.g.readsBadIn (wordReads w0 w1) (crossesLanes op) (s.g.r.active (FR.ofWord w0).g)

/-- Whether an instruction that had not begun has issued or begun without a fault: MCHK is the last of its faults (R94). -/
def State.begins (s t : State) : Bool :=
  s.g.pend == .idle && (!t.g.inHandler || s.g.inHandler) &&
    (t.g.stall == .none || (t.g.pend != .idle && t.g.stall != .fault))

/-- Whether an instruction has issued and raised no fault. -/
def State.completes (s t : State) : Bool :=
  t.g.pend == .idle && t.g.stall == .none && (!t.g.inHandler || s.g.inHandler)

/-- An entry that an instruction writes holds no error any more. -/
def State.rewritten (s t : State) (i : Instr) : State :=
  match encode i with
  | [] => t
  | w0 :: rest =>
    { t with g := { t.g with badRegs := t.g.badAfter w0 (rest.headD 0) (s.g.r.active (FR.ofWord w0).g) } }

/-- The register-file entry of a number (R407). -/
def fileEntry (n : Nat) : RName × Nat :=
  if n < 4096 then (.s n, 0) else (.v ((n - 4096) / 32), (n - 4096) % 32)

/-- Corrected SRAM errors change no value and are counted (R407, R409). -/
def State.countCorrected (s : State) : State :=
  if s.relcount = 0 then s
  else if Config.corrected s.tick s.free = 0 then s else s.countRel 0 (Config.corrected s.tick s.free)

/-- The errors that have come into the focus group's registers, private lines, scratchpad and array states. -/
def State.errorsArrive (s : State) : State :=
  if !s.g.present then s
  else
    let mark (m : BMap 1) (l : List Nat) (size : Nat) : BMap 1 :=
      (l.filter fun i => decide (i < size)).foldl (fun m i => BMap.set m i 1) m
    let regs := ((Config.regFails s.tick s.free).filter fun n => decide (0 < n ∧ n < 4096 + 32 * 4096)).map fileEntry
    let s1 := s.updBlock s.g.p.id.launch s.g.p.id.block fun b =>
      { b with poison := mark b.poison (Config.byteFails s.tick s.free 0) s.g.u.scratch }
    let parts (k : Nat) : List Nat := [(0, 2 ^ 15), (1, 256), (2, 256)].flatMap fun x =>
      ((Config.byteFails s.tick s.free (k + x.1)).filter fun i => decide (i < x.2)).map (arrayPart x.1)
    let stage (x : Stage) : Stage :=
      if x.core = s.g.p.core then { x with arr := { x.arr with bad := x.arr.bad ++ parts 5 } } else x
    let s2 := ({ s1 with stages := s1.stages.map stage } : State).countCorrected
    { s2 with g := { s2.g with
        arr := { s2.g.arr with bad := s2.g.arr.bad ++ parts 2 }
        badRegs := s2.g.badRegs ++ regs
        privPoison := mark s2.g.privPoison (Config.byteFails s.tick s.free 1) (privSize s2.g.privBytes) } }

/-! ### One virtual instruction -/

/-- Forms by which a group leaves a replaced translation (R271). -/
def leavesProcedure (i : Instr) : Bool :=
  match (encode i).head? with
  | some w => [0x64, 0x65, 0x66, 0x67].contains (opOf w).toNat
  | none => false

/-- A STEP ends once its group's instruction has issued, stopped the group, or ended it, with its block perhaps
(R389). -/
def State.stepOver (t s : State) : State :=
  match s.g.dbg.stepping with
  | none => t
  | some x =>
    match t.findGroup s.g.p.id with
    | none => t.answerDebug x 0
    | some g =>
      if g.dbg.stopped || g.ended then t.endStep s.g.p.id 0
      else if g.pend == .idle && g.stall == .none then t.stopGroup 0 s.g.p.id
      else t

/-- What the companion has done with an instruction that has issued: the group may rejoin its translation, unless it
has left the procedure, and a comparison that failed there has not failed again: a corrected soft error (R258, R260). -/
def State.companionDone (s t : State) (i : Instr) : State :=
  let n := t.g.nat
  let passed := n.checking == some s.pc
  let t1 := if passed then t.countRel 4 1 else t
  { t1 with g := { t1.g with nat := { n with
      hold := false, checking := if passed then none else n.checking
      tid := if leavesProcedure i then 0 else n.tid } } }

/-- A virtual instruction that has issued counts as a clk in its translation, and, at the entry of one without bundles, as
an entry (R271). -/
def State.profiled (s t : State) : State :=
  match s.xlats.find? fun x => x.ctx == s.g.p.ctx && x.xchk == s.g.u.xchk && (SMap.find? x.words s.pc).isSome with
  | none => t
  | some x =>
    let p := t.profile x.id
    t.setProfile x.id { p with
      clk := p.clk + 1, entries := p.entries + if x.bundles.isEmpty ∧ s.pc = x.entry then 1 else 0 }

/-- A group that waits inside an instruction keeps its words (R175). -/
def State.keepBegun (s t : State) (i : Instr) : State :=
  if t.g.p.id = s.g.p.id ∧ t.g.present then
    { t with g := { t.g with begun :=
        if t.g.r.issueAddr = s.g.r.issueAddr ∧ t.g.inside then some (s.pc, encode i) else none } }
  else t

/-- After a virtual instruction: what the companion and the lookahead claims become, and a STEP is over once the
instruction has issued (R258, R389). -/
def State.afterVirtual (s t : State) (i : Instr) : State :=
  let t1 : State := if s.completes t && t.g.p.id == s.g.p.id && t.g.present then
      s.rewritten (s.profiled (s.lookahead (s.companionDone t i) i)) i else t
  (s.keepBegun (s.keepPassed t1) i).stepOver s

/-- Whether an instruction's duplicate is compared under checked translation: the vector forms (R35, R260). -/
def duplicated (i : Instr) : Bool :=
  match encode i with
  | [] => false
  | w0 :: _ => (decide (0x18 ≤ (opOf w0).toNat) && decide ((opOf w0).toNat ≤ 0x4F)) || opOf w0 == 0xF8#8

/-- The target of a jump, call or return that no translation holds (R266, R267). -/
def State.missesAt (s t : State) (i : Instr) : Option Nat :=
  match (encode i).head? with
  | some w0 => if [0x63, 0x64, 0x65, 0x66].contains (opOf w0).toNat && s.completes t then
      s.untranslated ((s.g.r.active (FR.ofWord w0).g).map t.g.r.pc) else none
  | none => none

/-- What an instruction's results raise once its own checks have passed (R94): a comparison of duplicates that differs
discards the instruction, which runs again with checking, and one that differs again raises CHECK (R260); MCHK for a
register-file error comes after it. A transfer to code that no translation holds waits where it stands (R266). -/
def State.resultStop (s t : State) (i : Instr) : Option State :=
  if !s.begins t then none
  else
    let n := s.g.nat
    let again := n.checking == some s.pc
    if (again || (s.g.u.xchk && duplicated i)) && Config.softError s.tick s.free then
      if again then
        let s1 := { s with g := { s.g with nat := { n with checking := none } } }
        some (s1.takeTrap (plainTrap .check) s.pc)
      else some { s with g := { s.g with nat := { n with checking := some s.pc, hold := true } } }
    else if s.readsBad i then some (s.takeTrap (plainTrap .mchk) s.pc)
    else (s.missesAt t i).map fun a => { s with g := { s.g with stall := .xlate, pend := .xlate a s.gtime } }

/-- What a group that left its region while its gate was being drained does before its companion issues: the rest of the
gate drains (R256). -/
def State.drainFirst (s : State) : Bool × State :=
  if s.g.nat.on || s.g.nat.gate.isEmpty then (true, s) else s.drainGate 65

/-- One virtual instruction of the focus group: a breakpoint stops the group before anything else, and a fault that came
for a drained gated store is raised by the companion at its next commit point (R259). -/
def State.runVirtualGroup (s0 : State) : Out :=
  if !s0.drainFirst.1 then .next s0.drainFirst.2 else
  let s := s0.drainFirst.2
  match s.breakpoint with
  | some n => exec (.breakpointHit n) s
  | none =>
    match s.g.nat.late with
    | x :: rest =>
      let s1 := { s with g := { s.g with nat := { s.g.nat with late := rest } } }
      .next (s1.takeLate x)
    | [] =>
      match s.fetch with
      | .error e => .next ((s.stopWith e).stepOver s)
      | .ok i =>
        match exec i s.armBp with
        | .next t => .next ((s.resultStop t i).getD (s.afterVirtual t i))
        | o => o

/-- The trail of a discarded region without one operation of a lane. -/
def dropTurn (op l : Nat) : List Turn → List Turn
  | [] => []
  | x :: t => if x.op == op && x.lanes.contains l then { x with lanes := x.lanes.filter fun y => y != l } :: t
    else x :: dropTurn op l t

/-- Whether the instruction at which a view stands has been completed natively, by the lanes that issue it now; the view
beyond it (R388). One without an operation of its own has, while the region has issued more. -/
def State.viewPast (s : State) (v : View) : Option View :=
  let ls := s.g.r.taking
  let mine (x : Turn) : Bool := ls.any x.lanes.contains
  match s.translated s.pc with
  | none => none
  | some w0 =>
    match majorOf w0 ((s.translated (s.pc + 8)).getD 0) with
    | none => if v.left = 0 ∨ !v.trail.any mine then none else some { v with left := v.left - 1 }
    | some op =>
      if ls.all fun l => v.trail.any fun x => x.op == op && x.lanes.contains l then
        some { v with trail := ls.foldl (fun tr l => dropTurn op l tr) v.trail }
      else none

/-- R388: the companion runs a stopped group up to the first virtual instruction that has not completed; its stores are
performed here, once, since the region's are discarded (R254). -/
def State.buildView (s : State) (v : View) : Out :=
  if !s.drainFirst.1 then .next s.drainFirst.2 else
  let s := s.drainFirst.2
  match s.viewPast v, s.fetch with
  | some v1, .ok i =>
    match exec i s with
    | .next t =>
      if s.completes t && t.g.p.id == s.g.p.id && t.g.present && !t.g.ended then
        .next { t with g := { t.g with dbg := { t.g.dbg with viewing := some v1 } } }
      else if tookFault s t || t.g.ended || t.g.p.id != s.g.p.id then .next (s.endView v)
      else .next t
    | _ => .next (s.endView v)
  | _, _ => .next (s.endView v)

/-- One bundle of the focus group. A bundle with an uncorrectable error withdraws its translation, which is then produced
again, with no fault (R407). -/
def State.runBundleGroup (s : State) : Out :=
  match s.xlatOf s.g with
  | some t => if s.g.nat.on && Config.bundleFails s.tick s.free then .next ((s.withdraw t).countRel 7 1) else exec .bundleIssue s
  | none => exec .bundleIssue s

/-- Tries the focus group: a delivery that waits for its frames goes on; a group in a translation, or where
one can be entered, issues a bundle; any other group issues a virtual instruction. -/
def State.runGroup (s : State) : Out :=
  match s.g.pend, s.g.dbg.viewing with
  | .deliver t pc refused, _ => .next (s.enterHandler t pc refused)
  | _, some v => s.buildView v
  | _, none =>
    let s1 := s.toCompanion
    if s1.g.nat.on || s1.tryEnter.g.nat.on then s1.runBundleGroup else s1.runVirtualGroup

/-- Whether an attempt only waited: the group stands where it stood. -/
def onlyWaited (s t : State) : Bool :=
  t.g.stall != .none && t.g.stall != .debug && t.g.r.pcv == s.g.r.pcv && t.g.pend == s.g.pend && t.g.nat == s.g.nat &&
    t.g.present && !t.g.ended

/-- Tries the groups in the order of R351 until one does more than wait. A group on a clock-gated core wakes it
first (R360). -/
def State.tryGroups (s : State) : List GRef → Out
  | [] => .next s
  | who :: rest =>
    let s1 := s.refocus who
    match s1.runGroup with
    | .next t =>
      if onlyWaited s1 t then State.tryGroups t rest
      else if (SMap.get default s.cores s1.g.p.core).power = 1 then exec (.powerWake (.core s1.g.p.core)) s1
      else .next (s1.issued t).errorsArrive
    | o => o

/-- A core with a group that would do more than wait has a ready group, and is not due to be clock-gated (R358). -/
def State.stillIdle (s : State) (core : Nat) : Bool :=
  (s.groupsOn core).all fun g =>
    !s.eligible g || (match (s.refocus g.p.id).runGroup with
      | .next t => onlyWaited (s.refocus g.p.id) t
      | _ => false)

/-- The steps of other agents that are due now. -/
def State.dueNow (s : State) : List Instr :=
  s.due.filter fun i => match i with | .pL1Entry c => s.stillIdle c | _ => true

/-- What passes with time: clocks, sampling periods of empty partitions, what the links send, and P-L4's condition on
traffic. -/
def State.passTime (s : State) : State := s.timePass.alignEmpty.feedLinks.noteTraffic

/-- One step: time passes; then the first step that another agent has to do is performed, or a request of the debug or
profiler ring, or else one ready group issues. -/
def State.oneStep (s : State) : Out :=
  match s.agenda with
  | i :: rest => exec i { s.passTime with agenda := rest }
  | [] =>
    let s := s.passTime
    match s.dueNow with
    | i :: _ => exec i s
    | [] => match s.serveRings with
      | some o => o
      | none => s.tryGroups s.candidates

/-- A translation of context 0 whose procedure is one instruction's words at 0x1000. -/
def wordXlat (w : Nat) : Translation :=
  { (default : Translation) with
    ctx := 0, entry := 0x1000,
    words := [(0x1000, BitVec.ofNat 64 w), (0x1008, BitVec.ofNat 64 (w / 2 ^ 64))] }

/-- A group about to issue at 0x1000. -/
def Group.atWord (g : Group) : Group :=
  { g with
    present := true, ended := false, stall := .none, pend := .idle, kept := none, frozen := false, dbg := Dbg.reset
    nat := default, begun := none, u := { g.u with xchk := false }, p := { g.p with ctx := 0 }
    r := { g.r with pcv := lanes.map fun l => (l, 0x1000#64) } }

end Sys2Proof.Machine
end

