-- ==== Sys2Proof/Machine/Step.lean ====
section
/-! DEFINITION. One step of the machine, and the state in which the next step runs a given instruction. -/

namespace Sys2Proof.Machine

/-- One step of the machine. -/
def step (s : State) : Out := s.oneStep

/-- R13, R266: the state with an instruction's words standing in an installed translation at address
0x1000, and one live group of context 0 about to issue there. -/
def State.withFetchWord (s : State) (nbits w : Nat) : State :=
  { s with xlats := [wordXlat (w % 2 ^ nbits)], agenda := [], others := [], g := s.g.atWord }

end Sys2Proof.Machine
end

