-- ==== Sys2Proof/Safety.lean ====
section
/-! DEFINITION. The words in which claims about the machine are stated: when a group can issue an instruction, what
an issue does beside the instruction's own effect, what it leaves alone, and the values of operands and results as
bit vectors of the type's width. -/

namespace Sys2Proof.Machine

/-- The canonical form of a memory: addresses strictly rising and no byte of 0 listed. -/
abbrev Memory.wf (m : BMap 8) : Bool := SMap.wf 0 m

/-- R16: what a source of class s reads: the head of the queue bound to a queue register, or the register. -/
def State.source (s : State) (r : Nat) : BitVec 64 :=
  if 4088 ≤ r then
    ((SMap.get default s.rxq (NMap.get s.g.qbind (r - 4088) - 1)).entries.head?).getD 0
  else s.g.r.getS r

/-- A group can issue an instruction whose guard is `g` and whose s sources are `srcs`: some lane is active (R11,
R66), each queue register named is bound and its queue holds an entry (R16), the block keeps no replay log (R396), and
the group is not within an instruction whose accesses have been checked (R131). -/
structure State.Ready (s : State) (g : BitVec 4) (srcs : List Nat) : Prop where
  active : s.g.r.active g ≠ []
  bound : ∀ r ∈ srcs, 4088 ≤ r → NMap.get s.g.qbind (r - 4088) ≠ 0
  filled : ∀ r ∈ srcs, 4088 ≤ r →
    (SMap.get default s.rxq (NMap.get s.g.qbind (r - 4088) - 1)).entries ≠ []
  noLog : s.rlog = none
  fresh : s.g.kept = none

/-- A group can issue an instruction whose results lane check compares, and no idle lane's recomputation differs
(R34). -/
structure State.ReadyV (s : State) (g : BitVec 4) (srcs : List Nat) : Prop extends State.Ready s g srcs where
  agree : s.laneDiffs (s.g.r.active g) = []

/-- How many different queue registers among `srcs` are bound to queue `q` (R16). -/
def State.named (s : State) (srcs : List Nat) (q : Nat) : Nat :=
  ((srcs.filter fun r => decide (4088 ≤ r)).eraseDups.filter fun r =>
    NMap.get s.g.qbind (r - 4088) == q + 1).length

/-- The lanes that took part have moved on by `len` bytes, and no other lane has moved (R11, R64). -/
def Moved (s t : State) (len : Nat) : Prop :=
  (∀ l ∈ s.g.r.taking, t.g.r.getPcv l = BitVec.ofNat 64 ((s.pc + len) % 2 ^ 57)) ∧
  (∀ l, l ∉ s.g.r.taking → t.g.r.getPcv l = s.g.r.getPcv l)

/-- Each receive queue has lost one entry for each queue register bound to it that the instruction names (R16). -/
def Popped (s t : State) (srcs : List Nat) : Prop :=
  ∀ q, SMap.get default t.rxq q =
    { SMap.get default s.rxq q with entries := (SMap.get default s.rxq q).entries.drop (s.named srcs q) }

/-- Nothing of the focus group but its registers has changed, and it waits for nothing. -/
def GroupKept (s t : State) : Prop :=
  t.g = { s.g with r := t.g.r, stall := .none, pend := .idle, kept := none }

/-- Every byte of memory reads as before. -/
def MemoryKept (s t : State) : Prop := ∀ a, BMap.get t.mem a = BMap.get s.mem a

/-- An instruction that changes only its group's registers has issued: the machine beside the group and the receive
queues is as it was, every byte of memory included. -/
structure Issued (s t : State) (srcs : List Nat) (len : Nat) : Prop where
  moved : Moved s t len
  popped : Popped s t srcs
  group : GroupKept s t
  machine : t = { s with g := t.g, rxq := t.rxq }
  memory : MemoryKept s t

/-- A control transfer has issued: each lane that took part is at the address given for it. -/
structure Transferred (s t : State) (srcs : List Nat) (dest : Nat → Nat) : Prop where
  moved : ∀ l ∈ s.g.r.taking, t.g.r.getPcv l = BitVec.ofNat 64 (dest l)
  stayed : ∀ l, l ∉ s.g.r.taking → t.g.r.getPcv l = s.g.r.getPcv l
  popped : Popped s t srcs
  group : GroupKept s t
  machine : t = { s with g := t.g, rxq := t.rxq }
  memory : MemoryKept s t

/-- An instruction has issued whose own effect leaves the state `u`: `t` is `u` with the lanes that took part moved
on, the queues named popped, and the group waiting for nothing. -/
structure Completed (s u t : State) (srcs : List Nat) (len : Nat) : Prop where
  moved : ∀ l ∈ s.g.r.taking, t.g.r.getPcv l = BitVec.ofNat 64 ((s.pc + len) % 2 ^ 57)
  stayed : ∀ l, l ∉ s.g.r.taking → t.g.r.getPcv l = u.g.r.getPcv l
  popped : Popped u t srcs
  machine : t = { u with
    rxq := t.rxq
    g := { u.g with r := { u.g.r with pcv := t.g.r.pcv }, stall := .none, pend := .idle, kept := none } }

/-- The state in which the group waits for the reason given, with nothing else changed. -/
def State.waiting (s : State) (why : Stall) : State := { s with g := { s.g with stall := why } }

/-! ### Faults (R169 to R172) -/

/-- The numbers of the causes (R170). -/
def causeNumber : Cause → Nat
  | .illop => 1 | .priv => 2 | .align => 3 | .page => 4 | .prot => 5 | .rsvd => 6 | .canon => 7 | .owner => 8
  | .detv => 9 | .tile => 10 | .faort => 11 | .fabric => 12 | .check => 13 | .mchk => 14 | .trapi => 15 | .bkpt => 16
  | .watch => 17 | .img => 18 | .xlat => 19 | .qbad => 20

/-- R169: the fault registers hold the fault of an instruction at `pc`. %faultaux[63:56] holds bits [71:64] of the
address. -/
structure FaultHeld (r : Regs) (t : Trap) (pc : Nat) : Prop where
  cause : r.faultcause = BitVec.ofNat 64 (causeNumber t.cause)
  va : r.faultva = BitVec.ofNat 64 t.va
  pc : r.faultpc = BitVec.ofNat 64 pc
  aux : r.faultaux = BitVec.ofNat 64 (t.va / 2 ^ 64 % 256 * 2 ^ 56 + t.aux % 2 ^ 56)

/-- R169: a fault of the focus group has reached its receiver: the fault registers hold it, and the group has stopped
for its debugger, or stands at its handler, or the runtime has been asked to end the process with a core dump. Causes
IMG, XLAT and MCHK do not go to the handler, and neither does a fault of the handler. -/
structure FaultReceived (s t : State) (f : Trap) (pc : Nat) : Prop where
  held : FaultHeld t.g.r f pc
  debugger : s.debugged = true → t.g.stall = .debug ∧ t.g.dbg.stopped = true ∧ t.g.r.pcv = s.g.r.pcv
  handler : ∀ h, s.debugged = false → s.g.u.trapEntry = some h → s.g.inHandler = false →
    f.cause ≠ .mchk → f.cause ≠ .img → f.cause ≠ .xlat → (f.cause = .check → s.relcount = 0) → s.frameFault = none →
    t.g.inHandler = true ∧ t.g.stall = .none ∧ t.g.pend = .idle ∧
      ∀ l ∈ s.g.r.live, t.g.r.getPcv l = BitVec.ofNat 64 (h % 2 ^ 57)
  process : s.debugged = false →
    (s.g.u.trapEntry = none ∨ s.g.inHandler = true ∨ f.cause = .mchk ∨ f.cause = .img ∨ f.cause = .xlat) →
    t.g.stall = .fault ∧ .coreDump s.g.p.ctx ∈ t.agenda

/-- R169, R171: what a fault leaves alone. Of the registers only the fault registers, and the program counters of a group
that enters its handler, change. Without a handler nothing of the machine changes but trace records, the process's end and
the counter of its cause (R409); a group that enters its handler has the frames of its live lanes written. -/
structure FaultFrame (s t : State) (f : Trap) (pc : Nat) : Prop where
  regs : t.g.r = { s.g.r with
    pcv := t.g.r.pcv, faultcause := t.g.r.faultcause, faultva := t.g.r.faultva, faultpc := t.g.r.faultpc,
    faultaux := t.g.r.faultaux }
  group : t.g = { s.g with
    r := t.g.r, stall := t.g.stall, pend := t.g.pend, kept := none, inHandler := t.g.inHandler, priv := t.g.priv,
    privPoison := t.g.privPoison
    dbg := { s.g.dbg with stopped := t.g.dbg.stopped, cause := t.g.dbg.cause } }
  stays : t.g.inHandler = s.g.inHandler →
    t.g.r.pcv = s.g.r.pcv ∧ t.g.priv = s.g.priv ∧ t.g.privPoison = s.g.privPoison ∧
      t.mem = (s.countFault f.cause).mem ∧
      (f.cause ≠ .mchk → (f.cause = .check → s.relcount = 0) →
        t = { s with g := t.g, trace := t.trace, ctxs := t.ctxs, agenda := t.agenda })
  frames : t.g.inHandler ≠ s.g.inHandler → ∃ tr,
    let c := ({ s with trace := tr } : State).countFault f.cause
    let v := s.g.r.live.foldl State.writeFrame
      { c with g := { c.g with r := c.g.r.setFault f pc, pend := .idle, kept := none, stall := .none } }
    t.mem = v.mem ∧ t.poison = v.poison ∧ t.others = v.others ∧ t.g.priv = v.g.priv ∧ t.g.privPoison = v.g.privPoison

/-- R169 to R171: a fault of the focus group, and nothing else. -/
structure Faulted (s t : State) (f : Trap) (pc : Nat) : Prop extends FaultReceived s t f pc, FaultFrame s t f pc

/-- R24, R133: a form whose lane `l` accesses `n` bytes of this device at `base` plus `off l` takes CANON at the lowest
lane whose sum is no address, %faultva being the free value of log entry 16, and where every sum is an address ALIGN at
the lowest lane whose address is not a multiple of `n`. -/
def BadAddress (s : State) (i : Instr) (lanes : List Nat) (base : Nat) (off : Nat → Int) (n : Nat) (write : Bool) : Prop :=
  let sum (l : Nat) : Int := base + off l
  let out (l : Nat) : Prop := 2 ^ 57 ≤ base ∨ sum l < 0 ∨ 2 ^ 57 ≤ sum l
  let aux (l : Nat) : Nat := l + if write then 2 ^ 14 else 0
  (∀ l ∈ lanes, out l → (∀ m ∈ lanes, m < l → ¬ out m) →
    let va := Config.canonAddr 0 (sum l) % 2 ^ 72
    ∃ t, exec i s = .next t ∧ Faulted s t
      { cause := .canon, va := va, aux := aux l + if s.isLocal va then 0 else 2 ^ 15 } s.pc) ∧
  ((∀ l ∈ lanes, ¬ out l) → ∀ l ∈ lanes, (sum l).toNat % n ≠ 0 → (∀ m ∈ lanes, m < l → (sum m).toNat % n = 0) →
    ∃ t, exec i s = .next t ∧ Faulted s t { cause := .align, va := (sum l).toNat, aux := aux l } s.pc)

/-! ### Which registers an instruction may change -/

/-- Only program counters. -/
def OnlyPc (r r' : Regs) : Prop := r' = { r with pcv := r'.pcv }

/-- Only program counters and the s registers named. -/
def OnlyS (r r' : Regs) (ds : List Nat) : Prop :=
  r' = { r with pcv := r'.pcv, s := r'.s } ∧ ∀ i, i ∉ ds → r'.getS i = r.getS i

/-- Only program counters and, in the lanes given, the v registers named. -/
def OnlyV (r r' : Regs) (ds : List Nat) (ls : List Nat) : Prop :=
  r' = { r with pcv := r'.pcv, v := r'.v } ∧
  ∀ i l, l < 32 → (i ∉ ds ∨ l ∉ ls) → r'.getV i l = r.getV i l

/-- Only program counters and, in the lanes given, one k register. -/
def OnlyK (r r' : Regs) (d : Nat) (ls : List Nat) : Prop :=
  r' = { r with pcv := r'.pcv, k := r'.k } ∧ (∀ i, i ≠ d → r'.getK i = r.getK i) ∧
  ∀ l, l < 32 → l ∉ ls → (r'.getK d).getLsbD l = (r.getK d).getLsbD l

/-- Only program counters and one n register. -/
def OnlyN (r r' : Regs) (d : Nat) : Prop :=
  r' = { r with pcv := r'.pcv, n := r'.n } ∧ ∀ i, i ≠ d → r'.getN i = r.getN i

/-! ### Values at a type's width (R38, R91, R92) -/

/-- Whether a type is a signed integer type (R37, R39). -/
abbrev isSigned (ty : BitVec 4) : Bool := Num.tySigned ty.toNat

/-- The width of a type's values (R37). -/
abbrev widthOf (ty : BitVec 4) : Nat := Num.tyBits ty.toNat

/-- R38: a value placed in a wider register. -/
def placed (w : Nat) (sign : Bool) {n : Nat} (x : BitVec n) : BitVec w :=
  if sign then x.signExtend w else x.setWidth w

/-- The v registers of a value of a type: two for a 64-bit type (R14). -/
def vRegs (ty : BitVec 4) (d : Nat) : List Nat := if widthOf ty = 64 then [d, d + 1] else [d]

/-- A lane's value of a type (R38). -/
def Regs.value (r : Regs) (ty : BitVec 4) (reg lane : Nat) : BitVec (widthOf ty) :=
  if widthOf ty = 64 then (r.getV64 reg lane).setWidth _ else (r.getV reg lane).setWidth _

/-- A lane's register holds a value of a type, extended when the type is narrower than 32 bits (R38). -/
def Regs.holds (r : Regs) (ty : BitVec 4) (reg lane : Nat) (x : BitVec (widthOf ty)) : Prop :=
  if widthOf ty = 64 then r.getV64 reg lane = x.setWidth 64
  else r.getV reg lane = placed 32 (isSigned ty) x

/-! ### The integer operations on bit vectors (R40, R97 to R101) -/

/-- The two-operand integer operations. -/
inductive IntOp where
  | add | sub | mul | mulh | div | rem | and | or | xor | andn | min | max
  deriving DecidableEq, Repr

/-- R97, R40: an operation on two values of one width. Division by 0 gives all ones and leaves the dividend as the
remainder. -/
def IntOp.of (op : IntOp) (sign : Bool) {n : Nat} (x y : BitVec n) : BitVec n :=
  match op with
  | .add => x + y
  | .sub => x - y
  | .mul => x * y
  | .mulh =>
    if sign then ((x.signExtend (2 * n) * y.signExtend (2 * n)) >>> n).setWidth n
    else ((x.setWidth (2 * n) * y.setWidth (2 * n)) >>> n).setWidth n
  | .div => if y = 0 then BitVec.allOnes n else if sign then x.sdiv y else x / y
  | .rem => if y = 0 then x else if sign then x.srem y else x % y
  | .and => x &&& y
  | .or => x ||| y
  | .xor => x ^^^ y
  | .andn => x &&& ~~~y
  | .min => if (if sign then x.slt y else x.ult y) then x else y
  | .max => if (if sign then x.slt y else x.ult y) then y else x

/-- The shifts. -/
inductive ShiftOp where
  | shl | shr | sar | rot
  deriving DecidableEq, Repr

/-- R98: a shift by an amount of any size. -/
def ShiftOp.of (op : ShiftOp) {n : Nat} (x : BitVec n) (b : Nat) : BitVec n :=
  match op with
  | .shl => x <<< b
  | .shr => x >>> b
  | .sar => x.sshiftRight b
  | .rot => x.rotateLeft b

/-- R99: the conditions of SET and VCMP, by minor. -/
def condOf (minor : Nat) (sign : Bool) {n : Nat} (x y : BitVec n) : Bool :=
  let less (x y : BitVec n) : Bool := if sign then x.slt y else x.ult y
  match minor with
  | 0 => x == y
  | 1 => x != y
  | 2 => less x y
  | 3 => !less y x
  | 4 => less y x
  | _ => !less x y

/-- R101: the field of `x` at `pos` of `w` bits, cut at the top; an empty one reads 0. -/
def extractField (sign : Bool) {n : Nat} (x : BitVec n) (pos w : Nat) : BitVec n :=
  let f := x.extractLsb' pos (min w (n - pos))
  if w = 0 ∨ n ≤ pos then 0 else if sign then f.signExtend n else f.setWidth n

/-- R101: `d` with the low bits of `x` in the field at `pos` of `w` bits, cut at the top. -/
def insertField {n : Nat} (d x : BitVec n) (pos w : Nat) : BitVec n :=
  let m : BitVec n := (BitVec.allOnes (min w (n - pos))).setWidth n <<< pos
  if w = 0 ∨ n ≤ pos then d else (d &&& ~~~m) ||| ((x <<< pos) &&& m)

/-- A scalar operand's value of a type: its low bits (R91). -/
def State.operand (s : State) (ty : BitVec 4) (r : BitVec 12) : BitVec (widthOf ty) :=
  (s.source r.toNat).setWidth _

/-! ### Floating-point values (R41, R42, R52 to R56) -/

/-- The exact value of a code of a type (R37). -/
def exactOf (ty : BitVec 4) (x : BitVec (widthOf ty)) : Num.Val := Num.decodeTy ty.toNat 0 64 x.toNat

/-- The code of an exact value, rounded once in a direction (R42, R52 to R55). -/
def roundTo (ty : BitVec 4) (rm : Num.Rm) (v : Num.Val) : BitVec (widthOf ty) :=
  BitVec.ofNat _ (Num.encodeTy ty.toNat 0 64 rm false v)

/-- Whether a value is a NaN. -/
def IsNan (v : Num.Val) : Prop := v = .nan

/-- R114: the inputs at which the seven functions are not finite or are exact by rule, and their results. -/
def specialRcp : Num.Val → Option Num.Val
  | .nan => some .nan
  | .inf n => some (.fin n 0 0)
  | .fin n 0 _ => some (.inf n)
  | _ => none

def specialRsq : Num.Val → Option Num.Val
  | .nan => some .nan
  | .inf n => some (if n then .nan else .fin false 0 0)
  | .fin n 0 _ => some (.inf n)
  | .fin true _ _ => some .nan
  | _ => none

def specialExp2 : Num.Val → Option Num.Val
  | .nan => some .nan
  | .inf n => some (if n then .fin false 0 0 else .inf false)
  | .fin _ 0 _ => some (.fin false 1 0)
  | _ => none

def specialLog2 : Num.Val → Option Num.Val
  | .nan => some .nan
  | .inf n => some (if n then .nan else .inf false)
  | .fin _ 0 _ => some (.inf true)
  | .fin true _ _ => some .nan
  | _ => none

def specialSin : Num.Val → Option Num.Val
  | .nan => some .nan
  | .inf _ => some .nan
  | .fin n 0 _ => some (.fin n 0 0)
  | _ => none

def specialCos : Num.Val → Option Num.Val
  | .nan => some .nan
  | .inf _ => some .nan
  | .fin _ 0 _ => some (.fin false 1 0)
  | _ => none

def specialTanh : Num.Val → Option Num.Val
  | .nan => some .nan
  | .inf n => some (.fin n 1 0)
  | .fin n 0 _ => some (.fin n 0 0)
  | _ => none

/-- R52, R53: the direction that a conversion's RM field names. -/
def direction (rm : Nat) (dst : BitVec 4) (fromInt : Bool) : Num.Rm :=
  match rm with
  | 1 => .rne
  | 2 => .rna
  | 3 => .rz
  | 4 => .rdn
  | 5 => .rup
  | _ =>
    if dst = 0#4 ∨ dst = 1#4 ∨ dst = 12#4 ∨ dst = 13#4 then .rna
    else if dst.toNat ≤ 7 ∧ !fromInt then .rz
    else .rne

/-! ### Data of memory forms (R128) -/

/-- The s registers of a scalar data field. -/
def sDataRegs (sz : BitVec 3) (d : Nat) : List Nat := if sz = 4#3 then [d, d + 1] else [d]

/-- The v registers of a vector data field. -/
def vDataRegs (sz : BitVec 3) (d : Nat) : List Nat :=
  if sz = 4#3 then [d, d + 1, d + 2, d + 3] else if sz = 3#3 then [d, d + 1] else [d]

/-- An s data field holds a loaded value, zero-extended. -/
def Regs.holdsS (r : Regs) (sz : BitVec 3) (d v : Nat) : Prop :=
  if sz = 4#3 then r.getS d = BitVec.ofNat 64 v ∧ r.getS (d + 1) = BitVec.ofNat 64 (v / 2 ^ 64)
  else r.getS d = if d = 0 then 0 else BitVec.ofNat 64 v

/-- A lane of a v data field holds a loaded value, zero-extended. -/
def Regs.holdsV (r : Regs) (sz : BitVec 3) (d lane v : Nat) : Prop :=
  if sz = 4#3 then r.getV64 d lane = BitVec.ofNat 64 v ∧ r.getV64 (d + 2) lane = BitVec.ofNat 64 (v / 2 ^ 64)
  else if sz = 3#3 then r.getV64 d lane = BitVec.ofNat 64 v
  else r.getV d lane = BitVec.ofNat 32 v

/-- A scalar load of the access `a`, once it is checked and lies on this device: the value read goes to the data
field; beside that only the accessed bits of its page's entries change (R330). -/
def LoadsScalar (s : State) (i : Instr) (sz : BitVec 3) (d : Nat) (srcs : List Nat) (len : Nat) (a : Acc) : Prop :=
  ∀ l, s.check a = .ok (.here l) →
    ∃ t r, exec i s = .next t ∧ Completed s { s.touch a with g := { s.g with r := r } } t srcs len ∧
      OnlyS s.g.r r (sDataRegs sz d) ∧ r.pcv = s.g.r.pcv ∧ r.holdsS sz d (s.readSpans l)

/-- A vector load, one access for each active lane, in the same way. -/
def LoadsVector (s : State) (i : Instr) (sz : BitVec 3) (d : Nat) (g : BitVec 4) (srcs : List Nat) (len : Nat)
    (a : Nat → Acc) : Prop :=
  ∀ sp : Nat → List Span, (∀ l ∈ s.g.r.active g, s.check (a l) = .ok (.here (sp l))) →
    ∃ t r, exec i s = .next t ∧
      Completed s { s.touchAll ((s.g.r.active g).map a) with g := { s.g with r := r } } t srcs len ∧
      OnlyV s.g.r r (vDataRegs sz d) (s.g.r.active g) ∧ r.pcv = s.g.r.pcv ∧
      ∀ l ∈ s.g.r.active g, r.holdsV sz d l (s.readSpans (sp l))

/-- A scalar store of `v` by the access `a`: its bytes are written, beside the accessed and dirty bits of its page's
entries (R330); every other byte, and every register but the program counters, is as it was. -/
def StoresScalar (s : State) (i : Instr) (srcs : List Nat) (len : Nat) (a : Acc) (v : Nat) : Prop :=
  ∀ l, s.check a = .ok (.here l) →
    ∃ t, exec i s = .next t ∧ Completed s ((s.touch a).writeSpans l v) t srcs len ∧ OnlyPc s.g.r t.g.r ∧
      (∀ x, (∀ p ∈ l, p.scratch = false → x < p.at_ ∨ p.at_ + p.len ≤ x) →
        BMap.get t.mem x = BMap.get (s.touch a).mem x) ∧
      (∀ p, l = [p] → p.scratch = false → BMap.readNat t.mem p.at_ p.len = v % 256 ^ p.len)

/-- A vector store, one access for each active lane, in ascending lanes. -/
def StoresVector (s : State) (i : Instr) (g : BitVec 4) (srcs : List Nat) (len : Nat) (a : Nat → Acc)
    (v : Nat → Nat) : Prop :=
  ∀ sp : Nat → List Span, (∀ l ∈ s.g.r.active g, s.check (a l) = .ok (.here (sp l))) →
    ∃ t, exec i s = .next t ∧ OnlyPc s.g.r t.g.r ∧
      Completed s ((s.g.r.active g).foldl (fun u l => (u.touch (a l)).writeSpans (sp l) (v l)) s) t srcs len ∧
      ((∀ l ∈ s.g.r.active g, ∀ p ∈ sp l, p.scratch = true) → MemoryKept s t)

/-! ### Atomics and rings (R143 to R150) -/

/-- R143: the new word of an operation, by OPC. -/
def atomicOf (opc : Nat) {n : Nat} (w x : BitVec n) : BitVec n :=
  match opc with
  | 0 => w + x
  | 1 => w &&& x
  | 2 => w ||| x
  | 3 => w ^^^ x
  | 4 => if x.slt w then x else w
  | 5 => if w.slt x then x else w
  | 6 => if x.ult w then x else w
  | 7 => if w.ult x then x else w
  | _ => x

/-- R145: one lane after another reads its word and writes what `new` gives for it, if anything: the words that
the lanes read, and the state. -/
def State.perform (s : State) (sp : Nat → List Span) (new : Nat → Nat → Option Nat) : List Nat →
    List (Nat × Nat) × State
  | [] => ([], s)
  | l :: ls =>
    let w := s.readSpans (sp l)
    let s' := match new l w with
      | some v => s.writeSpans (sp l) v
      | none => s
    let rest := s'.perform sp new ls
    ((l, w) :: rest.1, rest.2)

/-- R151: the compare of a WAITC code on two words. -/
def waitCond (code : Nat) {n : Nat} (w c : BitVec n) : Bool :=
  match code with
  | 0 => w == c
  | 1 => w != c
  | 2 => !w.slt c
  | 3 => w.slt c
  | 4 => !w.ult c
  | 5 => w.ult c
  | _ => w &&& c != 0

/-- A state in which the trace may differ, if the group's context asks for trace records (R394). -/
def State.traced (u s t : State) : State :=
  { u with trace := if (s.profOf s.g.p.ctx).port then t.trace else u.trace }

/-- R112: the result of VFMIN.nan or VFMAX.nan on two codes. -/
def floatPick (ty : BitVec 4) (big : Bool) (a b : BitVec (widthOf ty)) : BitVec (widthOf ty) :=
  let x := exactOf ty a
  let y := exactOf ty b
  let below (x y : Num.Val) : Bool :=
    match Num.cmp x y with
    | some c => decide (c < 0) || (c == 0 && Num.isNeg x && !Num.isNeg y)
    | none => false
  if x = .nan ∨ y = .nan then roundTo ty .rne .nan
  else if (if big then below x y else below y x) then b else a

/-- R124: what a reduction of the lanes' values `xs`, lowest lane first, gives. -/
def ReducesTo (ty : BitVec 4) (minor : Nat) (xs : List (BitVec (widthOf ty))) (v : BitVec (widthOf ty)) : Prop :=
  let less (x y : BitVec (widthOf ty)) : Bool := if isSigned ty then x.slt y else x.ult y
  if ty.toNat ≤ 7 then
    match minor with
    | 0 => v = xs.foldl (· + ·) 0
    | 1 => v ∈ xs ∧ ∀ x ∈ xs, less x v = false
    | 2 => v ∈ xs ∧ ∀ x ∈ xs, less v x = false
    | 3 => v = xs.foldl (· &&& ·) (BitVec.allOnes _)
    | 4 => v = xs.foldl (· ||| ·) 0
    | _ => v = xs.foldl (· ^^^ ·) 0
  else
    match minor with
    | 0 => v = roundTo ty .rne (Num.sum (xs.map (exactOf ty)))
    | m => ∃ x rest, xs = x :: rest ∧
        v = rest.foldl (floatPick ty (m == 2)) (if exactOf ty x = .nan then roundTo ty .rne .nan else x)

/-- R75: the value of a pair's scalar half: SOP names the major, with minor 0. -/
def sopValue (sop : BitVec 8) (ty : BitVec 4) (a b : BitVec 64) : BitVec 64 :=
  let x : BitVec (widthOf ty) := a.setWidth _
  let y : BitVec (widthOf ty) := b.setWidth _
  let int (op : IntOp) : BitVec 64 := placed 64 (isSigned ty) (op.of (isSigned ty) x y)
  let shift (op : ShiftOp) : BitVec 64 := placed 64 (isSigned ty) (op.of x b.toNat)
  match sop.toNat with
  | 0 => int .add | 1 => int .sub | 2 => int .mul | 3 => int .mulh | 4 => int .div | 5 => int .rem
  | 6 => int .and | 7 => int .or | 8 => int .xor | 9 => int .andn
  | 10 => shift .shl | 11 => shift .shr | 12 => shift .sar | 13 => shift .rot
  | 14 => int .min | 15 => int .max
  | _ => if x = y then 1 else 0

/-- R75: the instruction of a pair's vector half under the guard `g`: its own guard field is 0000. -/
def underGuard (g : BitVec 4) : Instr → Instr
  | .vadd f => .vadd { f with g := g } | .vsub f => .vsub { f with g := g }
  | .vmul f => .vmul { f with g := g } | .vmulh f => .vmulh { f with g := g }
  | .vmad f => .vmad { f with g := g } | .vmin f => .vmin { f with g := g }
  | .vmax f => .vmax { f with g := g } | .vabs f => .vabs { f with g := g }
  | .vand f => .vand { f with g := g } | .vor f => .vor { f with g := g } | .vxor f => .vxor { f with g := g }
  | .vnot f => .vnot { f with g := g } | .vshl f => .vshl { f with g := g }
  | .vshr f => .vshr { f with g := g } | .vsar f => .vsar { f with g := g }
  | .vbfx f => .vbfx { f with g := g } | .vbfi f => .vbfi { f with g := g }
  | .vclz f => .vclz { f with g := g } | .vpopc f => .vpopc { f with g := g }
  | .vcmp f => .vcmp { f with g := g } | .vsel f => .vsel { f with g := g }
  | .vmov f => .vmov { f with g := g } | .vbcast f => .vbcast { f with g := g }
  | .viota f => .viota { f with g := g } | .vdot4 f => .vdot4 { f with g := g }
  | .kop f => .kop { f with g := g } | .kmovTos f => .kmovTos { f with g := g }
  | .kmovFroms f => .kmovFroms { f with g := g } | .vfadd f => .vfadd { f with g := g }
  | .vfsub f => .vfsub { f with g := g } | .vfmul f => .vfmul { f with g := g }
  | .vfma f => .vfma { f with g := g } | .vfmin f => .vfmin { f with g := g }
  | .vfmax f => .vfmax { f with g := g } | .vfcmp f => .vfcmp { f with g := g }
  | .vfdiv f => .vfdiv { f with g := g } | .vfsqrt f => .vfsqrt { f with g := g }
  | .vrcp f => .vrcp { f with g := g } | .vrsq f => .vrsq { f with g := g }
  | .vexp2 f => .vexp2 { f with g := g } | .vlog2 f => .vlog2 { f with g := g }
  | .vsin f => .vsin { f with g := g } | .vcos f => .vcos { f with g := g }
  | .vtanh f => .vtanh { f with g := g } | .vround f => .vround { f with g := g }
  | .vcvt f => .vcvt { f with g := g } | .vpack f => .vpack { f with g := g }
  | .vunpack f => .vunpack { f with g := g } | .vscale f => .vscale { f with g := g }
  | .vperm f => .vperm { f with g := g } | .vshfl f => .vshfl { f with g := g }
  | .vred f => .vred { f with g := g } | .vscan f => .vscan { f with g := g }
  | .vvote f => .vvote { f with g := g } | .vpart f => .vpart { f with g := g }
  | i => i


/-! ### Tile forms of level 0 (R184 to R189, R209 to R217) -/

/-- R209 to R217: the formats that a level-0 form takes for its D descriptor. -/
def tileFormatsD (opc : Nat) : List Nat :=
  match opc with
  | 0xA3 | 0xA4 => [8, 9, 12, 13]
  | 0xA5 => [8, 9, 10]
  | 0xA6 => List.range 16
  | 0xA7 => [0, 1, 2, 4, 8, 9, 10, 12, 13]
  | 0xA9 => [14]
  | _ => [0, 1, 2, 3, 4, 5, 8, 9, 10, 12, 13]

/-- The same for its A and B descriptors. -/
def tileFormatsAB (opc : Nat) : List Nat :=
  match opc with
  | 0xA4 => [8, 9, 12, 13]
  | 0xA5 => [8, 9, 10]
  | _ => [0, 1, 2, 3, 4, 5, 8, 9, 10, 12, 13]

/-- R189, R211 to R217: which descriptors a form has beside D, and that the shapes agree. -/
def shapesAgree (opc min : Nat) (d : TDesc) (a b : Option TDesc) : Prop :=
  match opc, a, b with
  | 0xA2, some a, none => if min.testBit 0 then d.rows = a.cols ∧ d.cols = a.rows else d.rows = a.rows ∧ d.cols = a.cols
  | 0xA4, some a, none => d.cols = a.rows ∧ d.cols % 32 = 0
  | 0xA5, some a, none => d.rows = a.rows ∧ d.cols = a.cols
  | 0xA9, some a, none =>
    match min % 4 with
    | 0 => d.rows = a.rows ∧ d.cols = a.cols
    | 1 => d.rows = 1 ∧ d.cols = a.cols
    | _ => d.rows = 1 ∧ d.cols = 1
  | 0xAA, some a, none => d.rows = a.rows ∧ d.cols = a.cols
  | 0xAA, some a, some b => d.rows = a.rows ∧ d.cols = a.cols ∧ d.rows = b.rows ∧ d.cols = b.cols
  | 0xA3, none, none => d.rows % 32 = 0
  | 0xA7, none, none => min % 4 = 2 → d.rows = 1
  | 0xA8, none, none => min % 4 = 2 → d.rows = 1
  | 0xA0, none, none => True
  | 0xA1, none, none => True
  | 0xA6, none, none => True
  | _, _, _ => False

/-- R186, R187: the descriptors of a level-0 form whose images lie in the slot region. -/
def slotTiles (opc : Nat) (d : TDesc) (a b : Option TDesc) : List TDesc :=
  match opc with
  | 0xA3 | 0xA6 => []
  | 0xA2 | 0xA5 | 0xAA => d :: (a.toList ++ b.toList)
  | 0xA9 => a.toList
  | _ => [d]

/-- R187, R209, R210, R216: the access that a level-0 form makes to row i of the memory tile that D describes, of rows of
`n` bytes and elements of `e`. -/
def rowAcc (s : State) (opc lane : Nat) (d : TDesc) (e i n : Nat) : Acc :=
  { lane := lane, addr := some (d.loc * 2 ^ 57 + (d.base + i * d.stride)), bad := d.loc * 2 ^ 57 + (d.base + i * d.stride)
    size := n, align := e, read := opc == 0xA0 || opc == 0xA3, write := opc == 0xA1 || opc == 0xA9
    win := .globalOnly, host := opc != 0xA9, thread := false, eats := false, ctx := s.g.p.ctx }

/-- R188: the granules of the images of a level-0 form are all in T. -/
def TilesIdle (s : State) (opc : Nat) (d : TDesc) (a b : Option TDesc) : Prop :=
  ∀ x ∈ slotTiles opc d a b, ∀ g, g * 4096 < x.imageAt + x.imageLen → x.imageAt < (g + 1) * 4096 → s.ownerOf g = .t

/-- R184 to R194: what the spec asks of the tiles of a level-0 form, for tiles that are neither CW nor SCALED nor FT, with
their memory on this device. `e` is the element size of D, and `arow`, `acol` the origin of the accumulator region. -/
structure TilesOk (s : State) (opc min lane e arow acol : Nat) (d : TDesc) (a b : Option TDesc) : Prop where
  plain : ∀ x ∈ d :: (a.toList ++ b.toList), x.cw = false ∧ x.scaled = false
  formatD : d.fmt ∈ tileFormatsD opc
  formatAB : ∀ x ∈ a.toList ++ b.toList, x.fmt ∈ tileFormatsAB opc
  shapes : shapesAgree opc min d a b
  slots : ∀ x ∈ slotTiles opc d a b, x.imageAt + x.imageLen ≤ s.g.u.scratch
  apart : opc = 0xA2 ∨ opc = 0xAA → ∀ x ∈ a.toList ++ b.toList,
    d.imageAt + d.imageLen ≤ x.imageAt ∨ x.imageAt + x.imageLen ≤ d.imageAt
  region : 0xA4 ≤ opc → opc ≤ 0xA8 →
    arow + d.rows ≤ 128 ∧ acol + (if opc = 0xA4 then (a.map TDesc.cols).getD 0 else d.cols) ≤ 256
  weights : opc = 0xA3 → d.slot + ceilDiv (d.rows * d.cols * e) 2048 ≤ 256
  strides : opc ∈ [0xA0, 0xA1, 0xA3, 0xA9] → d.cols * e ≤ d.stride ∧ d.stride % e = 0
  places : opc ∈ [0xA0, 0xA1, 0xA3, 0xA9] → (d.loc = 0 ∨ d.loc = s.devloc.toNat ∧ 2 ^ 14 ≤ d.loc) ∧
    ∀ i, i < d.rc → d.cc * e ≠ 0 → d.base + i * d.stride < 2 ^ 57 ∧
      ∃ sp, s.check (rowAcc s opc lane d e i (d.cc * e)) = .ok (.here sp)

/-- R189: the element size of a form's D descriptor: TRED .w128 works on words of 16 bytes (R216). -/
def sizeOfD (opc min : Nat) (d : TDesc) : Nat := if opc = 0xA9 ∧ min.testBit 2 then 16 else d.e

/-- R186: elements (i, j) of an image in the slot region hold what `v` gives, for i below `rows` and j below `cols`, and
every other byte of the region is as it was in `m`. -/
def imageHolds (m m' : BMap 8) (d : TDesc) (rows cols : Nat) (v : Nat → Nat → Nat) : Prop :=
  (∀ i j, i < rows → j < cols → d.getEl m' i j = v i j % 256 ^ d.e) ∧
  ∀ x, (∀ i j, i < rows → j < cols →
    x < d.imageAt + i * d.rowBytes + j * d.e ∨ d.imageAt + i * d.rowBytes + (j + 1) * d.e ≤ x) → BMap.get m' x = BMap.get m x

/-- R50, R205: the accumulator elements of a region hold what `v` gives, and every other element is as it was. -/
def accHolds (a a' : ArraySt) (arow acol rows cols : Nat) (v : Nat → Nat → BitVec 32 × BitVec 80) : Prop :=
  (∀ i j, i < rows → j < cols → a'.getAcc (arow + i) (acol + j) = v i j) ∧
  ∀ r c, c < 256 → ¬(arow ≤ r ∧ r < arow + rows ∧ acol ≤ c ∧ c < acol + cols) → a'.getAcc r c = a.getAcc r c

/-- R205: the carries of some columns hold what `v` gives, and every other carry is as it was. -/
def carryHolds (a a' : ArraySt) (acol cols : Nat) (v : Nat → BitVec 80 × Bool) : Prop :=
  (∀ j, j < cols → a'.getCarry (acol + j) = v j) ∧
  ∀ c, ¬(acol ≤ c ∧ c < acol + cols) → a'.getCarry c = a.getCarry c

/-! ### Places in memory, rings and desks -/

/-- The `n` bytes at `va` are mapped for writing, A and D set, to memory that holds none of what maps them: however the
bytes of `P` stand, every address has its byte in `P`. -/
def Writable (s : State) (ctx va n : Nat) : Prop :=
  va + n ≤ bindBase ∧ ∃ P : Nat → Prop, ∀ u : State, u.ctxs = s.ctxs →
    (∀ a, ¬ P a → BMap.get u.mem a = BMap.get s.mem a) → ∀ x, va ≤ x → x < va + n →
      ∃ f, u.leafOf ctx { write := true } x = .ok f ∧ P (f.pa x) ∧
        ∀ a, BMap.get (markUsed u.mem f true) a = BMap.get u.mem a

/-- R149: the access of one slot of a ring. -/
def slotAcc (ctx : Nat) (r : Ring) (i : Nat) (write : Bool) : Acc :=
  { lane := 0, addr := some (r.slot i), bad := r.slot i, size := r.esize, align := 8, read := !write, write := write,
    win := .globalOnly, host := false, thread := false, eats := false, ctx := ctx }

/-- R149: the ring of 64-byte elements at `pa`, whose slot `i` lies in memory of this device at `sp`. -/
structure RingReady (s : State) (ctx pa i : Nat) (write : Bool) (sp : List Span) : Prop where
  valid : (s.ringAt pa).valid = true
  esize : (s.ringAt pa).esize = 64
  inside : (s.ringAt pa).slot i + 64 ≤ 2 ^ 57
  mapped : s.check (slotAcc ctx (s.ringAt pa) i write) = .ok (.here sp)

/-- R150: a ring's head has moved past the slot read. -/
def State.dequeued (s : State) (ctx pa : Nat) : State :=
  let r := s.ringAt pa
  (s.touchPages ctx false 2 (r.slot r.head) r.esize).writeSpans [{ scratch := false, at_ := pa, len := 8 }]
    ((r.head + 1) % 2 ^ 64)

/-- R150: an element stands in a ring's tail slot, and the tail has moved past it. -/
def State.enqueued (s : State) (ctx pa : Nat) (sp : List Span) (elem : Nat) : State :=
  let r := s.ringAt pa
  ((s.touchPages ctx true 2 (r.slot r.tail) r.esize).writeSpans sp elem).writeSpans
    [{ scratch := false, at_ := pa + 8, len := 8 }] ((r.tail + 1) % 2 ^ 64)

/-- R339, R340: a launch record of kernel `k` breaks none of the rules of error codes 2 to 6; `ctrbase` is its queue's
counter base. -/
structure RecordOk (s : State) (ctx ctrbase : Nat) (k : KDesc) (r : Nat) : Prop where
  blocks : 1 ≤ fieldAt r 20 4 ∧ fieldAt r 20 4 ≤ 2 ^ 24
  groups : fieldAt r 24 1 = 0 ∨ fieldAt r 24 1 = k.groups
  flags : fieldAt r 25 1 < 48
  eclass : fieldAt r 26 1 < 16
  rlvl : fieldAt r 27 1 ∈ [0, 2, 3, 4]
  rset : fieldAt r 30 1 < 16 ∧ fieldAt r 31 1 = 0
  plain : fieldAt r 27 1 = 0 → fieldAt r 28 1 = 0 ∧ fieldAt r 29 1 = 0 ∧ fieldAt r 30 1 = 0
  reserves : fieldAt r 27 1 ≠ 0 → 1 ≤ fieldAt r 28 1 ∧ fieldAt r 28 1 ≤ 36 ∧ 1 ≤ fieldAt r 29 1 ∧ fieldAt r 29 1 ≤ 4
  oneDie : fieldAt r 27 1 = 2 → fieldAt r 29 1 = 1
  noSet : fieldAt r 27 1 ≠ 4 → fieldAt r 30 1 = 0
  podSet : fieldAt r 27 1 = 4 → (SMap.find? s.podSets (ctx * 16 + fieldAt r 30 1)).isSome
  counter : fieldAt r 25 1 / 16 = 1 → fieldAt r 40 8 % 8 = 0 ∧ fieldAt r 40 8 < 2 ^ 57
  enqueue : fieldAt r 25 1 / 16 = 2 → fieldAt r 40 8 % 64 = 0 ∧ fieldAt r 40 8 < 2 ^ 57 ∧ fieldAt r 36 4 < 64 ∧
    (s.queueOf (fieldAt r 36 4)).ctx = some ctx ∧ (fieldAt r 36 4 ≠ 0 ∨ ctx = 0)
  deps : ctrbase % 4096 = 0 ∨ recDeps r = []

/-- R345, R346, R348: `l` is the only launch; it is ready and reserves nothing, no core holds anything of another, and its
kernel needs no more than a core has and no more energy than every die's budget holds. -/
structure OnlyLaunch (s : State) (l : Launch) : Prop where
  only : s.launches = [l]
  ready : l.ready = true ∧ l.complete = false ∧ l.rlvl = 0
  alive : ∀ c ∈ s.ctxs, c.id = l.ctx → c.dumping = false
  empty : s.stages = [] ∧ s.xlats = []
  size : 1 ≤ l.k.groups ∧ l.k.groups ≤ 8 ∧ l.k.scratch ≤ 2 ^ 20
  energy : ∀ d, d < 4 → blockDebit (s.classOf l) ≤ s.energyOf d

/-- R10, R14, R15: block `b` of a launch has begun on core `c`: it has an empty scratchpad, and each of its groups stands
there with every lane at the kernel's entry, s1 and s2 as R15 states, and 0 in every other register. -/
def BlockBegun (t : State) (l : Launch) (b c : Nat) : Prop :=
  (∃ blk ∈ t.blocks, blk.launch = l.id ∧ blk.block = b ∧ blk.scratch = [] ∧ blk.owner = []) ∧
  (∃ r, (t.launchById l.id).bind (fun x => x.runOf b) = some r ∧ r.stat = .running c t.gtime) ∧
  ∀ n, n < l.k.groups → ∃ g ∈ t.others, g.present = true ∧ g.ended = false ∧
    g.p.id = { launch := l.id, block := b, group := n } ∧ g.p.ctx = l.ctx ∧ g.p.core = c ∧ g.p.part < 8 ∧ g.p.slot < 16 ∧
    g.u.kdesc = l.kaddr ∧ g.u.entry = l.k.entry ∧
    (∀ j, j < 32 → g.r.getPcv j = BitVec.ofNat 64 (l.k.entry % 2 ^ 57)) ∧ g.r.getS 1 = BitVec.ofNat 64 l.kaddr ∧
    g.r.getS 2 = BitVec.ofInt 64 (((l.affbase : Int) + b * l.affstride) % 2 ^ 57) ∧
    (∀ j, 3 ≤ j → g.r.getS j = 0) ∧ ∀ j k, g.r.getV j k = 0

/-! ### The shapes of results -/

/-- An 8-byte instruction that reads the s sources `srcs` has issued and written `v` to sD; a write of s0 is discarded
(R14). -/
def WritesS (s t : State) (srcs : List Nat) (d : BitVec 12) (v : BitVec 64) : Prop :=
  Issued s t srcs 8 ∧ OnlyS s.g.r t.g.r [d.toNat] ∧ t.g.r.getS d.toNat = if d = 0#12 then 0 else v

/-- It has written nD; a write of n0 is discarded (R14). -/
def WritesN (s t : State) (srcs : List Nat) (d : BitVec 12) (v : BitVec 15) : Prop :=
  Issued s t srcs 8 ∧ OnlyN s.g.r t.g.r d.toNat ∧ t.g.r.getN d.toNat = if d = 0#12 then 0 else v

/-- It has written a value of a type to vD in each active lane (R106). -/
def WritesV (s t : State) (srcs : List Nat) (g : BitVec 4) (ty : BitVec 4) (d : BitVec 12)
    (v : Nat → BitVec (widthOf ty)) : Prop :=
  Issued s t srcs 8 ∧ OnlyV s.g.r t.g.r (vRegs ty d.toNat) (s.g.r.active g) ∧
  ∀ l ∈ s.g.r.active g, t.g.r.holds ty d.toNat l (v l)

/-- It has written a bit of kD in each active lane; a write of k0 is discarded (R14). -/
def WritesK (s t : State) (srcs : List Nat) (g : BitVec 4) (d : BitVec 12) (v : Nat → Bool) : Prop :=
  Issued s t srcs 8 ∧ OnlyK s.g.r t.g.r d.toNat (s.g.r.active g) ∧
  ∀ l ∈ s.g.r.active g, (t.g.r.getK d.toNat).getLsbD l = (decide (d = 0#12) || v l)

end Sys2Proof.Machine
end

