-- ==== Sys2Proof/Certificates/Slice0/Obligations.lean ====
section
/-! DEFINITION. The statements about the machine. Each says which rule of the spec it formalises. A statement that
an instruction completes has as its conclusion that `exec` answers a next state. -/

open Sys2Proof Sys2Proof.Machine

/-- R91, R97, R98, R99, R40: the three-register scalar forms write their result, extended to 64 bits, to sD, and change
nothing else. -/
def Obligations.ScalarArithmetic : Prop :=
  (∀ mk op, (mk, op) ∈ [(Instr.add, IntOp.add), (.sub, .sub), (.mul, .mul), (.mulh, .mulh), (.div, .div), (.rem, .rem),
      (.and, .and), (.or, .or), (.xor, .xor), (.andn, .andn), (.min, .min), (.max, .max)] →
    ∀ (f : FR) (s : State), (mk f).wellFormed = true → s.Ready f.g [f.a.toNat, f.b.toNat] →
      ∃ t, exec (mk f) s = .next t ∧ WritesS s t [f.a.toNat, f.b.toNat] f.d
          (placed 64 (isSigned f.ty) (op.of (isSigned f.ty) (s.operand f.ty f.a) (s.operand f.ty f.b)))) ∧
  (∀ mk op, (mk, op) ∈ [(Instr.shl, ShiftOp.shl), (.shr, .shr), (.sar, .sar), (.rot, .rot)] →
    ∀ (f : FR) (s : State), (mk f).wellFormed = true → s.Ready f.g [f.a.toNat, f.b.toNat] →
      ∃ t, exec (mk f) s = .next t ∧ WritesS s t [f.a.toNat, f.b.toNat] f.d
          (placed 64 (isSigned f.ty) (op.of (s.operand f.ty f.a) (s.source f.b.toNat).toNat))) ∧
  (∀ (f : FR) (s : State), (Instr.set f).wellFormed = true → s.Ready f.g [f.a.toNat, f.b.toNat] →
      ∃ t, exec (.set f) s = .next t ∧ WritesS s t [f.a.toNat, f.b.toNat] f.d
          (if condOf f.min.toNat (isSigned f.ty) (s.operand f.ty f.a) (s.operand f.ty f.b) then 1 else 0))

/-- R100, R101, R102: the counts, the bit-field forms and SEL write their result to sD and change nothing else. The counts
are written unchanged; a field of width 0, or at or beyond the top, extracts as 0 and inserts nothing; a field that
passes the top is cut. -/
def Obligations.ScalarBitForms : Prop :=
  (∀ (f : FR) (s : State), s.Ready f.g [f.a.toNat] →
    ((Instr.clz f).wellFormed = true →
      ∃ t, exec (.clz f) s = .next t ∧ WritesS s t [f.a.toNat] f.d
          ((s.operand f.ty f.a).clz.setWidth 64)) ∧
    ((Instr.ctz f).wellFormed = true →
      ∃ t, exec (.ctz f) s = .next t ∧ WritesS s t [f.a.toNat] f.d
          ((s.operand f.ty f.a).ctz.setWidth 64)) ∧
    ((Instr.popc f).wellFormed = true →
      ∃ t, exec (.popc f) s = .next t ∧ WritesS s t [f.a.toNat] f.d
          (BitVec.ofNat 64 ((List.range (widthOf f.ty)).countP fun i => (s.operand f.ty f.a).getLsbD i)))) ∧
  (∀ (f : FQ) (s : State), s.Ready f.g [f.a.toNat, f.b.toNat, f.c.toNat] →
    ((Instr.bfx f).wellFormed = true →
      ∃ t, exec (.bfx f) s = .next t ∧ WritesS s t [f.a.toNat, f.b.toNat, f.c.toNat] f.d
          (placed 64 (isSigned f.ty)
          (extractField (isSigned f.ty) (s.operand f.ty f.a) (s.source f.b.toNat).toNat (s.source f.c.toNat).toNat))) ∧
    ((Instr.bfi f).wellFormed = true →
      ∃ t, exec (.bfi f) s = .next t ∧ WritesS s t [f.a.toNat, f.b.toNat, f.c.toNat] f.d
          (placed 64 (isSigned f.ty)
          (insertField ((s.g.r.getS f.d.toNat).setWidth (widthOf f.ty)) (s.operand f.ty f.a)
            (s.source f.b.toNat).toNat (s.source f.c.toNat).toNat))) ∧
    ((Instr.sel f).wellFormed = true →
      ∃ t, exec (.sel f) s = .next t ∧ WritesS s t [f.a.toNat, f.b.toNat, f.c.toNat] f.d
          (placed 64 (isSigned f.ty)
          (if s.operand f.ty f.c ≠ 0 then s.operand f.ty f.a else s.operand f.ty f.b))))

/-- R103, R104: the immediate and address forms. ADDI and LOGI take IMM20 sign-extended, SHI takes it as an amount; LIH
writes it times 2^12; ADDPC adds that to the instruction's address; NSET and NGET move a location. -/
def Obligations.ScalarImmediates : Prop :=
  (∀ (f : FI) (s : State), s.Ready f.g [f.a.toNat] →
    ((Instr.addi f).wellFormed = true →
      ∃ t, exec (.addi f) s = .next t ∧ WritesS s t [f.a.toNat] f.d
          (placed 64 (isSigned f.ty) (s.operand f.ty f.a + f.imm.signExtend (widthOf f.ty)))) ∧
    ((Instr.logi f).wellFormed = true →
      ∃ t, exec (.logi f) s = .next t ∧ WritesS s t [f.a.toNat] f.d
          (placed 64 (isSigned f.ty)
            (if f.min4 = 0#4 then s.operand f.ty f.a &&& f.imm.signExtend (widthOf f.ty)
             else if f.min4 = 1#4 then s.operand f.ty f.a ||| f.imm.signExtend (widthOf f.ty)
             else s.operand f.ty f.a ^^^ f.imm.signExtend (widthOf f.ty)))) ∧
    ((Instr.shi f).wellFormed = true →
      ∃ t, exec (.shi f) s = .next t ∧ WritesS s t [f.a.toNat] f.d
          (placed 64 (isSigned f.ty)
            (if f.min4 = 4#4 then s.operand f.ty f.a <<< f.imm.toNat
             else if f.min4 = 5#4 then s.operand f.ty f.a >>> f.imm.toNat
             else if f.min4 = 6#4 then (s.operand f.ty f.a).sshiftRight f.imm.toNat
             else (s.operand f.ty f.a).rotateLeft f.imm.toNat))) ∧
    ((Instr.nset f).wellFormed = true →
      ∃ t, exec (.nset f) s = .next t ∧ WritesN s t [f.a.toNat] f.d
          ((s.source f.a.toNat).setWidth 15 + f.imm.setWidth 15))) ∧
  (∀ (f : FI) (s : State), s.Ready f.g [] →
    ((Instr.lih f).wellFormed = true →
      ∃ t, exec (.lih f) s = .next t ∧ WritesS s t [] f.d
          (f.imm.signExtend 64 <<< 12)) ∧
    ((Instr.addpc f).wellFormed = true →
      ∃ t, exec (.addpc f) s = .next t ∧ WritesS s t [] f.d
          (BitVec.ofNat 64 s.pc + f.imm.signExtend 64 <<< 12)) ∧
    ((Instr.nget f).wellFormed = true →
      ∃ t, exec (.nget f) s = .next t ∧ WritesS s t [] f.d
          ((s.g.r.getN f.a.toNat).setWidth 64)))

/-- R105, R106, R97, R98, R40: the vector integer forms write their result in each active lane of vD and change nothing
else. -/
def Obligations.VectorArithmetic : Prop :=
  (∀ mk op, (mk, op) ∈ [(Instr.vadd, IntOp.add), (.vsub, .sub), (.vmul, .mul), (.vmulh, .mulh), (.vmin, .min),
      (.vmax, .max), (.vand, .and), (.vor, .or), (.vxor, .xor)] →
    ∀ (f : FR) (s : State), (mk f).wellFormed = true → s.ReadyV f.g [] →
      ∃ t, exec (mk f) s = .next t ∧ WritesV s t [] f.g f.ty f.d fun l =>
        op.of (isSigned f.ty) (s.g.r.value f.ty f.a.toNat l) (s.g.r.value f.ty f.b.toNat l)) ∧
  (∀ mk op, (mk, op) ∈ [(Instr.vshl, ShiftOp.shl), (.vshr, .shr), (.vsar, .sar)] →
    ∀ (f : FR) (s : State), (mk f).wellFormed = true → s.ReadyV f.g [] →
      ∃ t, exec (mk f) s = .next t ∧ WritesV s t [] f.g f.ty f.d fun l =>
        op.of (s.g.r.value f.ty f.a.toNat l) (s.g.r.getV f.b.toNat l).toNat) ∧
  (∀ (f : FQ) (s : State), (Instr.vmad f).wellFormed = true → s.ReadyV f.g [] →
      ∃ t, exec (.vmad f) s = .next t ∧ WritesV s t [] f.g f.ty f.d fun l =>
        s.g.r.value f.ty f.a.toNat l * s.g.r.value f.ty f.b.toNat l + s.g.r.value f.ty f.c.toNat l) ∧
  (∀ (f : FR) (s : State), (Instr.vabs f).wellFormed = true → s.ReadyV f.g [] →
      ∃ t, exec (.vabs f) s = .next t ∧ WritesV s t [] f.g f.ty f.d fun l => (s.g.r.value f.ty f.a.toNat l).abs) ∧
  (∀ (f : FR) (s : State), (Instr.vnot f).wellFormed = true → s.ReadyV f.g [] →
      ∃ t, exec (.vnot f) s = .next t ∧ WritesV s t [] f.g f.ty f.d fun l => ~~~(s.g.r.value f.ty f.a.toNat l))

/-- R100, R101, R105, R107, R108, R109: the vector bit, select, copy and dot forms, lane by lane. The counts write one v
register, a bit-field form takes its position and width from the lanes of B and C, VBCAST and VIOTA read s registers,
and VDOT4 adds four byte products to the lane of C. -/
def Obligations.VectorBitForms : Prop :=
  (∀ (f : FQ) (s : State), s.ReadyV f.g [] →
    ((Instr.vbfx f).wellFormed = true →
      ∃ t, exec (.vbfx f) s = .next t ∧ WritesV s t [] f.g f.ty f.d fun l =>
        extractField (isSigned f.ty) (s.g.r.value f.ty f.a.toNat l) (s.g.r.getV f.b.toNat l).toNat
          (s.g.r.getV f.c.toNat l).toNat) ∧
    ((Instr.vbfi f).wellFormed = true →
      ∃ t, exec (.vbfi f) s = .next t ∧ WritesV s t [] f.g f.ty f.d fun l =>
        insertField (s.g.r.value f.ty f.d.toNat l) (s.g.r.value f.ty f.a.toNat l) (s.g.r.getV f.b.toNat l).toNat
          (s.g.r.getV f.c.toNat l).toNat) ∧
    ((Instr.vsel f).wellFormed = true →
      ∃ t, exec (.vsel f) s = .next t ∧ WritesV s t [] f.g f.ty f.d fun l =>
        if (s.g.r.getK f.c.toNat).getLsbD l then s.g.r.value f.ty f.a.toNat l else s.g.r.value f.ty f.b.toNat l) ∧
    ((Instr.vdot4 f).wellFormed = true →
      ∃ t, exec (.vdot4 f) s = .next t ∧ WritesV s t [] f.g 4#4 f.d fun l =>
        let byte (reg i : Nat) : BitVec 32 := placed 32 (isSigned f.ty) ((s.g.r.getV reg l).extractLsb' (8 * i) 8)
        s.g.r.getV f.c.toNat l + byte f.a.toNat 0 * byte f.b.toNat 0 + byte f.a.toNat 1 * byte f.b.toNat 1 +
          byte f.a.toNat 2 * byte f.b.toNat 2 + byte f.a.toNat 3 * byte f.b.toNat 3)) ∧
  (∀ (f : FR) (s : State), s.ReadyV f.g [] →
    ((Instr.vclz f).wellFormed = true →
      ∃ t, exec (.vclz f) s = .next t ∧ WritesV s t [] f.g 5#4 f.d fun l =>
        (s.g.r.value f.ty f.a.toNat l).clz.setWidth 32) ∧
    ((Instr.vpopc f).wellFormed = true →
      ∃ t, exec (.vpopc f) s = .next t ∧ WritesV s t [] f.g 5#4 f.d fun l =>
        BitVec.ofNat 32 ((List.range (widthOf f.ty)).countP fun i => (s.g.r.value f.ty f.a.toNat l).getLsbD i)) ∧
    ((Instr.vmov f).wellFormed = true →
      ∃ t, exec (.vmov f) s = .next t ∧ WritesV s t [] f.g f.ty f.d fun l => s.g.r.value f.ty f.a.toNat l) ∧
    ((Instr.vcmp f).wellFormed = true →
      ∃ t, exec (.vcmp f) s = .next t ∧ WritesK s t [] f.g f.d fun l =>
        condOf f.min.toNat (isSigned f.ty) (s.g.r.value f.ty f.a.toNat l) (s.g.r.value f.ty f.b.toNat l))) ∧
  (∀ (f : FR) (s : State), (Instr.vbcast f).wellFormed = true → s.ReadyV f.g [f.a.toNat] →
      ∃ t, exec (.vbcast f) s = .next t ∧ WritesV s t [f.a.toNat] f.g f.ty f.d fun _ => s.operand f.ty f.a) ∧
  (∀ (f : FR) (s : State), (Instr.viota f).wellFormed = true → s.ReadyV f.g [f.a.toNat, f.b.toNat] →
      ∃ t, exec (.viota f) s = .next t ∧ WritesV s t [f.a.toNat, f.b.toNat] f.g 5#4 f.d fun l =>
        (s.source f.a.toNat).setWidth 32 + BitVec.ofNat 32 l * (s.source f.b.toNat).setWidth 32)

/-- R110: KOP combines predicate registers in the active lanes, KMOV.toS copies all 32 bits to sD and KMOV.fromS the
active lanes' bits to kD. -/
def Obligations.PredicateForms : Prop :=
  ∀ (f : FR) (s : State),
    ((Instr.kop f).wellFormed = true → s.ReadyV f.g [] →
      ∃ t, exec (.kop f) s = .next t ∧ WritesK s t [] f.g f.d fun l =>
        let a := (s.g.r.getK f.a.toNat).getLsbD l
        let b := (s.g.r.getK f.b.toNat).getLsbD l
        if f.min = 0#8 then a && b else if f.min = 1#8 then a || b else if f.min = 2#8 then a != b
        else if f.min = 3#8 then a && !b else !a) ∧
    ((Instr.kmovTos f).wellFormed = true → s.Ready f.g [] →
      ∃ t, exec (.kmovTos f) s = .next t ∧ WritesS s t [] f.d ((s.g.r.getK f.a.toNat).setWidth 64)) ∧
    ((Instr.kmovFroms f).wellFormed = true → s.ReadyV f.g [f.a.toNat] →
      ∃ t, exec (.kmovFroms f) s = .next t ∧ WritesK s t [f.a.toNat] f.g f.d fun l =>
        (s.source f.a.toNat).getLsbD l) ∧
    (let illop (w : BitVec 64) : Prop := decodeWords w 0#64 = .unassignedEncoding w 0#64 ∧
        ∃ t, exec (.unassignedEncoding w 0#64) s = .next t ∧ Faulted s t { cause := .illop, va := 0, aux := 0 } s.pc
     (5 ≤ f.min.toNat ∨ (f.min = 4#8 ∧ f.b ≠ 0#12) → illop (f.toWord 0x2E#8)) ∧
     (2 ≤ f.min.toNat → illop (f.toWord 0x2F#8)))

/-- R111, R112, R42: VFADD, VFSUB, VFMUL, VFDIV, VFMA and VFSQRT write, in each active lane, the exact result rounded once
by RNE; a NaN result is the canonical NaN. -/
def Obligations.FloatArithmetic : Prop :=
  (∀ mk op, (mk, op) ∈ [(Instr.vfadd, Sys2Proof.Num.add), (.vfsub, Sys2Proof.Num.sub), (.vfmul, Sys2Proof.Num.mul), (.vfdiv, Sys2Proof.Num.div)] →
    ∀ (f : FR) (s : State), (mk f).wellFormed = true → s.ReadyV f.g [] →
      ∃ t, exec (mk f) s = .next t ∧ WritesV s t [] f.g f.ty f.d fun l =>
        roundTo f.ty .rne (op (exactOf f.ty (s.g.r.value f.ty f.a.toNat l)) (exactOf f.ty (s.g.r.value f.ty f.b.toNat l)))) ∧
  (∀ (f : FQ) (s : State), (Instr.vfma f).wellFormed = true → s.ReadyV f.g [] →
      ∃ t, exec (.vfma f) s = .next t ∧ WritesV s t [] f.g f.ty f.d fun l =>
        roundTo f.ty .rne (Sys2Proof.Num.add
          (Sys2Proof.Num.mul (exactOf f.ty (s.g.r.value f.ty f.a.toNat l)) (exactOf f.ty (s.g.r.value f.ty f.b.toNat l)))
          (exactOf f.ty (s.g.r.value f.ty f.c.toNat l)))) ∧
  (∀ (f : FR) (s : State), (Instr.vfsqrt f).wellFormed = true → s.ReadyV f.g [] →
      ∃ t, exec (.vfsqrt f) s = .next t ∧ WritesV s t [] f.g f.ty f.d fun l =>
        roundTo f.ty .rne (Sys2Proof.Num.sqrt (exactOf f.ty (s.g.r.value f.ty f.a.toNat l))))

/-- R112, R113: VFMIN and VFMAX give the canonical NaN or the other operand for a NaN, as the minor says, and else copy
the bits of the smaller or larger operand with −0 below +0; VFCMP writes its condition to the active lanes' bits of
kD. -/
def Obligations.FloatSelectAndCompare : Prop :=
  (∀ mk big, (mk, big) ∈ [(Instr.vfmin, false), (.vfmax, true)] →
    ∀ (f : FR) (s : State), (mk f).wellFormed = true → s.ReadyV f.g [] →
      ∃ t v, exec (mk f) s = .next t ∧ WritesV s t [] f.g f.ty f.d v ∧ ∀ l ∈ s.g.r.active f.g,
        let a := s.g.r.value f.ty f.a.toNat l
        let b := s.g.r.value f.ty f.b.toNat l
        let x := exactOf f.ty a
        let y := exactOf f.ty b
        (IsNan x → IsNan y → v l = roundTo f.ty .rne .nan) ∧
        (IsNan x → ¬ IsNan y → v l = if f.min = 1#8 then b else roundTo f.ty .rne .nan) ∧
        (¬ IsNan x → IsNan y → v l = if f.min = 1#8 then a else roundTo f.ty .rne .nan) ∧
        (¬ IsNan x → ¬ IsNan y → (v l = a ∨ v l = b) ∧
          (∀ c, Sys2Proof.Num.cmp x y = some c → c < 0 → v l = if big then b else a) ∧
          (∀ c, Sys2Proof.Num.cmp x y = some c → 0 < c → v l = if big then a else b) ∧
          (∀ e e', x = .fin true 0 e → y = .fin false 0 e' → v l = if big then b else a) ∧
          (∀ e e', x = .fin false 0 e → y = .fin true 0 e' → v l = if big then a else b))) ∧
  (∀ (f : FR) (s : State), (Instr.vfcmp f).wellFormed = true → s.ReadyV f.g [] →
      ∃ t, exec (.vfcmp f) s = .next t ∧ WritesK s t [] f.g f.d fun l =>
        match f.min.toNat, Sys2Proof.Num.cmp (exactOf f.ty (s.g.r.value f.ty f.a.toNat l))
            (exactOf f.ty (s.g.r.value f.ty f.b.toNat l)) with
        | 0, some c => c == 0
        | 1, some c => c != 0
        | 2, some c => decide (c < 0)
        | 3, some c => decide (c ≤ 0)
        | 4, some c => decide (0 < c)
        | 5, some c => decide (0 ≤ c)
        | 6, some _ => false
        | _, some _ => true
        | 1, none => true
        | 6, none => true
        | _, none => false)

/-- R114, R115: the seven functions write one v register in each active lane, with the results of R114 at zeros,
infinities, NaNs and the negative inputs of VRSQ and VLOG2. R116, R117, R118, R119, R120: VROUND rounds to an integral
value and keeps a zero's sign; VCVT decodes the source and rounds it to the destination in the direction of RM, an A64
value having the anchor of bits [15:0] of sB; VPACK and VUNPACK convert packed elements; VSCALE multiplies by a power
of two before one rounding. -/
def Obligations.FunctionAndConversionForms : Prop :=
  (∀ mk special, (mk, special) ∈ [(Instr.vrcp, specialRcp), (.vrsq, specialRsq), (.vexp2, specialExp2),
        (.vlog2, specialLog2), (.vsin, specialSin), (.vcos, specialCos), (.vtanh, specialTanh)] →
      ∀ (f : FR) (s : State), (mk f).wellFormed = true → s.ReadyV f.g [] →
        ∃ t v, exec (mk f) s = .next t ∧ WritesV s t [] f.g f.ty f.d v ∧ ∀ l ∈ s.g.r.active f.g,
          ∀ y, special (exactOf f.ty (s.g.r.value f.ty f.a.toNat l)) = some y → v l = roundTo f.ty .rne y) ∧
  ((∀ (f : FR) (s : State), s.ReadyV f.g [] →
      ((Instr.vround f).wellFormed = true →
        ∃ t, exec (.vround f) s = .next t ∧ WritesV s t [] f.g f.ty f.d fun l =>
          match exactOf f.ty (s.g.r.value f.ty f.a.toNat l) with
          | .fin n m e => roundTo f.ty .rne (.fin n (Sys2Proof.Num.roundMag
              (if f.min = 0#8 then .rne else direction f.min.toNat f.ty false) n m e) 0)
          | x => roundTo f.ty .rne x) ∧
      ((Instr.vscale f).wellFormed = true →
        ∃ t, exec (.vscale f) s = .next t ∧ WritesV s t [] f.g f.ty f.d fun l =>
          match exactOf f.ty (s.g.r.value f.ty f.a.toNat l) with
          | .fin n m e => roundTo f.ty .rne (.fin n m (e + max (-5000) (min 5000 (s.g.r.getV f.b.toNat l).toInt)))
          | x => roundTo f.ty .rne x) ∧
      ((Instr.vunpack f).wellFormed = true →
        let src : BitVec 4 := f.min.extractLsb' 4 4
        let w := if widthOf src = 16 then 16 else 8
        let j := (f.min.extractLsb' 2 2).toNat
        ∃ t, exec (.vunpack f) s = .next t ∧ WritesV s t [] f.g f.ty f.d fun l =>
          roundTo f.ty (direction 0 f.ty (decide (src.toNat ≤ 7)))
            (exactOf src (((s.g.r.getV f.a.toNat l).extractLsb' (w * j) w).setWidth _))) ∧
      ((Instr.vpack f).wellFormed = true →
        let src : BitVec 4 := f.min.extractLsb' 4 4
        let e (x : BitVec (widthOf src)) : BitVec 32 :=
          if src = f.ty then x.setWidth 32
          else (roundTo f.ty (direction (f.min.toNat % 8) f.ty (decide (src.toNat ≤ 7))) (exactOf src x)).setWidth 32
        ∃ t, exec (.vpack f) s = .next t ∧ WritesV s t [] f.g 5#4 f.d fun l =>
          let ea := e (s.g.r.value src f.a.toNat l)
          let eb := e (s.g.r.value src f.b.toNat l)
          if widthOf f.ty = 16 then ea + (eb <<< 16)
          else if f.min.getLsbD 3 = false then ea + (eb <<< 8)
          else ((s.g.r.getV f.d.toNat l) &&& 0xFFFF#32) + (ea <<< 16) + (eb <<< 24))) ∧
    (∀ (f : FR) (s : State), (Instr.vcvt f).wellFormed = true →
        let src : BitVec 4 := f.min.extractLsb' 4 4
        let srcs := if f.ty = 14#4 ∨ src = 14#4 then [f.b.toNat] else []
        s.ReadyV f.g srcs →
        ∃ t, exec (.vcvt f) s = .next t ∧ WritesV s t srcs f.g f.ty f.d fun l =>
          let anchor : Int := if f.ty = 14#4 ∨ src = 14#4 then ((s.source f.b.toNat).setWidth 16).toInt else 0
          BitVec.ofNat _ (Sys2Proof.Num.encodeTy f.ty.toNat anchor 64
            (direction (f.min.toNat % 8) f.ty (decide (src.toNat ≤ 7))) false
            (Sys2Proof.Num.decodeTy src.toNat anchor 64 (s.g.r.value src f.a.toNat l).toNat))))

/-- R121 to R126: VPERM and VSHFL gather from all 32 lanes of A, VRED and VSCAN reduce the active lanes, and VVOTE writes
one scalar from the active lanes. -/
def Obligations.LaneForms : Prop :=
  (∀ (f : FR) (s : State), s.Ready f.g [] →
    ((Instr.vperm f).wellFormed = true → s.laneDiffs (s.g.r.active f.g) = [] →
      ∃ t, exec (.vperm f) s = .next t ∧ WritesV s t [] f.g f.ty f.d fun l =>
        s.g.r.value f.ty f.a.toNat ((s.g.r.getV f.b.toNat l).toNat % 32)) ∧
    ((Instr.vred f).wellFormed = true → s.laneDiffs (s.g.r.active f.g) = [] →
      ∃ t v, exec (.vred f) s = .next t ∧ WritesV s t [] f.g f.ty f.d (fun _ => v) ∧
        ReducesTo f.ty f.min.toNat ((s.g.r.active f.g).map fun l => s.g.r.value f.ty f.a.toNat l) v) ∧
    ((Instr.vscan f).wellFormed = true → s.laneDiffs (s.g.r.active f.g) = [] →
      ∃ t v, exec (.vscan f) s = .next t ∧ WritesV s t [] f.g f.ty f.d v ∧ ∀ l ∈ s.g.r.active f.g,
        ReducesTo f.ty f.min.toNat
          (((s.g.r.active f.g).filter fun j => decide (j ≤ l)).map fun j => s.g.r.value f.ty f.a.toNat j) (v l)) ∧
    ((Instr.vvote f).wellFormed = true →
      ∃ t v, exec (.vvote f) s = .next t ∧ WritesS s t [] f.d v ∧
        (f.min = 0#8 → ∀ l, v.getLsbD l =
          (decide (l < 32 ∧ l ∈ s.g.r.active f.g) && (s.g.r.getK f.a.toNat).getLsbD l)) ∧
        (f.min = 1#8 → v = if ∃ l ∈ s.g.r.active f.g, (s.g.r.getK f.a.toNat).getLsbD l = true then 1 else 0) ∧
        (f.min = 2#8 → v = if ∀ l ∈ s.g.r.active f.g, (s.g.r.getK f.a.toNat).getLsbD l = true then 1 else 0) ∧
        (f.min = 3#8 → v = if ∀ l ∈ s.g.r.active f.g, ∀ m ∈ s.g.r.active f.g,
          s.g.r.getV f.a.toNat l = s.g.r.getV f.a.toNat m then 1 else 0))) ∧
  (∀ (f : FR) (s : State), (Instr.vshfl f).wellFormed = true → s.ReadyV f.g [f.b.toNat] →
      ∃ t, exec (.vshfl f) s = .next t ∧ WritesV s t [f.b.toNat] f.g f.ty f.d fun l =>
        let b := (s.source f.b.toNat).toNat
        let j : Int := if f.min = 0#8 then (l : Int) - b else if f.min = 1#8 then (l : Int) + b else ((l ^^^ b : Nat) : Int)
        s.g.r.value f.ty f.a.toNat (if 0 ≤ j ∧ j ≤ 31 then j.toNat else l))

/-- R127: VPART writes the elements of the active lanes, those with the predicate's bit first, to lanes 0 to n − 1 of D,
and their true count to sB. R75: a pair completes: it issues as one instruction of 16 bytes under its header's guard.
Its vector half changes the registers just as its own instruction does under that guard, its scalar half writes the
value of its major, and both read their sources as they stood before the pair. -/
def Obligations.PartitionAndPairForms : Prop :=
  (∀ (f : FR) (s : State), (Instr.vpart f).wellFormed = true → s.Ready f.g [] →
      let act := s.g.r.active f.g
      let k := s.g.r.getK f.min.toNat
      let order := (act.filter fun l => k.getLsbD l) ++ (act.filter fun l => !k.getLsbD l)
      ∃ t, exec (.vpart f) s = .next t ∧ Issued s t [] 8 ∧
        t.g.r = { s.g.r with pcv := t.g.r.pcv, v := t.g.r.v, s := t.g.r.s } ∧
        (∀ j (h : j < order.length), t.g.r.getV f.d.toNat j = s.g.r.getV f.a.toNat order[j]) ∧
        (∀ i l, l < 32 → (i ≠ f.d.toNat ∨ order.length ≤ l) → t.g.r.getV i l = s.g.r.getV i l) ∧
        (∀ i, i ≠ f.b.toNat → t.g.r.getS i = s.g.r.getS i) ∧
        t.g.r.getS f.b.toNat = if f.b = 0#12 then 0 else BitVec.ofNat 64 (act.countP fun l => k.getLsbD l)) ∧
  (∀ (p : PairHead) (v : BitVec 64) (s : State) i srcs e, (Instr.pair p v).legal = true → rawDecode v 0#64 = some i →
      vecHalf i = some (srcs, e) →
      let all := [p.a.toNat] ++ (if p.i = 1#1 then [] else [p.b.toNat]) ++ srcs
      let b := if p.i = 1#1 then p.b.signExtend 64 else s.source p.b.toNat
      s.Ready p.g all → (halfChecked i = true → s.laneDiffs (s.g.r.active p.g) = []) →
      ∃ t u, exec (.pair p v) s = .next t ∧ exec (underGuard p.g i) s = .next u ∧ Issued s u srcs 8 ∧
        Issued s t all 16 ∧ t.g.r = { u.g.r with pcv := t.g.r.pcv, s := t.g.r.s } ∧
        (∀ j, j ≠ p.d.toNat → t.g.r.getS j = u.g.r.getS j) ∧
        t.g.r.getS p.d.toNat = if p.d = 0#12 then 0 else sopValue p.sop p.ty (s.source p.a.toNat) b)

/-- R11, R66: an instruction with no active lane has no effect but to move every lane that took part to its successor.
Named here are the word instructions whose issue reads a guard and asks for no supervisor access. -/
def Obligations.NoActiveLane : Prop :=
  (∀ mk, mk ∈ [Instr.add, .sub, .mul, .mulh, .div, .rem, .and, .or, .xor, .andn, .shl, .shr, .sar, .rot, .min, .max,
      .set, .clz, .ctz, .popc, .vadd, .vsub, .vmul, .vmulh, .vmin, .vmax, .vabs, .vand, .vor, .vxor, .vnot, .vshl,
      .vshr, .vsar, .vclz, .vpopc, .vcmp, .vmov, .vbcast, .viota, .kop, .kmovTos, .kmovFroms, .vfadd, .vfsub, .vfmul,
      .vfmin, .vfmax, .vfcmp, .vfdiv, .vfsqrt, .vrcp, .vrsq, .vexp2, .vlog2, .vsin, .vcos, .vtanh, .vround, .vcvt,
      .vpack, .vunpack, .vscale, .vperm, .vshfl, .vred, .vscan, .vvote, .vpart, .jmpi, .calli, .ret, .exit, .yield,
      .nop, .tret, .icinv, .synci, .send] →
    ∀ (f : FR) (s : State), s.g.r.active f.g = [] →
      ∃ t, exec (mk f) s = .next t ∧ Issued s t [] 8 ∧ OnlyPc s.g.r t.g.r) ∧
  (∀ mk, mk ∈ [Instr.bfx, .bfi, .sel, .vmad, .vbfx, .vbfi, .vsel, .vdot4, .vfma] →
    ∀ (f : FQ) (s : State), s.g.r.active f.g = [] →
      ∃ t, exec (mk f) s = .next t ∧ Issued s t [] 8 ∧ OnlyPc s.g.r t.g.r) ∧
  (∀ mk, mk ∈ [Instr.addi, .logi, .shi, .lih, .addpc, .nset, .nget, .waitt, .trap, .bkpt, .svcVersion, .svcAbort,
      .svcPrivsize, .svcDebugged, .svcSleep, .svcUnknown, .qbind, .qbindUn, .pmark] →
    ∀ (f : FI) (s : State), s.g.r.active f.g = [] →
      ∃ t, exec (mk f) s = .next t ∧ Issued s t [] 8 ∧ OnlyPc s.g.r t.g.r) ∧
  (∀ mk, mk ∈ [Instr.br, .brc, .brk, .call, .loop, .lbrk] →
    ∀ (f : FB) (s : State), s.g.r.active f.g = [] →
      ∃ t, exec (mk f) s = .next t ∧ Issued s t [] 8 ∧ OnlyPc s.g.r t.g.r)

/-- R157, R158, R159, R161: BR, BRC, BRK, LOOP and LBRK complete. BR, BRC, LOOP and LBRK move every lane that took part to
one target, 8 times the offset from their own address, or to the successor; BRK moves the active lanes whose predicate
bit matches its minor. -/
def Obligations.OffsetTransfers : Prop :=
  ∀ (f : FB) (s : State),
    let target : Int := s.pc + 8 * f.off.toInt
    let next := (s.pc + 8) % 2 ^ 57
    0 ≤ target → target ≤ 2 ^ 57 - 8 →
    ((Instr.br f).wellFormed = true → s.Ready f.g [] →
      ∃ t, exec (.br f) s = .next t ∧ Transferred s t [] (fun _ => target.toNat) ∧ OnlyPc s.g.r t.g.r) ∧
    ((Instr.brc f).wellFormed = true → s.Ready f.g [f.a.toNat] →
      let a := (s.source f.a.toNat).toInt
      let go : Prop := match f.min.toNat with | 0 => a = 0 | 1 => a ≠ 0 | 2 => a < 0 | _ => 0 ≤ a
      ∃ t, exec (.brc f) s = .next t ∧ OnlyPc s.g.r t.g.r ∧
        (go → Transferred s t [f.a.toNat] fun _ => target.toNat) ∧
        (¬ go → Transferred s t [f.a.toNat] fun _ => next)) ∧
    ((Instr.brk f).wellFormed = true → s.Ready f.g [] →
      ∃ t, exec (.brk f) s = .next t ∧ OnlyPc s.g.r t.g.r ∧ Transferred s t [] fun l =>
        if l ∈ s.g.r.active f.g ∧ (s.g.r.getK f.a.toNat).getLsbD l = decide (f.min = 0#8) then target.toNat
        else next) ∧
    ((Instr.loop f).wellFormed = true → s.Ready f.g [] →
      ∃ t, exec (.loop f) s = .next t ∧ t.g.r = { s.g.r with pcv := t.g.r.pcv, lc := t.g.r.lc } ∧
        (∀ i, i ≠ f.a.toNat → t.g.r.getLc i = s.g.r.getLc i) ∧
        (1 < (s.g.r.getLc f.a.toNat).toNat → t.g.r.getLc f.a.toNat = s.g.r.getLc f.a.toNat - 1 ∧
          Transferred s t [] fun _ => target.toNat) ∧
        ((s.g.r.getLc f.a.toNat).toNat ≤ 1 → t.g.r.getLc f.a.toNat = 0 ∧ Transferred s t [] fun _ => next)) ∧
    ((Instr.lbrk f).wellFormed = true → s.Ready f.g [] →
      ∃ t, exec (.lbrk f) s = .next t ∧ t.g.r = { s.g.r with pcv := t.g.r.pcv, lc := t.g.r.lc } ∧
        (∀ i, i ≠ f.a.toNat → t.g.r.getLc i = s.g.r.getLc i) ∧ t.g.r.getLc f.a.toNat = 0 ∧
        Transferred s t [] fun _ => target.toNat)

/-- R157, R160: JMPI, CALL, CALLI and RET complete: they move each active lane to its target, and every other lane that
took part to the successor. A register target is the s register of minor 0 or the lane's pair of minor 1; a call
writes the successor's address into the link pair of each active lane. -/
def Obligations.RegisterTransfers : Prop :=
  (∀ (f : FR) (s : State),
    let srcs := if f.min = 0#8 then [f.a.toNat] else []
    let target (l : Nat) : BitVec 64 := if f.min = 1#8 then s.g.r.getV64 f.a.toNat l else s.source f.a.toNat
    let ok (x : BitVec 64) : Prop := x.toNat ≤ 2 ^ 57 - 8 ∧ x.toNat % 8 = 0
    let next := (s.pc + 8) % 2 ^ 57
    let dest (l : Nat) : Nat := if l ∈ s.g.r.active f.g then (target l).toNat else next
    ((Instr.jmpi f).wellFormed = true → s.Ready f.g srcs → (∀ l ∈ s.g.r.active f.g, ok (target l)) →
      ∃ t, exec (.jmpi f) s = .next t ∧ Transferred s t srcs dest ∧ OnlyPc s.g.r t.g.r) ∧
    ((Instr.calli f).wellFormed = true → s.Ready f.g srcs → (∀ l ∈ s.g.r.active f.g, ok (target l)) →
      ∃ t, exec (.calli f) s = .next t ∧ Transferred s t srcs dest ∧
        OnlyV s.g.r t.g.r [f.d.toNat, f.d.toNat + 1] (s.g.r.active f.g) ∧
        ∀ l ∈ s.g.r.active f.g, t.g.r.getV64 f.d.toNat l = BitVec.ofNat 64 (s.pc + 8)) ∧
    ((Instr.ret f).wellFormed = true → s.Ready f.g [] →
      (∀ l ∈ s.g.r.active f.g, ok (s.g.r.getV64 f.a.toNat l)) →
      ∃ t, exec (.ret f) s = .next t ∧ OnlyPc s.g.r t.g.r ∧ Transferred s t [] fun l =>
        if l ∈ s.g.r.active f.g then (s.g.r.getV64 f.a.toNat l).toNat else next)) ∧
  (∀ (f : FB) (s : State), (Instr.call f).wellFormed = true → s.Ready f.g [] →
    let target : Int := s.pc + 8 * f.off.toInt
    0 ≤ target → target ≤ 2 ^ 57 - 8 →
    ∃ t, exec (.call f) s = .next t ∧ OnlyV s.g.r t.g.r [f.a.toNat, f.a.toNat + 1] (s.g.r.active f.g) ∧
      (∀ l ∈ s.g.r.active f.g, t.g.r.getV64 f.a.toNat l = BitVec.ofNat 64 (s.pc + 8)) ∧
      Transferred s t [] fun l => if l ∈ s.g.r.active f.g then target.toNat else (s.pc + 8) % 2 ^ 57)

/-- R10, R162: an EXIT that leaves another lane live marks the active lanes as exited at its address and moves the other
lanes that took part on. An EXIT of all live lanes waits while work of the group is outstanding; with none outstanding
and a fault held it raises that fault, which leaves the token of its work; with nothing outstanding and no fault held
it ends the group. While another group of its block has not ended the group stands there, exited; the last group's
EXIT ends the block, which leaves its core and counts for its launch, whose last block completes it. -/
def Obligations.ExitForms : Prop :=
  ∀ (f : FR) (s : State), (Instr.exit f).wellFormed = true → s.Ready f.g [] →
    ((∃ l ∈ s.g.r.live, l ∉ s.g.r.active f.g) →
      ∃ t, exec (.exit f) s = .next t ∧ GroupKept s t ∧ t = { s with g := t.g } ∧ OnlyPc s.g.r t.g.r ∧
        (∀ l ∈ s.g.r.active f.g, t.g.r.getPcv l = BitVec.ofNat 64 (2 ^ 63 + s.pc % 2 ^ 57)) ∧
        (∀ l ∈ s.g.r.taking, l ∉ s.g.r.active f.g → t.g.r.getPcv l = BitVec.ofNat 64 ((s.pc + 8) % 2 ^ 57)) ∧
        (∀ l, l ∉ s.g.r.taking → t.g.r.getPcv l = s.g.r.getPcv l)) ∧
    ((∀ l ∈ s.g.r.live, l ∈ s.g.r.active f.g) → s.undrained = false → s.g.held = [] →
      (∃ x ∈ s.others, x.p.id.launch = s.g.p.id.launch ∧ x.p.id.block = s.g.p.id.block ∧ x.ended = false ∧
        x.present = true) →
      ∃ t, exec (.exit f) s = .next t ∧ t.g.ended = true ∧ t.g.stall = .exited ∧ t.g.pend = .idle ∧ t.g.qbind = [] ∧
        t.g.arr = ArraySt.new ∧ OnlyPc s.g.r t.g.r ∧ MemoryKept s t ∧
        ∀ l ∈ s.g.r.active f.g, t.g.r.getPcv l = BitVec.ofNat 64 (2 ^ 63 + s.pc % 2 ^ 57)) ∧
    ((∀ l ∈ s.g.r.live, l ∈ s.g.r.active f.g) →
      ((∃ k, k < 16 ∧ 0 < s.g.busy k) ∨ (∃ x ∈ s.g.recs, x.2.state = 1) ∨ s.g.sends ≠ [] ∨
        (∃ j ∈ s.jobs, j.who = s.g.p.id ∧ ∃ off src n, j.kind = .bpf (.barrier off) src n) →
        exec (.exit f) s = .next (s.waiting .token)) ∧
      (∀ h, s.undrained = false → s.g.held = [h] →
        let r := match h.token with
          | some k => if h.release then s.g.r.setTok k (s.g.r.getTok k - 1) else s.g.r
          | none => s.g.r
        ∃ t, exec (.exit f) s = .next t ∧ Faulted { s with g := { s.g with held := [], r := r } } t h.trap s.pc) ∧
      (∀ l, s.undrained = false → s.g.held = [] → s.g.present = true →
        let id := s.g.p.id.launch
        let block := s.g.p.id.block
        (∀ x ∈ s.others, x.p.id.launch = id → x.p.id.block = block → x.ended = true) →
        s.launches.find? (fun x => x.id == id) = some l →
        ∃ t e, exec (.exit f) s = .next t ∧ t.g.present = false ∧ t.g.ended = true ∧
          (∀ x ∈ t.others, x.p.id.launch = id → x.p.id.block ≠ block) ∧
          (∀ x ∈ t.blocks, x.launch = id → x.block ≠ block) ∧
          t.launches = s.launches.map (fun x => if x.id = id then
            { x with ended := x.ended + 1
                     runs := x.runs.map fun y => if y.index = block then
                       { y with stat := .ended, preempt := .none, energy := e } else y } else x) ∧
          (l.ended + 1 = l.count → .launchComplete id ∈ t.agenda)))

/-- R163, R164, R165, R182: NOP, and WAITT once no fault is held and every token of its mask is at or below the count,
only advance; YIELD marks the group as yielding besides; a WAITT whose tokens are above the count waits, and one that
finds a fault of its tokens held raises it; the hints advance whatever their bits say. R130, R137, R153, R330: PLD,
CWB and CINV complete and change no value but the A bits that the walks of their addresses outside the windows set,
whether those can be translated or not; a FENCE completes and has nothing left to order where accesses are performed
in order. Each moves its lanes on and changes no other register. -/
def Obligations.WaitingForms : Prop :=
  ((∀ (f : FR) (s : State), s.Ready f.g [] →
      ((Instr.nop f).wellFormed = true →
        ∃ t, exec (.nop f) s = .next t ∧ Issued s t [] 8 ∧ OnlyPc s.g.r t.g.r) ∧
      decodeWords 0x6C00000000000000#64 0#64 = .nop ⟨0, 0, 0, 0, 0, 0, 0⟩ ∧
      ((Instr.yield f).wellFormed = true →
        ∃ t, exec (.yield f) s = .next t ∧ Completed s { s with g := { s.g with yielded := true } } t [] 8)) ∧
    (∀ (f : FI) (s : State), (Instr.waitt f).wellFormed = true → s.Ready f.g [] → s.g.held = [] →
      ((∀ k, k < 16 → f.imm.getLsbD k = true → s.g.r.getTok k ≤ f.imm.toNat / 2 ^ 16) →
        ∃ t, exec (.waitt f) s = .next t ∧ Issued s t [] 8 ∧ OnlyPc s.g.r t.g.r) ∧
      ((∃ k, k < 16 ∧ f.imm.getLsbD k = true ∧ f.imm.toNat / 2 ^ 16 < s.g.r.getTok k) →
        exec (.waitt f) s = .next (s.waiting .token))) ∧
    (∀ (f : FI) (s : State) h, (Instr.waitt f).wellFormed = true → s.Ready f.g [] → s.g.held = [h] →
      (∀ k, h.token = some k → f.imm.getLsbD k = true) →
      let r := match h.token with
        | some k => if h.release then s.g.r.setTok k (s.g.r.getTok k - 1) else s.g.r
        | none => s.g.r
      ∃ t, exec (.waitt f) s = .next t ∧ Faulted { s with g := { s.g with held := [], r := r } } t h.trap s.pc) ∧
    (∀ (body : BitVec 56) (op : BitVec 8) (s : State),
      (∃ t, exec (.hpf body) s = .next t ∧ Issued s t [] 8 ∧ OnlyPc s.g.r t.g.r) ∧
      (∃ t, exec (.hbr body) s = .next t ∧ Issued s t [] 8 ∧ OnlyPc s.g.r t.g.r) ∧
      (∃ t, exec (.hhot op body) s = .next t ∧ Issued s t [] 8 ∧ OnlyPc s.g.r t.g.r))) ∧
  ((∀ (f : FM) (s : State),
      let acc (off : Int) (l : Nat) : Acc :=
        mkAcc s l (s.g.r.getN f.n.toNat) (s.source f.a.toNat) off 1 true false f.c.toNat
      let outside (a : Acc) : Bool := match a.addr with | some x => decide (localOf x < winPrivate) | none => false
      let walked (off : Nat → Int) : State :=
        s.touchAll (((s.g.r.active f.g).map fun l => acc (off l) l).filter outside)
      ((Instr.pld f).wellFormed = true → s.Ready f.g [f.a.toNat] →
        ∃ t, exec (.pld f) s = .next t ∧ OnlyPc s.g.r t.g.r ∧
          Completed s (walked fun l => vIndex f 1 s.g.r l) t [f.a.toNat] 8) ∧
      (∀ mk, mk ∈ [Instr.cwb, .cinv] → (mk f).wellFormed = true → s.Ready f.g ([f.a.toNat] ++ xSrc f) →
        ∃ t, exec (mk f) s = .next t ∧ OnlyPc s.g.r t.g.r ∧
          Completed s (walked fun _ => sIndex f 1 s.source) t ([f.a.toNat] ++ xSrc f) 8)) ∧
    (∀ (f : FR) (w : W1) (s : State), (Instr.fence f w).wellFormed = true → s.Ready f.g [] →
        ∃ t, exec (.fence f w) s = .next t ∧ Issued s t [] 16 ∧ OnlyPc s.g.r t.g.r))

/-- R20, R167: SRD of %lane writes each active lane's index to vD, SRD of %pcv writes all lanes' program counters to vD,
and every other selector's value goes to sD; %xctx is read in supervisor mode. Each value is the one that R20 gives
the selector. R168, R31: SWR writes the low bits of sA to a loop counter, to %fmtbase or, in supervisor mode, to
%xctx; to %mode it writes lane check alone. Nothing else of the machine changes. -/
def Obligations.SpecialRegisters : Prop :=
  (∀ (f : FI) (s : State), (Instr.srd f).wellFormed = true → s.Ready f.g [] →
      (f.imm.toNat = 0 →
        ∃ t, exec (.srd f) s = .next t ∧ WritesV s t [] f.g 5#4 f.d fun l => BitVec.ofNat _ l) ∧
      (f.imm.toNat = 0x51 →
        ∃ t, exec (.srd f) s = .next t ∧ Issued s t [] 8 ∧
          OnlyV s.g.r t.g.r [f.d.toNat, f.d.toNat + 1] (List.range 32) ∧
          ∀ l, l < 32 → t.g.r.getV64 f.d.toNat l = s.g.r.getPcv l) ∧
      (∀ sel (v : BitVec 64), (sel, v) ∈ [
          (0x01, BitVec.ofNat 64 s.g.p.id.group), (0x02, BitVec.ofNat 64 s.g.p.id.block),
          (0x03, BitVec.ofNat 64 s.g.p.id.launch), (0x04, BitVec.ofNat 64 s.g.p.ctx),
          (0x05, BitVec.ofNat 64 s.g.p.core), (0x06, BitVec.ofNat 64 (s.g.p.core / 36)), (0x07, s.devloc.setWidth 64),
          (0x10, BitVec.ofNat 64 (s.clk - (SMap.get default s.cores s.g.p.core).clk0)), (0x11, BitVec.ofNat 64 s.gtime),
          (0x20, (s.g.r.getLc 0).setWidth 64), (0x21, (s.g.r.getLc 1).setWidth 64),
          (0x22, (s.g.r.getLc 2).setWidth 64), (0x23, (s.g.r.getLc 3).setWidth 64),
          (0x24, s.g.r.fmtbase.setWidth 64),
          (0x30, BitVec.ofNat 64 ((if s.g.u.det then 1 else 0) + (if s.g.u.lchk then 2 else 0) +
            (if s.g.u.xchk then 4 else 0))),
          (0x40, s.g.r.faultcause), (0x41, s.g.r.faultva), (0x42, s.g.r.faultpc), (0x43, s.g.r.faultaux),
          (0x70, BitVec.ofNat 64 s.g.u.pbase)] → f.imm.toNat = sel →
        ∃ t, exec (.srd f) s = .next t ∧ WritesS s t [] f.d v) ∧
      (f.imm.toNat = 0x50 →
        ∃ t, exec (.srd f) s = .next t ∧ WritesS s t [] f.d
          (match s.findCtx s.g.p.ctx with | some c => BitVec.ofNat 64 c.capbase | none => 0)) ∧
      (f.imm.toNat = 0x52 →
        ∃ t v, exec (.srd f) s = .next t ∧ WritesS s t [] f.d v ∧
          ∀ k, k < 16 → (v.extractLsb' (4 * k) 4).toNat = s.g.r.getTok k) ∧
      (∀ j, j < 8 → f.imm.toNat = 0x60 + j →
        ∃ t, exec (.srd f) s = .next t ∧ WritesS s t [] f.d
          (match NMap.get s.g.qbind j with | 0 => 0 | q + 1 => BitVec.ofNat 64 (2 ^ 63 + q))) ∧
      (f.imm.toNat = 0x80 → s.g.u.super = true →
        ∃ t, exec (.srd f) s = .next t ∧ WritesS s t [] f.d (s.g.r.xctx.setWidth 64))) ∧
  (∀ (f : FI) (s : State), (Instr.swr f).wellFormed = true → s.Ready f.g [f.a.toNat] →
      let v := s.source f.a.toNat
      (∀ i, i < 4 → f.imm.toNat = 0x20 + i →
        ∃ t, exec (.swr f) s = .next t ∧ Issued s t [f.a.toNat] 8 ∧
          t.g.r = { s.g.r with pcv := t.g.r.pcv, lc := t.g.r.lc } ∧ t.g.r.getLc i = v.setWidth 32 ∧
          ∀ j, j ≠ i → t.g.r.getLc j = s.g.r.getLc j) ∧
      (f.imm.toNat = 0x24 →
        ∃ t, exec (.swr f) s = .next t ∧ Issued s t [f.a.toNat] 8 ∧
          t.g.r = { s.g.r with pcv := t.g.r.pcv, fmtbase := v.setWidth 32 }) ∧
      (f.imm.toNat = 0x30 →
        ∃ t, exec (.swr f) s = .next t ∧
          Completed s { s with g := { s.g with u := { s.g.u with lchk := v.getLsbD 1 } } } t [f.a.toNat] 8) ∧
      (f.imm.toNat = 0x80 → s.g.u.super = true →
        ∃ t, exec (.swr f) s = .next t ∧ Issued s t [f.a.toNat] 8 ∧
          t.g.r = { s.g.r with pcv := t.g.r.pcv, xctx := v.setWidth 16 }))

/-- R31: at privilege U, SRD and SWR of %xctx and the helper services take PRIV, whatever their guard. R24, R31, R133: a
load, store or atomic of this device of which some active lane's sum is no address takes CANON with no effect, at the
lowest such lane; where every sum is an address and some is not a multiple of the access's size (of 16 for a far
pointer), ALIGN, at the lowest such lane and its address. A scalar form has the one access of its lowest lane. For STF
the flag is in order. R133, R408: a load or an atomic of this device whose accesses would check, were it not for
poison of the memory, and of which some active lane reads a poisoned byte takes MCHK with no effect, at the lowest
such lane and at its first poisoned byte. R157: a register target above 2^57 − 8 takes CANON, and else one that is not
a multiple of 8 takes ALIGN; an offset target outside 0 to 2^57 − 8 that some lane moves to takes CANON, and one that
no lane moves to is no fault. %faultva holds the target modulo 2^64 and %faultaux the reported lane: the lowest lane
with CANON, or if none has it the lowest with ALIGN. Which lane %faultaux names, %faultva of ALIGN, and that a target
no lane moves to is not checked, are the model's choice (log entry 58). Nothing has moved when the fault is taken.
R34, R96: under lane check an idle lane takes as partner the first active lane of i^1, i^2, i^4, i^8, i^16. Every form
that writes a v or k destination in its active lanes raises CHECK, with the mask of the partner lanes whose results
differed and nothing written, when a recomputation differs, and completes otherwise; without lane check, or with all
32 lanes active, none differs. R94, R259, R260, R408: the faults that a group takes before or after a virtual
instruction. A fault that came for a drained store is taken first, with the store's address in %faultpc (one that came
for a die is taken at the commit point itself). Once an instruction has passed its own checks, a comparison of
duplicates that fails again at the instruction that a failed one named takes CHECK, and one that fails for the first
time discards the instruction and has it run again with checking. An instruction that has issued, or begun, and has
read a register with an uncorrectable error takes MCHK and has no effect. -/
def Obligations.FaultConditions : Prop :=
  (∀ (f : FI) (s : State), s.g.u.super = false →
      ((Instr.srd f).wellFormed = true → f.imm.toNat = 0x80 →
        ∃ t, exec (.srd f) s = .next t ∧ Faulted s t { cause := .priv, va := 0, aux := 0 } s.pc) ∧
      ((Instr.swr f).wellFormed = true → f.imm.toNat = 0x80 →
        ∃ t, exec (.swr f) s = .next t ∧ Faulted s t { cause := .priv, va := 0, aux := 0 } s.pc) ∧
      ((Instr.svcHelper f).wellFormed = true →
        ∃ t, exec (.svcHelper f) s = .next t ∧ Faulted s t { cause := .priv, va := 0, aux := 0 } s.pc)) ∧
  (∀ (f : FM) (w : W1) (s : State), f.c ≠ 15#4 → s.g.r.getN f.n.toNat = 0 →
      let n := szBytes f.sz
      let act := s.g.r.active f.g
      let one := [lowest act]
      let a := f.a.toNat
      let srcsX := [a] ++ xSrc f
      let o (_ : Nat) : Int := offOf f n
      let x (_ : Nat) : Int := sIndex f n s.source
      let v (l : Nat) : Int := vIndex f n s.g.r l
      let c (l : Nat) : Int := sIndex f n s.source + l * n
      let far (l : Nat) : Int :=
        (if f.x = 0#12 then 0 else (s.g.r.getV f.x.toNat l).toInt * (if f.sc = 1#1 then 16 else 1)) + w.imm.toInt
      let plus (off : Nat → Int) (l : Nat) : Int := off l + w.imm.toInt
      let faults (i : Instr) (srcs lanes : List Nat) (off : Nat → Int) (size : Nat) (write : Bool) : Prop :=
        i.wellFormed = true → s.Ready f.g srcs → BadAddress s i lanes (s.source a).toNat off size write
      faults (.ldi f) [a] one o n false ∧ faults (.sti f) ([a] ++ dataSrc f.sz f.d) one o n true ∧
      faults (.ld f) srcsX one x n false ∧ faults (.st f) (srcsX ++ dataSrc f.sz f.d) one x n true ∧
      faults (.ldo f w) srcsX one (plus x) n false ∧
      faults (.sto f w) (srcsX ++ dataSrc f.sz f.d) one (plus x) n true ∧
      faults (.vldi f) [a] act o n false ∧ faults (.vsti f) [a] act o n true ∧
      faults (.vld f) [a] act v n false ∧ faults (.vst f) [a] act v n true ∧
      faults (.vldo f w) [a] act (plus v) n false ∧ faults (.vsto f w) [a] act (plus v) n true ∧
      faults (.vldc f) srcsX act c n false ∧ faults (.vstc f) srcsX act c n true ∧
      (s.g.pend = .idle → faults (.nld f w) [a] act far 16 false ∧ faults (.nst f w) [a] act far 16 false) ∧
      ((∃ fl, s.check (flagAcc s f act (s.source w.e1.toNat)) = .ok (.here fl)) →
        faults (.stf f w) [a, w.e1.toNat] act (plus v) n true) ∧
      (s.g.u.det = false → faults (.fao f w) [a] act (plus v) n true ∧ faults (.cas f w) [a] act (plus v) n true ∧
        faults (.faor f w) [a, f.x.toNat] one (plus fun _ => 0) n true) ∧
      faults (.red f w) (if w.e2.toNat < 16 then [a] else [a, f.d.toNat]) act (plus v) n true) ∧
  (∀ (f : FM) (w : W1) (s : State) (sp : Nat → List Span), f.c ≠ 15#4 → s.g.r.getN f.n.toNat = 0 →
      let n := szBytes f.sz
      let act := s.g.r.active f.g
      let one := [lowest act]
      let a := f.a.toNat
      let srcsX := [a] ++ xSrc f
      let x : Int := sIndex f n s.source
      let v (l : Nat) : Int := vIndex f n s.g.r l
      let read (off : Nat → Int) (l : Nat) : Acc := mkAcc s l 0 (s.source a) (off l) n true false f.c.toNat
      let atomic (l : Nat) : Acc :=
        { mkAcc s l 0 (s.source a) (v l + w.imm.toInt) n true true f.c.toNat with win := .noPrivate, host := false }
      let faults (i : Instr) (srcs lanes : List Nat) (acc : Nat → Acc) (wr : Nat) : Prop :=
        i.wellFormed = true → s.Ready f.g srcs →
          (∀ l ∈ lanes, ({ s with poison := [] } : State).check (acc l) = .ok (.here (sp l)) ∧
            ∀ p ∈ sp l, p.scratch = false) →
          ∀ l ∈ lanes, ∀ i', s.poisonedAt (sp l) = some i' → (∀ m ∈ lanes, m < l → s.poisonedAt (sp m) = none) →
          ∃ t, exec i s = .next t ∧
            Faulted s t { cause := .mchk, va := (acc l).addr.getD 0 + i', aux := l + wr } s.pc
      faults (.ldi f) [a] one (read fun _ => offOf f n) 0 ∧ faults (.ld f) srcsX one (read fun _ => x) 0 ∧
      faults (.ldo f w) srcsX one (read fun _ => x + w.imm.toInt) 0 ∧
      faults (.vldi f) [a] act (read fun _ => offOf f n) 0 ∧ faults (.vld f) [a] act (read v) 0 ∧
      faults (.vldo f w) [a] act (read fun l => v l + w.imm.toInt) 0 ∧
      faults (.vldc f) srcsX act (read fun l => x + l * n) 0 ∧
      (s.g.u.det = false → faults (.fao f w) [a] act atomic (2 ^ 14) ∧ faults (.cas f w) [a] act atomic (2 ^ 14)) ∧
      faults (.red f w) (if w.e2.toNat < 16 then [a] else [a, f.d.toNat]) act atomic (2 ^ 14)) ∧
  ((∀ mk, mk ∈ [Instr.jmpi, .calli, .ret] → ∀ (f : FR) (s : State), (mk f).wellFormed = true →
      let pairs : Bool := decide (mk f = .ret f ∨ f.min = 1#8)
      let target (l : Nat) : BitVec 64 := if pairs then s.g.r.getV64 f.a.toNat l else s.source f.a.toNat
      s.Ready f.g (if pairs then [] else [f.a.toNat]) → ∀ l ∈ s.g.r.active f.g,
      (2 ^ 57 - 8 < (target l).toNat → (∀ m ∈ s.g.r.active f.g, m < l → (target m).toNat ≤ 2 ^ 57 - 8) →
        ∃ t, exec (mk f) s = .next t ∧ Faulted s t { cause := .canon, va := (target l).toNat, aux := l } s.pc) ∧
      ((∀ m ∈ s.g.r.active f.g, (target m).toNat ≤ 2 ^ 57 - 8) → (target l).toNat % 8 ≠ 0 →
        (∀ m ∈ s.g.r.active f.g, m < l → (target m).toNat % 8 = 0) →
        ∃ t, exec (mk f) s = .next t ∧ Faulted s t { cause := .align, va := (target l).toNat, aux := l } s.pc)) ∧
    (∀ (f : FB) (s : State),
      let target : Int := s.pc + 8 * f.off.toInt
      (target < 0 ∨ 2 ^ 57 - 8 < target) →
      let act := s.g.r.active f.g
      let a := (s.source f.a.toNat).toInt
      let taken : Prop := match f.min.toNat with | 0 => a = 0 | 1 => a ≠ 0 | 2 => a < 0 | _ => 0 ≤ a
      let go (l : Nat) : Prop := (s.g.r.getK f.a.toNat).getLsbD l = decide (f.min = 0#8)
      let loops : Prop := 1 < (s.g.r.getLc f.a.toNat).toNat
      let bad (i : Instr) (srcs : List Nat) (l : Nat) : Prop :=
        i.wellFormed = true → s.Ready f.g srcs → ∃ t, exec i s = .next t ∧
          Faulted s t { cause := .canon, va := (target % 2 ^ 64).toNat, aux := l } s.pc
      let passes (i : Instr) (srcs : List Nat) : Prop :=
        i.wellFormed = true → s.Ready f.g srcs → ∃ t, exec i s = .next t ∧ Issued s t srcs 8
      (∀ l ∈ act, (∀ m ∈ act, l ≤ m) →
        bad (.br f) [] l ∧ bad (.call f) [] l ∧ bad (.lbrk f) [] l ∧ (taken → bad (.brc f) [f.a.toNat] l) ∧
        (loops → bad (.loop f) [] l)) ∧
      (∀ l ∈ act, go l → (∀ m ∈ act, go m → l ≤ m) → bad (.brk f) [] l) ∧
      (¬ taken → passes (.brc f) [f.a.toNat]) ∧ (¬ loops → passes (.loop f) []) ∧
      ((∀ l ∈ act, ¬ go l) → passes (.brk f) []))) ∧
  ((∀ act i, lanePartner act i =
      if i ^^^ 1 ∈ act then some (i ^^^ 1) else if i ^^^ 2 ∈ act then some (i ^^^ 2)
      else if i ^^^ 4 ∈ act then some (i ^^^ 4) else if i ^^^ 8 ∈ act then some (i ^^^ 8)
      else if i ^^^ 16 ∈ act then some (i ^^^ 16) else none) ∧
    (∀ (s : State) act, s.g.u.lchk = false ∨ (∀ l, l < 32 → l ∈ act) → s.laneDiffs act = []) ∧
    (∀ (s : State) act, s.g.u.lchk = true → ∀ p, p ∈ s.laneDiffs act ↔
      ∃ i, i < 32 ∧ i ∉ act ∧ lanePartner act i = some p ∧ Config.laneFlip s.tick s.free i ≠ 0) ∧
    (∀ (f : FR) (q : FQ) (s : State),
      let answers (i : Instr) (g : BitVec 4) (srcs : List Nat) : Prop :=
        i.wellFormed = true → s.Ready g srcs →
          let differ := s.laneDiffs (s.g.r.active g)
          let mask := (differ.map (2 ^ ·)).foldl (· ||| ·) 0
          ∃ t, exec i s = .next t ∧ (differ = [] → Issued s t srcs 8) ∧
            (differ ≠ [] → Faulted s t { cause := .check, va := 0, aux := mask } s.pc)
      (∀ mk ∈ [Instr.vadd, .vsub, .vmul, .vmulh, .vmin, .vmax, .vabs, .vand, .vor, .vxor, .vnot, .vshl, .vshr, .vsar,
        .vclz, .vpopc, .vcmp, .vmov, .vfadd, .vfsub, .vfmul, .vfmin, .vfmax, .vfcmp, .vfdiv, .vfsqrt, .vrcp, .vrsq,
        .vexp2, .vlog2, .vsin, .vcos, .vtanh, .vround, .vpack, .vunpack, .vscale, .vperm, .vred, .vscan, .kop],
        answers (mk f) f.g []) ∧
      (∀ mk ∈ [Instr.vfma, .vmad, .vbfx, .vbfi, .vsel, .vdot4], answers (mk q) q.g []) ∧
      answers (.vbcast f) f.g [f.a.toNat] ∧ answers (.kmovFroms f) f.g [f.a.toNat] ∧
      answers (.vshfl f) f.g [f.b.toNat] ∧ answers (.viota f) f.g [f.a.toNat, f.b.toNat] ∧
      answers (.vcvt f) f.g (if f.ty = 14#4 ∨ f.min.toNat / 16 = 14 then [f.b.toNat] else []))) ∧
  (∀ s : State, s.breakpoint = none → (s.g.nat.on = true ∨ s.g.nat.gate = []) →
      (∀ x rest, s.g.nat.late = x :: rest →
        ∃ u t, u = { s with g := { s.g with nat := { s.g.nat with late := rest } } } ∧
          s.runVirtualGroup = .next t ∧ Faulted u t x.1 (if x.2.1 = 2 ^ 64 then s.pc else x.2.1)) ∧
      (∀ i v, s.g.nat.late = [] → s.fetch = .ok i → exec i s.armBp = .next v → s.begins v = true →
        (s.g.nat.checking = some s.pc → Config.softError s.tick s.free = false ∨
          ∃ u t, u = { s with g := { s.g with nat := { s.g.nat with checking := none } } } ∧
            s.runVirtualGroup = .next t ∧ Faulted u t { cause := .check, va := 0, aux := 0 } s.pc) ∧
        (s.g.nat.checking ≠ some s.pc → s.g.u.xchk = true → duplicated i = true →
          Config.softError s.tick s.free = false ∨ s.runVirtualGroup = .next { s with g := { s.g with
            nat := { s.g.nat with checking := some s.pc, hold := true } } }) ∧
        (s.g.nat.checking ≠ some s.pc → (s.g.u.xchk = false ∨ duplicated i = false) → s.readsBad i = true →
          ∃ t, s.runVirtualGroup = .next t ∧ Faulted s t { cause := .mchk, va := 0, aux := 0 } s.pc)))

/-- R169, R171, R172, R173, R174: TRAP, and BKPT without a debugger, complete: they take their fault with the code in
%faultaux and with every lane that took part already at the successor, which is therefore where a handler's return
resumes it. BKPT with a debugger attached completes in another way: its group only stops, behind the instruction, with
its fault registers as they were. A word that is no instruction takes ILLOP at its own address (R67, R78). R173: TRET,
in the handler, installs the program counters saved in the trap frames of the live lanes and leaves the handler;
elsewhere it takes ILLOP. -/
def Obligations.TrapsAndReturn : Prop :=
  ((∀ mk cause, (mk, cause) ∈ [(Instr.trap, Cause.trapi), (.bkpt, .bkpt)] →
      ∀ (f : FI) (s : State), (mk f).wellFormed = true → s.g.r.active f.g ≠ [] →
        (cause = .bkpt → s.debugged = false) →
        ∃ u t, Issued s u [] 8 ∧ OnlyPc s.g.r u.g.r ∧ exec (mk f) s = .next t ∧
          Faulted u t { cause := cause, va := 0, aux := f.imm.toNat } s.pc) ∧
    (∀ (f : FI) (s : State), (Instr.bkpt f).wellFormed = true → s.g.r.active f.g ≠ [] → s.debugged = true →
        ∃ u, Issued s u [] 8 ∧ OnlyPc s.g.r u.g.r ∧ exec (.bkpt f) s = .next
          { u with g := { u.g with
              stall := .debug, dbg := { u.g.dbg with stopped := true, cause := causeNumber .bkpt } } }) ∧
    (∀ (w0 w1 : BitVec 64) (s : State),
        ∃ t, exec (.unassignedEncoding w0 w1) s = .next t ∧ Faulted s t { cause := .illop, va := 0, aux := 0 } s.pc)) ∧
  (∀ (f : FR) (s : State), (Instr.tret f).wellFormed = true → s.g.r.active f.g ≠ [] →
      (∀ saved : Nat → BitVec 64, s.g.inHandler = true → (∀ l ∈ s.g.r.live, s.savedPcv l = .ok (saved l)) →
        (∀ l ∈ s.g.r.live, (saved l).extractLsb' 57 6 = 0 ∧ (saved l).extractLsb' 0 3 = 0 ∧
          s.canRun ((saved l).toNat % 2 ^ 57) = true) →
        (∃ l ∈ s.g.r.live, (saved l).getLsbD 63 = false) →
        ∃ t, exec (.tret f) s = .next t ∧ OnlyPc s.g.r t.g.r ∧
          t = { s.touchAll (s.g.r.live.map (s.frameAcc false 8)) with g :=
            { s.g with r := t.g.r, inHandler := false, pend := .idle, kept := none, stall := .none } } ∧
          (∀ l ∈ s.g.r.live, t.g.r.getPcv l = saved l) ∧
          ∀ l, l ∉ s.g.r.live → t.g.r.getPcv l = s.g.r.getPcv l) ∧
      (s.g.inHandler = false →
        ∃ t, exec (.tret f) s = .next t ∧ Faulted s t { cause := .illop, va := 0, aux := 0 } s.pc))

/-- R174: the services. VERSION, DEBUGGED and an unknown number return in s8 (and s9) at once, as a helper number does in
supervisor mode; PRIVSIZE returns the size of private memory in s8 and in s9 whether growth was refused; SLEEP returns
0 in s8 once its time has come and waits before; ABORT asks for a core dump that records s8. -/
def Obligations.Services : Prop :=
  ∀ (f : FI) (s : State), s.Ready f.g [] →
    ((Instr.svcVersion f).wellFormed = true →
      ∃ t, exec (.svcVersion f) s = .next t ∧ WritesS s t [] 8#12 0x00010000) ∧
    ((Instr.svcDebugged f).wellFormed = true →
      ∃ t, exec (.svcDebugged f) s = .next t ∧ WritesS s t [] 8#12 (if s.debugged then 1 else 0)) ∧
    ((Instr.svcUnknown f).wellFormed = true →
      ∃ t, exec (.svcUnknown f) s = .next t ∧ Issued s t [] 8 ∧ OnlyS s.g.r t.g.r [8, 9] ∧
        t.g.r.getS 8 = BitVec.allOnes 64 ∧ t.g.r.getS 9 = 0) ∧
    ((Instr.svcHelper f).wellFormed = true → s.g.u.super = true →
      ∃ t, exec (.svcHelper f) s = .next t ∧ Issued s t [] 8 ∧ OnlyS s.g.r t.g.r [8, 9] ∧
        t.g.r.getS 8 = BitVec.allOnes 64 ∧ t.g.r.getS 9 = 0) ∧
    ((Instr.svcPrivsize f).wellFormed = true → s.g.pend = .idle →
      ((s.g.r.getS 8).toNat ≤ s.g.privBytes ∨ 2 ^ 24 < (s.g.r.getS 8).toNat →
        ∃ t, exec (.svcPrivsize f) s = .next t ∧ Issued s t [] 8 ∧ OnlyS s.g.r t.g.r [8, 9] ∧
          t.g.r.getS 8 = BitVec.ofNat 64 s.g.privBytes ∧
          t.g.r.getS 9 = if (s.g.r.getS 8).toNat ≤ s.g.privBytes then 0 else 1) ∧
      (s.g.privBytes < (s.g.r.getS 8).toNat → (s.g.r.getS 8).toNat ≤ 2 ^ 24 →
        exec (.svcPrivsize f) s = .next
          { s with g := { s.g with pend := .privsize (s.g.r.getS 8).toNat none, stall := .fault } })) ∧
    ((Instr.svcSleep f).wellFormed = true →
      (s.g.pend = .idle →
        exec (.svcSleep f) s = .next
          { s with g := { s.g with pend := .sleep (s.gtime + (s.g.r.getS 8).toNat) false, stall := .fault } }) ∧
      (∀ until_, s.g.pend = .sleep until_ false → until_ ≤ s.gtime →
        ∃ t, exec (.svcSleep f) s = .next t ∧ WritesS s t [] 8#12 0)) ∧
    ((Instr.svcAbort f).wellFormed = true →
      ∃ t, exec (.svcAbort f) s = .next t ∧ t.g.stall = .fault ∧ t.g.r = s.g.r ∧ .coreDump s.g.p.ctx ∈ t.agenda ∧
        MemoryKept s t ∧ ∀ c ∈ t.ctxs, c.id = s.g.p.ctx → c.dumped = some (s.g.r.getS 8))

/-- R175, R176: ICINV of a start address below 2^57 issues without waiting and is outstanding until it completes; SYNCI
completes once the group has no ICINV outstanding, and waits before. R181, R392, R393, R394: PMARK only advances while
its context's profile does not ask for MARK records; when it does, one record with the immediate and the value of sA
goes to the end of the hub's buffer. -/
def Obligations.CodeChangesAndMarks : Prop :=
  (∀ (f : FR) (s : State),
      ((Instr.icinv f).wellFormed = true → s.Ready f.g [f.a.toNat, f.b.toNat] → (s.source f.a.toNat).toNat < 2 ^ 57 →
        let e : Icinv := { id := s.icinvNext, who := s.g.p.id, ctx := s.g.p.ctx,
                           start := (s.source f.a.toNat).toNat, len := (s.source f.b.toNat).toNat }
        ∃ t, exec (.icinv f) s = .next t ∧
          Completed s { s with icinvs := s.icinvs ++ [e], icinvNext := s.icinvNext + 1,
                               g := { s.g with icinvs := s.g.icinvs ++ [s.icinvNext] },
                               agenda := s.agenda ++ [.icinvComplete s.icinvNext] } t [f.a.toNat, f.b.toNat] 8) ∧
      ((Instr.synci f).wellFormed = true → s.Ready f.g [] →
        (s.g.icinvs = [] → ∃ t, exec (.synci f) s = .next t ∧ Issued s t [] 8 ∧ OnlyPc s.g.r t.g.r) ∧
        (s.g.icinvs ≠ [] → exec (.synci f) s = .next (s.waiting .xlate)))) ∧
  (∀ (f : FI) (s : State), (Instr.pmark f).wellFormed = true → s.Ready f.g [f.a.toNat] →
      let c := s.profOf s.g.p.ctx
      let asks := c.port && c.types.testBit 9 && (c.filter == 0xFFFFFFFF || c.filter == s.g.p.id.launch)
      (asks = false →
        ∃ t, exec (.pmark f) s = .next t ∧ Issued s t [f.a.toNat] 8 ∧ OnlyPc s.g.r t.g.r) ∧
      let mark : TraceRec :=
        { type := 9, core := s.g.p.core, part := s.g.p.part, slot := s.g.p.slot, group := s.g.p.id.group,
          block := s.g.p.id.block, seq := NMap.get s.trace.seqs s.g.p.core % 2 ^ 14, time := s.gtime,
          payload := f.imm.toNat + (s.source f.a.toNat).toNat * 2 ^ 64 }
      (asks = true → s.trace.lost = 0 → s.trace.buf.length < 4096 →
        ∃ t, exec (.pmark f) s = .next t ∧
          Completed s { s with trace := { s.trace with seqs := NMap.bump s.trace.seqs s.g.p.core,
                                                       buf := s.trace.buf ++ [mark] } } t [f.a.toNat] 8))

/-- R178, R179, R180: QBIND of a receive queue of the context that is bound to no other q register completes and binds it
to q register D; QBIND.un completes and unbinds qD; a queue of another context, or one bound elsewhere, takes QBAD.
SEND completes: to a queue of this device it puts the value at its end when the queue has room, stays outstanding for
another attempt 1 µs later when it is full, and holds FABRIC against the group when the queue belongs to another
context; to another device it posts a SEND message and stays outstanding. -/
def Obligations.ReceiveQueues : Prop :=
  (∀ (f : FI) (s : State), s.Ready f.g [] →
    ((Instr.qbind f).wellFormed = true →
      let q := f.imm.toNat
      let elsewhere : Prop := (∃ g ∈ s.others, ∃ i, i < 8 ∧ NMap.get g.qbind i = q + 1) ∨
        (∃ i, i < 8 ∧ i ≠ f.d.toNat ∧ NMap.get s.g.qbind i = q + 1)
      ((SMap.get default s.rxq q).ctx = some s.g.p.ctx → ¬ elsewhere →
        ∃ t, exec (.qbind f) s = .next t ∧ Completed s
          { s with g := { s.g with qbind := NMap.set s.g.qbind f.d.toNat (q + 1) } } t [] 8) ∧
      ((SMap.get default s.rxq q).ctx ≠ some s.g.p.ctx ∨ elsewhere →
        ∃ t, exec (.qbind f) s = .next t ∧ Faulted s t { cause := .qbad, va := 0, aux := 0 } s.pc)) ∧
    ((Instr.qbindUn f).wellFormed = true →
      ∃ t, exec (.qbindUn f) s = .next t ∧ Completed s
        { s with g := { s.g with qbind := NMap.set s.g.qbind f.d.toNat 0 } } t [] 8)) ∧
  (∀ (f : FR) (s : State), (Instr.send f).wellFormed = true → s.Ready f.g [f.a.toNat] → s.g.present = true →
    (∀ h ∈ s.g.held, h.send = false) → s.g.sends = [] →
    let q := f.min.toNat
    let e := SMap.get default s.rxq q
    let n := (s.g.r.getN f.b.toNat).toNat
    let here : Prop := n = 0 ∨ (2 ^ 14 ≤ n ∧ n = s.devloc.toNat)
    let o : SendOut := { index := s.g.sendSeq, loc := n, queue := q, value := s.source f.a.toNat, pc := s.pc,
                         retryAt := 0, deadline := s.gtime + 200000 }
    (here → e.ctx = some s.g.p.ctx → e.entries.length < 64 →
      ∃ t, exec (.send f) s = .next t ∧
        Completed s { s with rxq := SMap.set default s.rxq q { e with entries := e.entries ++ [s.source f.a.toNat] },
                             g := { s.g with sendSeq := s.g.sendSeq + 1 } } t [f.a.toNat] 8) ∧
    (here → e.ctx = some s.g.p.ctx → 64 ≤ e.entries.length →
      ∃ t, exec (.send f) s = .next t ∧
        Completed s { s with g := { s.g with
          sendSeq := s.g.sendSeq + 1, sends := [{ o with retryAt := s.gtime + 1000 }] } } t [f.a.toNat] 8) ∧
    (here → e.ctx ≠ some s.g.p.ctx →
      ∃ t, exec (.send f) s = .next t ∧
        Completed s { s with g := { s.g with
          sendSeq := s.g.sendSeq + 1
          held := s.g.held ++ [{ token := none, send := true, release := false
                                 trap := { cause := .fabric, va := s.pc, aux := 0 } }] } } t [f.a.toNat] 8) ∧
    (2 ^ 14 ≤ n → n ≠ s.devloc.toNat →
      ∃ t, exec (.send f) s = .next t ∧
        Completed s { s with
          g := { s.g with sendSeq := s.g.sendSeq + 1, sends := [o] }
          fab := { s.fab with out := s.fab.out ++ [{ (default : Msg) with
            type := 0x20, dst := n, src := s.devloc.toNat, ctx := s.g.p.ctx, opc := q
            operand := (s.source f.a.toNat).toNat, who := s.g.p.id, count := s.g.sendSeq }] } } t [f.a.toNat] 8))

/-- R24, R71, R128, R130, R136, R138: LD, LDI and LDO load the value at their address, zero-extended, into the data field,
and ST, STI and STO store the data field's low bytes there. The address is at the location of nN: the base of sA plus
the scaled index of sX, the scaled offset, or the index and IMM35. -/
def Obligations.ScalarLoadsAndStores : Prop :=
  ∀ (f : FM) (w : W1) (s : State),
    let n := szBytes f.sz
    let acc (off : Int) (write : Bool) : Acc :=
      mkAcc s (lowest (s.g.r.active f.g)) (s.g.r.getN f.n.toNat) (s.source f.a.toNat) off n (!write) write f.c.toNat
    let x := sIndex f n s.source
    let srcsX := [f.a.toNat] ++ xSrc f
    let data := if f.sz = 4#3 then (s.source f.d.toNat).toNat + 2 ^ 64 * (s.source (f.d.toNat + 1)).toNat
      else (s.source f.d.toNat).toNat % 256 ^ n
    ((Instr.ld f).wellFormed = true → s.Ready f.g srcsX →
      LoadsScalar s (.ld f) f.sz f.d.toNat srcsX 8 ((acc x false).viaXctx s)) ∧
    ((Instr.ldi f).wellFormed = true → s.Ready f.g [f.a.toNat] →
      LoadsScalar s (.ldi f) f.sz f.d.toNat [f.a.toNat] 8 ((acc (offOf f n) false).viaXctx s)) ∧
    ((Instr.ldo f w).wellFormed = true → s.Ready f.g srcsX →
      LoadsScalar s (.ldo f w) f.sz f.d.toNat srcsX 16 (acc (x + w.imm.toInt) false)) ∧
    ((Instr.st f).wellFormed = true → s.Ready f.g (srcsX ++ dataSrc f.sz f.d) →
      StoresScalar s (.st f) (srcsX ++ dataSrc f.sz f.d) 8 (acc x true) data) ∧
    ((Instr.sti f).wellFormed = true → s.Ready f.g ([f.a.toNat] ++ dataSrc f.sz f.d) →
      StoresScalar s (.sti f) ([f.a.toNat] ++ dataSrc f.sz f.d) 8 (acc (offOf f n) true) data) ∧
    ((Instr.sto f w).wellFormed = true → s.Ready f.g (srcsX ++ dataSrc f.sz f.d) →
      StoresScalar s (.sto f w) (srcsX ++ dataSrc f.sz f.d) 16 (acc (x + w.imm.toInt) true) data)

/-- R24, R71, R128, R132, R136, R138: the vector loads and stores, one access for each active lane: at the lane's scaled
index (VLD, VST), at one offset (VLDI, VSTI), at consecutive places from the scaled index of sX (VLDC, VSTC), or at
the lane's index and IMM35 (VLDO, VSTO). Stores are made in ascending lanes. -/
def Obligations.VectorLoadsAndStores : Prop :=
  ∀ (f : FM) (w : W1) (s : State),
    let n := szBytes f.sz
    let acc (off : Nat → Int) (write : Bool) (l : Nat) : Acc :=
      mkAcc s l (s.g.r.getN f.n.toNat) (s.source f.a.toNat) (off l) n (!write) write f.c.toNat
    let x (l : Nat) : Int := vIndex f n s.g.r l
    let c (l : Nat) : Int := sIndex f n s.source + l * n
    let o (_ : Nat) : Int := offOf f n
    let srcs := [f.a.toNat]
    let srcsX := [f.a.toNat] ++ xSrc f
    let data (l : Nat) : Nat := s.g.r.dataV f.sz f.d l
    (s.Ready f.g srcs →
      ((Instr.vld f).wellFormed = true →
        LoadsVector s (.vld f) f.sz f.d.toNat f.g srcs 8 fun l => (acc x false l).viaXctx s) ∧
      ((Instr.vldi f).wellFormed = true →
        LoadsVector s (.vldi f) f.sz f.d.toNat f.g srcs 8 fun l => (acc o false l).viaXctx s) ∧
      ((Instr.vldo f w).wellFormed = true →
        LoadsVector s (.vldo f w) f.sz f.d.toNat f.g srcs 16 (acc (fun l => x l + w.imm.toInt) false)) ∧
      ((Instr.vst f).wellFormed = true → StoresVector s (.vst f) f.g srcs 8 (acc x true) data) ∧
      ((Instr.vsti f).wellFormed = true → StoresVector s (.vsti f) f.g srcs 8 (acc o true) data) ∧
      ((Instr.vsto f w).wellFormed = true →
        StoresVector s (.vsto f w) f.g srcs 16 (acc (fun l => x l + w.imm.toInt) true) data)) ∧
    (s.Ready f.g srcsX →
      ((Instr.vldc f).wellFormed = true →
        LoadsVector s (.vldc f) f.sz f.d.toNat f.g srcsX 8 fun l => (acc c false l).viaXctx s) ∧
      ((Instr.vstc f).wellFormed = true → StoresVector s (.vstc f) f.g srcsX 8 (acc c true) data))

/-- R27, R139: NLD and NST read each active lane's 16-byte far pointer and then load or store at the address it names plus
the lane's 32-bit offset, when both accesses are on this device. R140: STF stores each active lane's value and then
adds 1 to the flag in sE1, once. -/
def Obligations.FarPointerAndFlagForms : Prop :=
  (∀ (f : FM) (w : W1) (s : State) (pp sp : Nat → List Span), s.Ready f.g [f.a.toNat] → s.g.pend = .idle →
      let act := s.g.r.active f.g
      let ptr (l : Nat) : Acc := mkAcc s l (s.g.r.getN f.n.toNat) (s.source f.a.toNat)
        ((if f.x = 0#12 then 0 else (s.g.r.getV f.x.toNat l).toInt * (if f.sc = 1#1 then 16 else 1)) + w.imm.toInt)
        16 true false f.c.toNat
      (∀ l ∈ act, s.check (ptr l) = .ok (.here (pp l))) →
      let off (l : Nat) : Int := if w.e1 = 0#12 then 0 else (s.g.r.getV w.e1.toNat l).toInt
      let p (l : Nat) : Nat := s.readSpans (pp l)
      (∀ l ∈ act, p l < 2 ^ 79 ∧ p l % 2 ^ 64 < 2 ^ 57) →
      let tgt (write : Bool) (l : Nat) : Acc := mkAcc s l (BitVec.ofNat 15 (p l / 2 ^ 64)) (BitVec.ofNat 64 (p l)) (off l)
        (szBytes f.sz) (!write) write f.c.toNat
      ((Instr.nld f w).wellFormed = true → (∀ l ∈ act, s.check (tgt false l) = .ok (.here (sp l))) →
        ∃ t r, exec (.nld f w) s = .next t ∧
          Completed s { (s.touchAll (act.map (tgt false))).touchAll (act.map ptr) with g := { s.g with r := r } } t
            [f.a.toNat] 16 ∧
          OnlyV s.g.r r (vDataRegs f.sz f.d.toNat) act ∧ r.pcv = s.g.r.pcv ∧
          ∀ l ∈ act, r.holdsV f.sz f.d.toNat l (s.readSpans (sp l))) ∧
      ((Instr.nst f w).wellFormed = true → (∀ l ∈ act, s.check (tgt true l) = .ok (.here (sp l))) →
        ∃ t, exec (.nst f w) s = .next t ∧ OnlyPc s.g.r t.g.r ∧
          Completed s (act.foldl (fun u l => (u.touch (tgt true l)).writeSpans (sp l) (s.g.r.dataV f.sz f.d l))
            (s.touchAll (act.map ptr))) t [f.a.toNat] 16)) ∧
  (∀ (f : FM) (w : W1) (s : State) (sp : Nat → List Span) (fl : List Span), (Instr.stf f w).wellFormed = true →
      s.Ready f.g [f.a.toNat, w.e1.toNat] →
      let act := s.g.r.active f.g
      let acc (l : Nat) : Acc :=
        { mkAcc s l (s.g.r.getN f.n.toNat) (s.source f.a.toNat) (vIndex f (szBytes f.sz) s.g.r l + w.imm.toInt)
            (szBytes f.sz) false true f.c.toNat with win := .globalOnly, host := false }
      let flag := flagAcc s f act (s.source w.e1.toNat)
      (∀ l ∈ act, s.check (acc l) = .ok (.here (sp l))) → s.check flag = .ok (.here fl) →
      let u := (act.foldl (fun u l => (u.touch (acc l)).writeSpans (sp l) (s.g.r.dataV f.sz f.d l)) s).touch flag
      ∃ t, exec (.stf f w) s = .next t ∧ OnlyPc s.g.r t.g.r ∧
        Completed s (u.writeSpans fl (u.readSpans fl + 1)) t [f.a.toNat, w.e1.toNat] 16)

/-- R143, R144, R145: FAO, RED and CAS on words of this device complete. The active lanes are served in ascending order,
each reading its word and writing the new one; FAO and CAS return the words read. R33, R148: under DET a FAO or CAS
wider than block takes DETV at its lowest lane's address, whatever its accesses; one of block scope, or narrower, of a
group that is alone in its block completes: it is served in its wave, counted, and returns its old words. -/
def Obligations.Atomics : Prop :=
  (∀ (f : FM) (w : W1) (s : State) (sp : Nat → List Span),
      let act := s.g.r.active f.g
      let acc (l : Nat) : Acc :=
        { mkAcc s l (s.g.r.getN f.n.toNat) (s.source f.a.toNat) (vIndex f (szBytes f.sz) s.g.r l + w.imm.toInt)
            (szBytes f.sz) true true f.c.toNat with win := .noPrivate, host := false }
      let bits := 8 * szBytes f.sz
      let u := s.touchAll (act.map acc)
      let fetch (x : Nat → BitVec bits) (l old : Nat) : Option Nat :=
        some (atomicOf (w.e2.toNat % 16) (BitVec.ofNat bits old) (x l)).toNat
      let plain (l : Nat) : BitVec bits := BitVec.ofNat _ (s.g.r.dataV f.sz w.e1 l)
      let anchored (l : Nat) : BitVec bits := BitVec.ofInt _
        (Sys2Proof.Num.anchorInt .rne (Sys2Proof.Num.decodeTy 10 0 32 (s.g.r.getV w.e1.toNat l).toNat)
          ((s.source f.d.toNat).extractLsb' 0 16).toInt bits)
      let swapIf (l old : Nat) : Option Nat :=
        if old = s.g.r.dataV f.sz w.e1 l then some (s.g.r.dataV f.sz w.e2 l) else none
      let returns (i : Instr) (v : List (Nat × Nat) × State) : Prop :=
        ∃ t r, exec i s = .next t ∧ Completed s { v.2 with g := { v.2.g with r := r } } t [f.a.toNat] 16 ∧
          OnlyV s.g.r r (vDataRegs f.sz f.d.toNat) act ∧ r.pcv = s.g.r.pcv ∧
          ∀ x ∈ v.1, r.holdsV f.sz f.d.toNat x.1 x.2
      (∀ l ∈ act, s.check (acc l) = .ok (.here (sp l))) →
      (s.g.u.det = false → s.Ready f.g [f.a.toNat] →
        ((Instr.fao f w).wellFormed = true → returns (.fao f w) (u.perform sp (fetch plain) act)) ∧
        ((Instr.cas f w).wellFormed = true → returns (.cas f w) (u.perform sp swapIf act))) ∧
      ((Instr.red f w).wellFormed = true →
        (w.e2.toNat < 16 → s.Ready f.g [f.a.toNat] →
          ∃ t, exec (.red f w) s = .next t ∧ OnlyPc s.g.r t.g.r ∧
            Completed s (u.perform sp (fetch plain) act).2 t [f.a.toNat] 16) ∧
        (16 ≤ w.e2.toNat → s.Ready f.g [f.a.toNat, f.d.toNat] →
          ∃ t, exec (.red f w) s = .next t ∧ OnlyPc s.g.r t.g.r ∧
            Completed s (u.perform sp (fetch anchored) act).2 t [f.a.toNat, f.d.toNat] 16))) ∧
  (∀ (f : FM) (w : W1) (s : State) (sp : Nat → List Span), s.Ready f.g [f.a.toNat] → s.g.u.det = true →
      let act := s.g.r.active f.g
      let acc (l : Nat) : Acc :=
        { mkAcc s l (s.g.r.getN f.n.toNat) (s.source f.a.toNat) (vIndex f (szBytes f.sz) s.g.r l + w.imm.toInt)
            (szBytes f.sz) true true f.c.toNat with win := .noPrivate, host := false }
      let lane := lowest act
      let va := (acc lane).addr.getD (acc lane).bad
      let u := s.touchAll (act.map acc)
      let fetch (l old : Nat) : Option Nat := some (atomicOf (w.e2.toNat % 16)
        (BitVec.ofNat (8 * szBytes f.sz) old) (BitVec.ofNat (8 * szBytes f.sz) (s.g.r.dataV f.sz w.e1 l))).toNat
      let swapIf (l old : Nat) : Option Nat :=
        if old = s.g.r.dataV f.sz w.e1 l then some (s.g.r.dataV f.sz w.e2 l) else none
      ∀ mk new, (mk, new) ∈ [(Instr.fao, fetch), (.cas, swapIf)] → (mk f w).wellFormed = true →
      (2 ≤ w.scope.toNat →
        ∃ t, exec (mk f w) s = .next t ∧ Faulted s t
          { cause := .detv, va := va, aux := lane + 2 ^ 14 + if s.isLocal va then 0 else 2 ^ 15 } s.pc) ∧
      (w.scope.toNat < 2 → s.g.pend = .idle → s.g.present = true →
        (∀ g ∈ s.others, g.p.id.launch = s.g.p.id.launch → g.p.id.block ≠ s.g.p.id.block) →
        (∀ l ∈ act, s.check (acc l) = .ok (.here (sp l))) →
        let v := u.perform sp new act
        ∃ t r, exec (mk f w) s = .next t ∧
          Completed s { v.2 with g := { v.2.g with
            r := r, det := { s.g.det with count := s.g.det.count + 1 } } } t [f.a.toNat] 16 ∧
          OnlyV s.g.r r (vDataRegs f.sz f.d.toNat) act ∧ r.pcv = s.g.r.pcv ∧
          ∀ x ∈ v.1, r.holdsV f.sz f.d.toNat x.1 x.2))

/-- R146, R147: FAOR on a word of this device. The member that completes a set of two or more has the whole set served at
once, in ascending LRID: the word holds what all have made of it, and each member the word as those before it left it.
With P out of range it takes PROT with reason 8. Otherwise its lanes join and it waits; with P = 1, where nothing else
waits, each lane is at once a set of its own, in ascending order. Once every lane has its result it completes, and
each lane receives its prefix. -/
def Obligations.OrderedSets : Prop :=
  ∀ (f : FM) (w : W1) (s : State) (l : List Span), (Instr.faor f w).wellFormed = true →
    let act := s.g.r.active f.g
    let acc : Acc :=
      { mkAcc s (lowest act) (s.g.r.getN f.n.toNat) (s.source f.a.toNat) w.imm.toInt (szBytes f.sz) true true
          f.c.toNat with win := .globalOnly, host := false }
    let p := (s.source f.x.toNat).toNat
    (s.Ready f.g [f.a.toNat, f.x.toNat] → s.check acc = .ok (.here l) →
      ((p = 0 ∨ 2 ^ 20 < p) → ∃ t, exec (.faor f w) s = .next t ∧ Faulted s t
        { cause := .prot, va := acc.addr.getD 0, aux := 8 * 2 ^ 48 + 2 ^ 14 + lowest act } s.pc) ∧
      (1 ≤ p → p ≤ 2 ^ 20 → s.g.pend = .idle →
        ∃ t, exec (.faor f w) s = .next t ∧ t.g.stall = .memory ∧ t.g.r = s.g.r ∧ t.g.kept = some [.here l] ∧
          (p = 1 → s.sets = [] → s.joins = [] → s.shelf = [] → s.g.present = true →
            let bits := 8 * szBytes f.sz
            let v := (s.touch acc).perform (fun _ => memSpan ((l.head?.map Span.at_).getD 0) (szBytes f.sz))
              (fun l old => some (atomicOf (w.e2.toNat % 16) (BitVec.ofNat bits old)
                (BitVec.ofNat bits (s.g.r.dataV f.sz w.e1 l))).toNat) act
            t.mem = v.2.mem ∧ t.g.pend = .faor (v.1.map fun x => (x.1, some (some x.2)))))) ∧
    (∀ vals : List (Nat × Nat), ({ s with g := { s.g with kept := none } } : State).Ready f.g [f.a.toNat, f.x.toNat] →
      s.g.kept = some [.here l] → 1 ≤ p → p ≤ 2 ^ 20 → (∀ x ∈ vals, x.1 ∈ act) → (vals.map Prod.fst).Nodup →
      s.g.pend = .faor (vals.map fun x => (x.1, some (some x.2))) →
      ∃ t r, exec (.faor f w) s = .next t ∧
        Completed s { s with g := { s.g with r := r } } t [f.a.toNat, f.x.toNat] 16 ∧
        OnlyV s.g.r r (vDataRegs f.sz f.d.toNat) act ∧ r.pcv = s.g.r.pcv ∧
        ∀ x ∈ vals, r.holdsV f.sz f.d.toNat x.1 x.2) ∧
    (∀ lane o ms, s.Ready f.g [f.a.toNat, f.x.toNat] → s.check acc = .ok (.here l) → act = [lane] →
      s.g.pend = .idle → s.g.present = true → s.joins = [] → s.shelf = [] → s.sets = [o] → 2 ≤ p → p ≤ 2 ^ 20 →
      o.pa = (l.head?.map Span.at_).getD 0 → o.size = szBytes f.sz → o.opc = w.e2.toNat % 16 → o.p = p →
      o.members.length + 1 = p →
      let mine : SetMember := { lrid := s.lrid lane, operand := s.g.r.dataV f.sz w.e1 lane, who := s.g.p.id,
                                lane := lane, msg := none }
      (∀ m ∈ o.members, m.msg = none ∧ (m.who = s.g.p.id → m.lane ≠ lane)) →
      ms.Perm (o.members ++ [mine]) → ms.Pairwise (fun a b => a.lrid < b.lrid) →
      let bits := 8 * szBytes f.sz
      let m0 := (s.touch acc).mem
      let after (l : List SetMember) : Nat := (l.foldl (fun (v : BitVec bits) m =>
        atomicOf (w.e2.toNat % 16) v (BitVec.ofNat bits m.operand)) (BitVec.ofNat bits (BMap.readNat m0 o.pa o.size))).toNat
      let sooner (m : SetMember) : List SetMember := ms.filter fun x => decide (x.lrid < m.lrid)
      ∃ t, exec (.faor f w) s = .next t ∧ t.sets = [] ∧ t.joins = [] ∧ t.g.stall = .memory ∧
        t.mem = BMap.writeNat m0 o.pa o.size (after ms) ∧
        t.g.pend = .faor [(lane, some (some (after (sooner mine))))] ∧
        ∀ m ∈ o.members, m.who ≠ s.g.p.id → ∀ g ∈ s.others, g.p.id = m.who → g.pend = .faor [(m.lane, none)] →
          (∀ x ∈ o.members, x.who = m.who → x = m) → (∀ h ∈ s.others, h.p.id = m.who → h = g) →
          ∃ h ∈ t.others, h = { g with pend := .faor [(m.lane, some (some (after (sooner m))))] })

/-- R149, R150: ENQ and DEQ on a valid ring of this device complete. A full ring gives ENQ and an empty one gives DEQ a
status of all ones and is not changed; otherwise the element goes to the slot of TAIL, or comes from the slot of HEAD
to the buffer, the counter grows by 1, and the status is the counter's old value modulo 2^63. -/
def Obligations.Rings : Prop :=
  ∀ (f : FM) (w : W1) (s : State) (l b sl : List Span), s.Ready f.g [f.a.toNat, w.e1.toNat] →
    let lane := lowest (s.g.r.active f.g)
    let cb : Acc :=
      { mkAcc s lane (s.g.r.getN f.n.toNat) (s.source f.a.toNat) w.imm.toInt 32 true true f.c.toNat with
          align := 64, win := .globalOnly, host := false }
    let pa := (l.head?.map Span.at_).getD 0
    let head := BMap.readNat s.mem pa 8
    let tail := BMap.readNat s.mem (pa + 8) 8
    let base := BMap.readNat s.mem (pa + 16) 8
    let cap := 2 ^ BMap.readNat s.mem (pa + 24) 1
    let size := BMap.readNat s.mem (pa + 25) 1
    let buf (write : Bool) : Acc :=
      { mkAcc s lane 0 (s.source w.e1.toNat) 0 size (!write) write f.c.toNat with
          align := 8, win := .noPrivate, host := false }
    let fill := (tail + 2 ^ 64 - head) % 2 ^ 64
    let slot (i : Nat) : Nat := base + i % cap * size
    let place (s : State) (i : Nat) (write : Bool) : Except Ranked Where :=
      s.check { lane := 0, addr := if slot i + size ≤ 2 ^ 57 then some (slot i) else none, bad := slot i, size := size,
                align := 8, read := !write, write := write, win := .globalOnly, host := false, thread := false,
                ctx := s.g.p.ctx }
    s.check cb = .ok (.here l) → BMap.readNat s.mem (pa + 26) 6 = 0 → BMap.readNat s.mem (pa + 24) 1 ≤ 20 →
    size % 8 = 0 → 8 ≤ size → size ≤ 64 → base % 8 = 0 → base < 2 ^ 57 → fill ≤ cap →
    ((Instr.enq f w).wellFormed = true → s.check (buf false) = .ok (.here b) →
      let s1 := (s.touch cb).touch (buf false)
      s1.ringAt pa = s.ringAt pa →
      (fill = cap → ∃ t r, exec (.enq f w) s = .next t ∧
        Completed s { s1 with g := { s1.g with r := r } } t [f.a.toNat, w.e1.toNat] 16 ∧
        OnlyS s.g.r r [f.d.toNat] ∧ r.getS f.d.toNat = if f.d = 0#12 then 0 else BitVec.allOnes 64) ∧
      (fill < cap → place s1 tail true = .ok (.here sl) →
        let u := ((s1.touchPages s.g.p.ctx true 2 (slot tail) size).writeSpans sl (s.readSpans b)).writeSpans
          (memSpan (pa + 8) 8) ((tail + 1) % 2 ^ 64)
        ∃ t r, exec (.enq f w) s = .next t ∧
          Completed s { u with g := { u.g with r := r } } t [f.a.toNat, w.e1.toNat] 16 ∧
          OnlyS s.g.r r [f.d.toNat] ∧
          r.getS f.d.toNat = if f.d = 0#12 then 0 else BitVec.ofNat 64 (tail % 2 ^ 63))) ∧
    ((Instr.deq f w).wellFormed = true → s.check (buf true) = .ok (.here b) →
      let s1 := (s.touch cb).touch (buf true)
      s1.ringAt pa = s.ringAt pa →
      (fill = 0 → ∃ t r, exec (.deq f w) s = .next t ∧
        Completed s { s1 with g := { s1.g with r := r } } t [f.a.toNat, w.e1.toNat] 16 ∧
        OnlyS s.g.r r [f.d.toNat] ∧ r.getS f.d.toNat = if f.d = 0#12 then 0 else BitVec.allOnes 64) ∧
      (fill ≠ 0 → place s1 head false = .ok (.here sl) →
        let u := ((s1.touchPages s.g.p.ctx false 2 (slot head) size).writeSpans (memSpan pa 8)
          ((head + 1) % 2 ^ 64)).writeSpans b (s1.readSpans sl)
        ∃ t r, exec (.deq f w) s = .next t ∧
          Completed s { u with g := { u.g with r := r } } t [f.a.toNat, w.e1.toNat] 16 ∧
          OnlyS s.g.r r [f.d.toNat] ∧
          r.getS f.d.toNat = if f.d = 0#12 then 0 else BitVec.ofNat 64 (head % 2 ^ 63)))

/-- R151, R152: WAITC on a word of this device completes. Status 1 at once when the compare holds; status 0 at once when
it does not and the timeout is 0 or the 224 entries of the slice's shelf are in use; otherwise an entry is parked and
the group waits. Once woken it writes its status to kD in every active lane. A word of another device takes PROT. -/
def Obligations.WaitOnWord : Prop :=
  ∀ (f : FM) (w : W1) (s : State), (Instr.waitc f w).wellFormed = true →
    let srcs := [f.a.toNat, w.e1.toNat, f.x.toNat]
    s.Ready f.g srcs →
    let act := s.g.r.active f.g
    let size := szBytes f.sz
    let bits := 8 * size
    let acc : Acc :=
      { mkAcc s (lowest act) (s.g.r.getN f.n.toNat) (s.source f.a.toNat) w.imm.toInt size true false f.c.toNat with
          win := .globalOnly, host := false }
    let c : BitVec bits := (s.source w.e1.toNat).setWidth _
    let timeout := (s.source f.x.toNat).toNat
    let status (u : State) (b : Bool) : Prop :=
      ∃ t r, exec (.waitc f w) s = .next t ∧ Completed s { u with g := { u.g with r := r } } t srcs 16 ∧
        OnlyK s.g.r r f.d.toNat act ∧ r.pcv = s.g.r.pcv ∧
        ∀ l ∈ act, (r.getK f.d.toNat).getLsbD l = (decide (f.d = 0#12) || b)
    (∀ b, s.g.pend = .shelf (some b) → status s b) ∧
    (s.g.pend = .idle →
      (∀ a, s.check { acc.early with deny := false } = .ok (.away a) → ∃ t, exec (.waitc f w) s = .next t ∧
        Faulted s t { cause := .prot, va := a, aux := 10 * 2 ^ 48 + 2 ^ 15 + lowest act } s.pc) ∧
      (∀ l, s.check acc = .ok (.here l) →
        let holds := waitCond w.e2.toNat (BitVec.ofNat bits (s.readSpans l)) c
        let pa := (l.head?.map Span.at_).getD 0
        let inUse := s.shelf.filter fun e => e.slice == sliceOf pa
        let desks := (inUse.filter fun e => e.who.isNone).length + s.cbLines (sliceOf pa)
        let full := 224 ≤ (inUse.filter fun e => e.who.isSome).length + (desks - 32)
        (holds = true → status (s.touch acc) true) ∧
        (holds = false → (timeout = 0 ∨ full) → status (s.touch acc) false) ∧
        (holds = false → timeout ≠ 0 → ¬full →
          let e : ShelfEntry :=
            { slice := sliceOf pa, pa := pa, size := size, code := w.e2.toNat, comparand := c.toNat, ctx := s.g.p.ctx,
              who := some s.g.p.id, deadline := if timeout = 2 ^ 64 - 1 then none else some (s.gtime + timeout),
              wake := none }
          exec (.waitc f w) s = .next
            { s.touch acc with shelf := s.shelf ++ [e], g := { s.g with pend := .shelf none, stall := .shelf } })))

/-- R154, R155: the barrier objects; BARI, BARA and BARW complete. BARI sets EXPECT and clears ARRIVED; BARA counts an
arrival and gives the phase, and the arrival that fills the phase starts the next; BARW goes on once the phase has
moved, and waits before; an object that breaks its table, or a count out of range, takes PROT with reason 7. Only the
object's 16 bytes change. A BARW that waits keeps the place that its access was given (R131). The compare takes the
low 32 bits of the phase operand, the model's choice (log entry 58). -/
def Obligations.BarrierObjects : Prop :=
  ∀ (f : FM) (w : W1) (s : State) (off : Nat), (s.findBlock s.g.p.id.launch s.g.p.id.block).isSome →
    let acc (write : Bool) : Acc :=
      { mkAcc s (lowest (s.g.r.active f.g)) (s.g.r.getN f.n.toNat) (s.source f.a.toNat) w.imm.toInt 16 true write
          f.c.toNat with win := .scratchOnly }
    let field (s : State) (i : Nat) : Nat := BMap.readNat s.scratch (off + 4 * i) 4
    let others (s : State) : List Block :=
      s.blocks.filter fun b => !(b.launch == s.g.p.id.launch && b.block == s.g.p.id.block)
    let kept (t : State) : Prop :=
      others t = others s ∧ ∀ a, (a < off ∨ off + 16 ≤ a) → BMap.get t.scratch a = BMap.get s.scratch a
    let valid : Prop := 1 ≤ field s 0 ∧ field s 0 ≤ 2 ^ 20 ∧ field s 1 < field s 0 ∧ field s 3 = 0
    let at_ (write : Bool) : Prop :=
      s.check (acc write) = .ok (.here [{ scratch := true, at_ := off, len := 16 }])
    let broken (i : Instr) (write : Bool) : Prop :=
      let aux := 7 * 2 ^ 48 + (if write then 2 ^ 14 else 0) + lowest (s.g.r.active f.g)
      ∃ t, exec i s = .next t ∧ Faulted s t { cause := .prot, va := (acc write).addr.getD 0, aux := aux } s.pc
    ((Instr.bari f w).wellFormed = true → s.Ready f.g [f.a.toNat, f.d.toNat] → at_ true →
      let count := (s.source f.d.toNat).toNat
      (1 ≤ count → count ≤ 2 ^ 20 → field s 3 = 0 →
        ∃ t, exec (.bari f w) s = .next t ∧ OnlyPc s.g.r t.g.r ∧
          Completed s { s with blocks := t.blocks } t [f.a.toNat, f.d.toNat] 16 ∧ kept t ∧
          field t 0 = count ∧ field t 1 = 0 ∧ field t 2 = field s 2 ∧ field t 3 = 0) ∧
      ((count = 0 ∨ 2 ^ 20 < count ∨ field s 3 ≠ 0) → broken (.bari f w) true)) ∧
    ((Instr.bara f w).wellFormed = true → s.Ready f.g [f.a.toNat] → at_ true →
      (valid →
        let d := if s.g.u.det then { s.g.det with baras := s.g.det.baras ++ [(off, field s 2)] } else s.g.det
        ∃ t r, exec (.bara f w) s = .next t ∧ OnlyS s.g.r r [f.d.toNat] ∧
          Completed s (State.traced { s with blocks := t.blocks, g := { s.g with r := r, det := d } } s t) t
            [f.a.toNat] 16 ∧ kept t ∧
          r.getS f.d.toNat = (if f.d = 0#12 then 0 else BitVec.ofNat 64 (field s 2)) ∧
          field t 0 = field s 0 ∧ field t 3 = 0 ∧
          (field s 1 + 1 < field s 0 → field t 1 = field s 1 + 1 ∧ field t 2 = field s 2) ∧
          (field s 1 + 1 = field s 0 → field t 1 = 0 ∧ field t 2 = (field s 2 + 1) % 2 ^ 32)) ∧
      (¬valid → broken (.bara f w) true)) ∧
    ((Instr.barw f w).wellFormed = true → s.Ready f.g [f.a.toNat, w.e1.toNat] → at_ false →
      let phase := (s.source w.e1.toNat).toNat % 2 ^ 32
      let place : List Where := [.here [{ scratch := true, at_ := off, len := 16 }]]
      let resets := ((s.findBlock s.g.p.id.launch s.g.p.id.block).map Block.resets).getD []
      let d : Det := if s.g.det.baras.contains (off, phase) then
          { count := if resets.contains (off, phase) then 0 else s.g.det.count
            baras := s.g.det.baras.filter fun x => x != (off, phase) }
        else s.g.det
      let begun (k : Option (List Where)) : State := { s with g := { s.g with kept := k } }
      (valid → (∀ h ∈ s.g.held, h.send = true ∨ h.token ≠ none) → ∀ k, k ∈ [none, some place] →
        (field s 2 ≠ phase →
          ∃ t, exec (.barw f w) (begun k) = .next t ∧ OnlyPc s.g.r t.g.r ∧
            Completed s { s with g := { s.g with det := d } } t [f.a.toNat, w.e1.toNat] 16) ∧
        (field s 2 = phase → exec (.barw f w) (begun k) = .next ((begun (some place)).waiting .barrier))) ∧
      (¬valid → broken (.barw f w) false))

/-- R17, R141, R142: ACP between ranges of this device, and BPF, complete once their checks have passed and their engine
has room: they raise their token by 1 (a BPF that completes at a barrier raises none) and start the engine's work;
with the token at 15 they wait. ACP takes its scratchpad granules: the destination's to E, the source's to S. -/
def Obligations.CopyAndPrefetch : Prop :=
  ∀ (f : FM) (w : W1) (s : State),
    let tok := w.e2.toNat % 16
    let job (k : JobKind) : Job :=
      { id := s.jobNext, who := s.g.p.id, ctx := s.g.p.ctx, kind := k, start := s.gtime, reqs := [], data := [],
        writing := false }
    let started (t : State) (k : JobKind) (bs : List Block) (r : Regs) : State :=
      State.traced { s with blocks := bs, g := { s.g with r := r }, jobs := s.jobs ++ [job k],
                            jobNext := s.jobNext + 1, fab := { s.fab with tag := s.fab.tag % 2 ^ 20 } } s t
    let prefetch (t : Target) : JobKind :=
      .bpf t (mkAcc s 0 (s.g.r.getN f.n.toNat) (s.source f.a.toNat) w.imm.toInt 1 true false 0).addr
        (min (s.source f.x.toNat).toNat (2 ^ 30))
    let raised (r : Regs) : Prop :=
      r = { s.g.r with tok := r.tok } ∧ ∀ i, i < 16 → r.getTok i = s.g.r.getTok i + if i = tok then 1 else 0
    ((Instr.acp f w).wellFormed = true → s.Ready f.g [f.d.toNat, f.a.toNat, f.x.toNat] → s.g.pend = .idle →
      (s.findBlock s.g.p.id.launch s.g.p.id.block).isSome →
      let c := (s.source f.x.toNat).toNat
      let lane := lowest (s.g.r.active f.g)
      let dst : Acc :=
        { mkAcc s lane (s.g.r.getN w.e1.toNat) (s.source f.d.toNat) 0 c false true f.c.toNat with
            align := szBytes f.sz, win := .noPrivate, thread := false, eats := false }
      let src : Acc :=
        { mkAcc s lane (s.g.r.getN f.n.toNat) (s.source f.a.toNat) w.imm.toInt c true false f.c.toNat with
            align := szBytes f.sz, win := .noPrivate, thread := false, eats := false }
      let k : JobKind := .acp tok (dst.addr.getD 0) (src.addr.getD 0) c w.scope.toNat
      let covers (a g : Nat) : Prop :=
        winScratch ≤ localOf a ∧ 0 < c ∧ (localOf a - winScratch) / 4096 ≤ g ∧
          g ≤ (localOf a - winScratch + c - 1) / 4096
      s.acpFaults dst src c (szBytes f.sz) = [] → s.isLocal (dst.addr.getD 0) = true →
      s.isLocal (src.addr.getD 0) = true →
      (15 ≤ s.g.r.getTok tok → exec (.acp f w) s = .next (s.waiting .token)) ∧
      (s.g.r.getTok tok < 15 → s.engineFull s.g.p.core k = false →
        (∀ g, covers (src.addr.getD 0) g → s.ownerOf g ≠ .s 255) →
        (∀ g n, s.ownerOf g = .s n → n ≤ 255) →
        ∃ t r bs, exec (.acp f w) s = .next t ∧ raised r ∧
          Completed s (started t k bs r) t [f.d.toNat, f.a.toNat, f.x.toNat] 16 ∧
          ∀ g, (covers (dst.addr.getD 0) g → t.ownerOf g = .e) ∧
            (covers (src.addr.getD 0) g →
              t.ownerOf g = match s.ownerOf g with | .s n => .s (n + 1) | _ => .s 1) ∧
            (¬covers (dst.addr.getD 0) g → ¬covers (src.addr.getD 0) g → t.ownerOf g = s.ownerOf g))) ∧
    ((Instr.bpf f w).wellFormed = true → w.e2.toNat < 16 → s.Ready f.g [f.a.toNat, f.x.toNat] →
      (15 ≤ s.g.r.getTok tok → exec (.bpf f w) s = .next (s.waiting .token)) ∧
      (s.g.r.getTok tok < 15 → s.engineFull s.g.p.core (prefetch (.token tok)) = false →
        ∃ t r, exec (.bpf f w) s = .next t ∧ raised r ∧
          Completed s (started t (prefetch (.token tok)) s.blocks r) t [f.a.toNat, f.x.toNat] 16)) ∧
    ((Instr.bpf f w).wellFormed = true → w.e2.toNat = 2048 →
      s.Ready f.g [f.a.toNat, f.x.toNat, w.e1.toNat] →
      ∀ off, s.check { mkAcc s (lowest (s.g.r.active f.g)) 0 (s.source w.e1.toNat) 0 16 true true 0 with
          win := .scratchOnly } = .ok (.here [{ scratch := true, at_ := off, len := 16 }]) →
        s.engineFull s.g.p.core (prefetch (.barrier off)) = false →
        ∃ t, exec (.bpf f w) s = .next t ∧ OnlyPc s.g.r t.g.r ∧
          Completed s (started t (prefetch (.barrier off)) s.blocks s.g.r) t [f.a.toNat, f.x.toNat, w.e1.toNat] 16)

/-- R144, R152, R147, R174, R330: what a home slice performs on a word, and how waits end. A fetch, a compare and swap and
a flag increment write what their operands give; an accessed bit is set only while the entry, apart from A and D,
still reads as the walk saw it; a compare wakes the WAITCs of the word whose compare holds: their entries are gone,
and their group resumes with status 1. A WAITC past its timeout, or whose shelf entry is in error, resumes with status
0; a SVC SLEEP past its time is over; each member of a late ordered set is told so. -/
def Obligations.HomeSlice : Prop :=
  ∀ s : State,
    (∀ pa size opc operand, 1 ≤ size → size ≤ 16 → opc ≤ 8 →
      exec (.homeSliceOperation (.fetchOp pa size opc operand)) s = .next (s.writeSpans (memSpan pa size)
        (atomicOf opc (BitVec.ofNat (8 * size) (BMap.readNat s.mem pa size)) (BitVec.ofNat _ operand)).toNat)) ∧
    (∀ pa size cmp new, exec (.homeSliceOperation (.compareSwap pa size cmp new)) s = .next
      (if BMap.readNat s.mem pa size = cmp then s.writeSpans (memSpan pa size) new else s)) ∧
    (∀ pa, exec (.homeSliceOperation (.flagIncrement pa)) s =
      .next (s.writeSpans (memSpan pa 8) (BMap.readNat s.mem pa 8 + 1))) ∧
    (∀ pa (seen : BitVec 64) dirty, ∃ t, exec (.homeSliceOperation (.setAccessed pa seen dirty)) s = .next t ∧
      t = { s with mem := t.mem } ∧
      let now : BitVec 64 := BitVec.ofNat 64 (BMap.readNat s.mem pa 8)
      (now ||| 0xC0 ≠ seen ||| 0xC0 → t = s) ∧
      (now ||| 0xC0 = seen ||| 0xC0 →
        BMap.readNat t.mem pa 8 = (now ||| (if dirty then 0xC0 else 0x40)).toNat ∧
        ∀ a, (a < pa ∨ pa + 8 ≤ a) → BMap.get t.mem a = BMap.get s.mem a)) ∧
    (∀ pa, ∃ t, exec (.homeSliceOperation (.compare pa)) s = .next t ∧ t.mem = s.mem ∧
      ((∀ e ∈ s.shelf, e.comparand < 256 ^ e.size) → ∀ e ∈ s.shelf, e.pa = pa → e.who = some s.g.p.id →
        s.g.present = true → waitCond e.code (BitVec.ofNat (8 * e.size) (BMap.readNat s.mem e.pa e.size))
          (BitVec.ofNat _ e.comparand) = true → t.g = { s.g with pend := .shelf (some true) }) ∧
      ((∀ e ∈ s.shelf, e.comparand < 256 ^ e.size) → ∀ e, e ∈ t.shelf ↔ e ∈ s.shelf ∧ ¬(e.pa = pa ∧ e.who.isSome ∧
        waitCond e.code (BitVec.ofNat (8 * e.size) (BMap.readNat s.mem e.pa e.size))
          (BitVec.ofNat _ e.comparand) = true))) ∧
    (∀ who, s.g.p.id = who → s.g.present = true →
      let ended : State :=
        { s with shelf := s.shelf.filter fun e => e.who != some who,
                 g := { s.g with pend := if s.g.pend = .shelf none then .shelf (some false) else s.g.pend } }
      exec (.shelfEntryError who) s = .next ended ∧
      exec (.waitcTimeout who) s = .next
        (if s.shelf.any fun e => e.who == some who && e.deadline.any fun d => decide (d ≤ s.gtime) then ended else s) ∧
      ∀ u, s.g.pend = .sleep u false →
        exec (.svcSleepExpiry who) s = .next
          (if u ≤ s.gtime then { s with g := { s.g with pend := Pend.sleep u true } } else s)) ∧
    (∀ o, s.joins = [] → s.sets = [o] → o.deadline ≤ s.gtime → o.members.all (fun m => m.msg.isNone) = true →
      ∃ t, exec (.faorSetTimeout o.pa) s = .next t ∧ t.sets = [] ∧ t.mem = s.mem ∧
        ∀ lanes, s.g.present = true → s.g.pend = .faor lanes →
          (∀ m ∈ o.members, m.who = s.g.p.id) →
          t.g.pend = .faor (lanes.map fun x =>
            if o.members.any (fun m => m.lane == x.1) then (x.1, some none) else x))

/-- R189, R191, R192, R196: the tile forms and TRSM complete. A tile form whose record runs waits, and so does TRSM; a
tile form whose checks pass, or a TRSM of a faulted record whose checks pass, goes on once its token, queues and,
where it needs it, the array have room. Its record then describes it, with no child done but those that a resumed
record had. At level 0 the record runs, the token has risen by 1, and the engine has the one operation to do. At a
level above, the operation is handed to the executor of its level, at the end of what waits there. `ready` is what the
checks answer. `goes` says the same at level 0 for every form, of the tiles that its descriptors give, in the spec's
own conditions. -/
def Obligations.TileForms : Prop :=
  ∀ (f : FR) (w : W1) (s : State),
    let field (r : BitVec 12) : List Nat := if r = 0#12 then [] else [r.toNat]
    let srcs := field f.d ++ field f.a ++ field f.b ++ field w.e1
    let n := w.imm.toNat % 16
    let lane := lowest (s.g.r.active f.g)
    let value (r : BitVec 12) : Option Nat := if r = 0#12 then none else some (s.source r.toNat).toNat
    let given (opc : Nat) : TKept :=
      { opc := opc, min := f.min.toNat, regs := [value f.d, value f.a, value f.b],
        exp := if w.e1 = 0#12 then 0 else (s.source w.e1.toNat).toNat % 2 ^ 32, scope := w.scope.toNat,
        imm := w.imm.toNat, pc := s.pc }
    let old := SMap.get default s.g.recs n
    let issues (i : Instr) (fresh : Bool) (kept : TKept) : Prop :=
      ∀ ready : TStart, s.prepare lane n fresh kept = .ok ready → s.tileOwner ready.level ready.op ready.reads ready.writes lane = none →
        let array : Bool := decide (ready.level ≤ 1) && Sys2Proof.Machine.isArray kept.opc
        (∀ b, s.findBlock s.g.p.id.launch s.g.p.id.block = some b → b.full ready.reads = false) →
        (array = true → (s.leaseOf s.g.p.core).holder = none ∨ (s.leaseOf s.g.p.core).holder = some s.g.p.id) →
        (∀ k, ready.target = .token k → k < 16 ∧ s.g.r.getTok k < 15) → s.g.frozen = false →
        s.recBusy s.g.p.id n = false →
        (ready.level = 0 → s.tileReqs ready.op 0 s.g.p.ctx lane true = [] →
          s.rangeFault ready.op 0 s.g.p.ctx lane = none →
          s.engineFull s.g.p.core (.tile n 0 0 0 ready.op) = false → (fresh = true ∨ old.bitmap = []) →
          ∃ t, exec i s = .next t ∧ Moved s t 16 ∧ t.g.stall = .none ∧ t.g.pend = .idle ∧
            (SMap.get default t.g.recs n).state = 1 ∧ (SMap.get default t.g.recs n).bitmap = [] ∧
            (SMap.get default t.g.recs n).kept = kept ∧
            (∀ m, m ≠ n → SMap.get default t.g.recs m = SMap.get default s.g.recs m) ∧
            (∀ k, ready.target = .token k →
              ∀ i, i < 16 → t.g.r.getTok i = s.g.r.getTok i + if i = k then 1 else 0) ∧
            (∃ j, t.jobs = s.jobs ++ [j] ∧ j.who = s.g.p.id ∧ j.kind = .tile n 0 0 0 ready.op) ∧
            (array = true → (t.leaseOf s.g.p.core).holder = some s.g.p.id)) ∧
        (1 ≤ ready.level →
          ∃ t, exec i s = .next t ∧ Moved s t 16 ∧ t.g.stall = .none ∧ t.g.pend = .idle ∧
            (SMap.get default t.g.recs n).kept = kept ∧ (SMap.get default t.g.recs n).level = ready.level ∧
            let key := s.execKey s.g.p.id ready.level
            (SMap.get [] s.execQ key ≠ [] →
              (SMap.get default t.g.recs n).state = 1 ∧
              SMap.get [] t.execQ key = SMap.get [] s.execQ key ++ [(s.g.p.id, n)]))
    let goes (i : Instr) (fresh : Bool) (kept : TKept) : Prop :=
      ∀ (sp : Nat → List Span) (v : Nat) (va vb : Option Nat), kept.regs = [some v, va, vb] →
        (∀ x ∈ [(0, some v), (1, va), (2, vb)], ∀ y, x.2 = some y → s.check (s.descAcc lane y) = .ok (.here (sp x.1))) →
        let tile (role y : Nat) : TDesc × TIssue := parseDesc y (s.readSpans (sp role))
        let d := (tile 0 v).1
        let use := (tile 0 v).2
        let a := va.map fun y => (tile 1 y).1
        let b := vb.map fun y => (tile 2 y).1
        let e := sizeOfD kept.opc kept.min d
        let at_ : Nat × Nat := if 0xA4 ≤ kept.opc ∧ kept.opc ≤ 0xA8 then (kept.imm / 16 % 128, kept.imm / 2 ^ 11 % 256) else (0, 0)
        let op : TOp := {
          opc := kept.opc, min := kept.min, d := some (if e = 16 then { d with fmt := 30 } else d), a := a, b := b
          exp := kept.exp, scope := kept.scope, arow := at_.1, acol := at_.2, ro := 0, co := 0, ko := 0, cons := []
          plan := [] }
        use.bad = false → (∀ y, va = some y → (tile 1 y).2.bad = false) → (∀ y, vb = some y → (tile 2 y).2.bad = false) →
        use.lvl = 0 → use.plan = 0 → use.done < 16 → s.g.r.getTok use.done < 15 →
        TilesOk s kept.opc kept.min lane e at_.1 at_.2 d a b → TilesIdle s kept.opc d a b →
        (Sys2Proof.Machine.isArray kept.opc = true →
          (s.leaseOf s.g.p.core).holder = none ∨ (s.leaseOf s.g.p.core).holder = some s.g.p.id) →
        s.g.frozen = false → s.recBusy s.g.p.id n = false →
        (∀ op : TOp, op.opc = kept.opc → s.engineFull s.g.p.core (.tile n 0 0 0 op) = false) →
        (fresh = true ∨ (old.bitmap = [] ∧ old.nch = 0)) →
        ∃ t, exec i s = .next t ∧ Moved s t 16 ∧ t.g.stall = .none ∧ t.g.pend = .idle ∧
          (SMap.get default t.g.recs n).state = 1 ∧ (SMap.get default t.g.recs n).bitmap = [] ∧
          (SMap.get default t.g.recs n).kept = kept ∧
          (∀ m, m ≠ n → SMap.get default t.g.recs m = SMap.get default s.g.recs m) ∧
          (∀ i, i < 16 → t.g.r.getTok i = s.g.r.getTok i + if i = use.done then 1 else 0) ∧
          (∃ j, t.jobs = s.jobs ++ [j] ∧ j.who = s.g.p.id ∧ j.kind = .tile n 0 0 0 op ∧ j.reqs = []) ∧
          (Sys2Proof.Machine.isArray kept.opc = true → (t.leaseOf s.g.p.core).holder = some s.g.p.id)
    s.g.pend = .idle → s.g.present = true →
    (∀ mk opc, (mk, opc) ∈ [(Instr.tld, 0xA0), (.tst, 0xA1), (.tcp, 0xA2), (.wbld, 0xA3), (.tmma, 0xA4), (.tscan, 0xA5),
        (.tzero, 0xA6), (.tacrd, 0xA7), (.tacwr, 0xA8), (.tred, 0xA9), (.tew, 0xAA)] →
      (mk f w).wellFormed = true → s.Ready f.g srcs →
      (old.state = 1 → exec (mk f w) s = .next (s.waiting .token)) ∧
      (old.state ≠ 1 →
        (∀ ready k, s.prepare lane n true (given opc) = .ok ready → ready.level = 0 →
          s.tileReqs ready.op 0 s.g.p.ctx lane true = [] → s.rangeFault ready.op 0 s.g.p.ctx lane = none →
          s.tileOwner ready.level ready.op ready.reads ready.writes lane = none →
          ready.target = .token k → 15 ≤ s.g.r.getTok k → exec (mk f w) s = .next (s.waiting .token)) ∧
        issues (mk f w) true (given opc) ∧ goes (mk f w) true (given opc))) ∧
    ((Instr.trsm f w).wellFormed = true → s.Ready f.g [] →
      (old.state = 1 → exec (.trsm f w) s = .next (s.waiting .token)) ∧
      (old.state = 3 → issues (.trsm f w) false old.kept ∧ goes (.trsm f w) false old.kept) ∧
      (old.state ≠ 1 → old.state ≠ 3 → ∃ t, exec (.trsm f w) s = .next t ∧ Issued s t [] 16 ∧ OnlyPc s.g.r t.g.r))

/-- R195, R207, R218: TBMAP, TLEASE, TFREE and TFMT complete. TBMAP gives the record's bits, status, fault address, GFLUSH
and lease, or pc; TLEASE takes a free lease and otherwise asks and waits; TFREE gives it up and may clear the array
state; TFMT reads the entries of the format table. -/
def Obligations.TileSystemForms : Prop :=
  ∀ (f : FR) (w : W1) (s : State),
    let n := w.imm.toNat % 16
    let rec_ := SMap.get default s.g.recs n
    let lease := s.leaseOf s.g.p.core
    ((Instr.tbmap f w).wellFormed = true → s.Ready f.g [] →
      let value : Nat :=
        match f.min.toNat with
        | 0 => bitmapOf rec_.bitmap
        | 1 => min rec_.more 65535 * 2 ^ 32 + rec_.kept.opc % 256 * 2 ^ 13 + rec_.nch % 128 * 2 ^ 6 +
            rec_.level % 8 * 2 ^ 3 + (if rec_.gfl then 4 else 0) + rec_.state % 4
        | 2 => match rec_.fault with | some x => x.trap.va % 2 ^ 64 | none => 0
        | 3 => (if s.g.arr.gflush then 1 else 0) + (if lease.holder = some s.g.p.id then 2 else 0)
        | _ => rec_.kept.pc
      ∃ t, exec (.tbmap f w) s = .next t ∧ Issued s t [] 16 ∧ OnlyS s.g.r t.g.r [f.d.toNat] ∧
        t.g.r.getS f.d.toNat = if f.d = 0#12 then 0 else BitVec.ofNat 64 value) ∧
    ((Instr.tlease f w).wellFormed = true → s.Ready f.g [] →
      (lease.holder = some s.g.p.id →
        ∃ t, exec (.tlease f w) s = .next t ∧ Issued s t [] 16 ∧ OnlyPc s.g.r t.g.r) ∧
      (lease.holder = none → ∃ t, exec (.tlease f w) s = .next t ∧ OnlyPc s.g.r t.g.r ∧
        Completed s { s with leases := t.leases } t [] 16 ∧
        (∀ c, c ≠ s.g.p.core → t.leaseOf c = s.leaseOf c) ∧
        t.leaseOf s.g.p.core = { holder := some s.g.p.id, count := 0, since := s.clk,
                                 asks := lease.asks.filter fun a => a != s.g.p.id }) ∧
      (∀ h, lease.holder = some h → h ≠ s.g.p.id →
        ∃ t, exec (.tlease f w) s = .next t ∧ t = { s with leases := t.leases, g := { s.g with stall := .lease } } ∧
          (t.leaseOf s.g.p.core).holder = some h ∧ s.g.p.id ∈ (t.leaseOf s.g.p.core).asks)) ∧
    ((Instr.tfree f w).wellFormed = true → s.Ready f.g [] →
      (s.hasArrayWork s.g.p.id = true → exec (.tfree f w) s = .next (s.waiting .lease)) ∧
      (s.hasArrayWork s.g.p.id = false →
        ∃ t a, exec (.tfree f w) s = .next t ∧ OnlyPc s.g.r t.g.r ∧
          Completed s { s with leases := t.leases, g := { s.g with arr := a } } t [] 16 ∧
          (f.min = 0#8 → a = s.g.arr) ∧
          (f.min = 1#8 → a.acc = [] ∧ a.carry = [] ∧ a.gflush = false ∧ a.images = []) ∧
          (t.leaseOf s.g.p.core).holder ≠ some s.g.p.id)) ∧
    ((Instr.tfmt f w).wellFormed = true → s.Ready f.g [f.a.toNat] → ∀ sp : Nat → List Span,
      let count := f.min.toNat % 32
      let base := (s.source f.a.toNat).toNat
      let acc (i : Nat) : Acc :=
        { lane := lowest (s.g.r.active f.g), addr := some (base + 8 * i), size := 8, align := 8, read := true,
          bad := Config.canonAddr 0 (base + 8 * i) % 2 ^ 72, ctx := s.g.p.ctx }
      let entry (i : Nat) : BitVec 64 := BitVec.ofNat 64 (s.readSpans (sp i))
      let format (x : BitVec 4) (l : List Nat) : Bool := l.contains x.toNat
      let valid (e : BitVec 64) : Bool :=
        e.extractLsb' 14 34 == 0 && format (e.extractLsb' 8 4) [0, 1, 2, 4, 8, 9, 10, 12, 13] &&
          format (e.extractLsb' 4 4) [8, 9, 12, 13] && format (e.extractLsb' 0 4) [8, 9, 12, 13]
      base + 8 * count ≤ 2 ^ 57 → base < 2 ^ 57 → (∀ i, i < count → s.check (acc i) = .ok (.here (sp i))) →
      ((∀ i, i < count → valid (entry i) = true) →
        ∃ t es, exec (.tfmt f w) s = .next t ∧ OnlyPc s.g.r t.g.r ∧
          Completed s { s.touchAll ((List.range count).map acc) with
                          g := { s.g with fmt := es, fmtN := f.min.toNat / 64 } } t [f.a.toNat] 16 ∧
          es = (List.range count).map fun i =>
            { anchor := ((entry i).extractLsb' 48 16).toInt, scale := ((entry i).extractLsb' 12 2).toNat,
              outf := ((entry i).extractLsb' 8 4).toNat, bf := ((entry i).extractLsb' 4 4).toNat,
              af := ((entry i).extractLsb' 0 4).toNat }) ∧
      ((∃ i, i < count ∧ valid (entry i) = false) →
        ∃ t, exec (.tfmt f w) s = .next t ∧
          Faulted s t { cause := .tile, va := base, aux := 9 * 2 ^ 34 } s.pc))

/-- R141, R142, R193: the ends of engine work. An ACP within the scratchpad has copied its bytes, its token has fallen by
1 and its granules are in T; a BPF lowers its token, and the walks of its range set A; a child that faults ends its
record, at level 0, with the fault kept and held, and the token fallen. R141, R142: an ACP from global memory of this
device to the scratchpad, or from the scratchpad to global memory, leaves the source's bytes at its destination and
nothing else changed there, and its destination granules in T; a BPF that targets a barrier object counts its arrival,
and holds PROT 0x07 where the object breaks its table. R193, R209 to R217: the results of the level-0 tile operations
whose tiles lie on this device. The engine's end of an operation that meets its checks, and reads no poison, leaves
its record done and its token 1 lower; the images, the accumulators, the carries and the weight images hold what the
spec's pseudocode gives, and nothing else of the slot region, the array state or, but for TST and TRED, memory has
changed. -/
def Obligations.EngineCompletion : Prop :=
  (∀ (s : State) (j : Job), s.jobs = [j] → j.who = s.g.p.id → s.g.present = true →
      let alone (t : State) : Prop := t.jobs = [] ∧ MemoryKept s t
      (∀ tok dst src n scope, j.kind = .acp tok dst src n scope → j.reqs = [] → j.writing = false → tok < 16 →
        s.isLocal dst = true → s.isLocal src = true → winScratch ≤ localOf dst → winScratch ≤ localOf src →
        (s.findBlock s.g.p.id.launch s.g.p.id.block).isSome → 0 < n →
        let dstAt := localOf dst - winScratch
        let from_ := localOf src - winScratch
        (dstAt + n ≤ from_ ∨ from_ + n ≤ dstAt) →
        ∃ t, exec (.engineOperationComplete j.id) s = .next t ∧ alone t ∧
          (∀ i, i < n → BMap.get t.scratch (dstAt + i) = BMap.get s.scratch (from_ + i)) ∧
          (∀ x, (x < dstAt ∨ dstAt + n ≤ x) → BMap.get t.scratch x = BMap.get s.scratch x) ∧
          (∀ i, i < 16 → t.g.r.getTok i = s.g.r.getTok i - if i = tok then 1 else 0) ∧
          ∀ x, dstAt / 4096 ≤ x → x ≤ (dstAt + n - 1) / 4096 →
            (x < from_ / 4096 ∨ (from_ + n - 1) / 4096 < x) → t.ownerOf x = .t) ∧
      (∀ tok addr n, j.kind = .bpf (.token tok) addr n → tok < 16 →
        ∃ t, exec (.engineOperationComplete j.id) s = .next t ∧ t.jobs = [] ∧
          t.mem = (match addr with
            | some a => if s.isLocal a then (s.touchPages j.ctx false (n / 4096 + 2) (localOf a) n).mem else s.mem
            | none => s.mem) ∧
          ∀ i, i < 16 → t.g.r.getTok i = s.g.r.getTok i - if i = tok then 1 else 0) ∧
      (∀ n child level ex op tok rep, j.kind = .tile n child level ex op → tok < 16 →
        let r := SMap.get default s.g.recs n
        r.state = 1 → r.level = 0 → r.reports = [] → r.target = .token tok →
        ∃ t, exec (.tileChildFault s.g.p.id n child rep) s = .next t ∧ alone t ∧
          (SMap.get default t.g.recs n).state = 3 ∧
          (SMap.get default t.g.recs n).fault = some { rep with index := child } ∧
          (∃ h, t.g.held = s.g.held ++ [h] ∧ h.token = some tok ∧ h.trap.cause = rep.trap.cause ∧
            h.trap.va = rep.trap.va) ∧
          ∀ i, i < 16 → t.g.r.getTok i = s.g.r.getTok i - if i = tok then 1 else 0)) ∧
  (∀ (s : State) (j : Job), s.jobs = [j] → j.who = s.g.p.id → s.g.present = true →
      (s.findBlock s.g.p.id.launch s.g.p.id.block).isSome →
      let lowered (t : State) (tok : Nat) : Prop := ∀ i, i < 16 → t.g.r.getTok i = s.g.r.getTok i - if i = tok then 1 else 0
      let walked (write : Bool) (va n : Nat) : State := s.touchPages j.ctx write (n / 4096 + 2) va n
      (∀ tok dst src n scope l, j.kind = .acp tok dst src n scope → j.reqs = [] → j.writing = false → tok < 16 → 0 < n →
        s.isLocal dst = true → s.isLocal src = true →
        (winScratch ≤ localOf dst → localOf src < winPrivate →
          s.pageSpans j.ctx {} (n / 4096 + 2) (localOf src) n = (l, none) →
          let dstAt := localOf dst - winScratch
          ∃ t, exec (.engineOperationComplete j.id) s = .next t ∧ t.jobs = [] ∧ t.g.held = s.g.held ∧ lowered t tok ∧
            t.mem = (walked false (localOf src) n).mem ∧
            (∀ i, i < n → (BMap.get t.scratch (dstAt + i)).toNat = s.readSpans l / 256 ^ i % 256) ∧
            (∀ x, (x < dstAt ∨ dstAt + n ≤ x) → BMap.get t.scratch x = BMap.get s.scratch x) ∧
            ∀ x, dstAt / 4096 ≤ x → x ≤ (dstAt + n - 1) / 4096 → t.ownerOf x = .t) ∧
        (localOf dst < winPrivate → winScratch ≤ localOf src →
          s.pageSpans j.ctx { write := true } (n / 4096 + 2) (localOf dst) n = (l, none) →
          let from_ := localOf src - winScratch
          ∃ t, exec (.engineOperationComplete j.id) s = .next t ∧ t.jobs = [] ∧ t.g.held = s.g.held ∧ lowered t tok ∧
            t.mem = ((walked true (localOf dst) n).writeSpans l (BMap.readNat s.scratch from_ n)).mem ∧
            ∀ x, BMap.get t.scratch x = BMap.get s.scratch x)) ∧
      (∀ off addr n, j.kind = .bpf (.barrier off) addr n →
        let field (u : State) (i : Nat) : Nat := BMap.readNat u.scratch (off + 4 * i) 4
        let valid : Prop := 1 ≤ field s 0 ∧ field s 0 ≤ 2 ^ 20 ∧ field s 1 < field s 0 ∧ field s 3 = 0
        ∃ t, exec (.engineOperationComplete j.id) s = .next t ∧ t.jobs = [] ∧
          (∀ i, i < 16 → t.g.r.getTok i = s.g.r.getTok i) ∧
          (∀ x, (x < off ∨ off + 16 ≤ x) → BMap.get t.scratch x = BMap.get s.scratch x) ∧
          (valid → t.g.held = s.g.held ∧ field t 0 = field s 0 ∧ field t 3 = 0 ∧
            (field s 1 + 1 < field s 0 → field t 1 = field s 1 + 1 ∧ field t 2 = field s 2) ∧
            (field s 1 + 1 = field s 0 → field t 1 = 0 ∧ field t 2 = (field s 2 + 1) % 2 ^ 32)) ∧
          (¬valid → (∀ x, BMap.get t.scratch x = BMap.get s.scratch x) ∧
            t.g.held = s.g.held ++ [⟨none, false, false,
              { cause := .prot, va := winScratch + off, aux := 7 * 2 ^ 48 + 2 ^ 14 }⟩]))) ∧
  (∀ (s : State) (j : Job) (n tok : Nat) (op : TOp) (d : TDesc) (sp : Nat → List Span),
      s.jobs = [j] → j.who = s.g.p.id → s.g.present = true → j.kind = .tile n 0 0 0 op → j.ctx = s.g.p.ctx → j.reqs = [] →
      j.writing = false → tok < 16 → s.poison = [] → s.scratchPoison = [] → s.g.arr.bad = [] →
      (s.findBlock s.g.p.id.launch s.g.p.id.block).isSome →
      (∀ x ∈ d :: (op.a.toList ++ op.b.toList), x.rc ≤ x.rows ∧ x.cc ≤ x.cols) →
      let r := SMap.get default s.g.recs n
      let e := sizeOfD op.opc op.min d
      let row (i : Nat) : Nat := s.readSpans (sp i)
      let at_ (i : Nat) : Nat := d.base + i * d.stride
      let touched (w : Bool) (u : State) (i : Nat) : State := u.touchPages s.g.p.ctx w (d.cc * e / 4096 + 2) (at_ i) (d.cc * e)
      let place (w : Bool) (u : State) (va len : Nat) : List Span :=
        (u.pageSpans s.g.p.ctx { write := w } (len / 4096 + 2) va len).1
      let store (u : State) (va len v : Nat) : State :=
        (u.touchPages s.g.p.ctx true (len / 4096 + 2) va len).writeSpans (place true u va len) v
      r.state = 1 → r.level = 0 → r.reports = [] → r.bitmap = [] → r.target = .token tok →
      op.d = some (if e = 16 then { d with fmt := 30 } else d) → d.empty = false →
      TilesOk s op.opc op.min 0 e op.arow op.acol d op.a op.b →
      (∀ i, i < d.rc → s.check (rowAcc s op.opc 0 d e i (d.cc * e)) = .ok (.here (sp i))) →
      ∃ t, exec (.engineOperationComplete j.id) s = .next t ∧ t.jobs = [] ∧
        (SMap.get default t.g.recs n).state = 2 ∧ (SMap.get default t.g.recs n).bitmap = [0] ∧ t.g.held = s.g.held ∧
        (∀ i, i < 16 → t.g.r.getTok i = s.g.r.getTok i - if i = tok then 1 else 0) ∧
        (∀ x ∈ r.writes, x ∉ r.reads → t.ownerOf x = .t) ∧
        (op.opc ∉ [0xA0, 0xA1, 0xA3, 0xA9] → MemoryKept s t) ∧
        (op.opc ∉ [0xA0, 0xA2, 0xA7, 0xAA] → ∀ x, BMap.get t.scratch x = BMap.get s.scratch x) ∧
        (op.opc ∉ [0xA3, 0xA4, 0xA5, 0xA6, 0xA8] → t.g.arr = s.g.arr) ∧
        (op.opc = 0xA0 →
          (∀ i b, i < d.rc → touched false { s with blocks := b } i = { s with blocks := b }) → MemoryKept s t ∧
          imageHolds s.scratch t.scratch d d.rows d.cols
            (fun i j => if d.inside i j then row i / 256 ^ (j * e) % 256 ^ e else 0)) ∧
        (op.opc = 0xA1 → t.mem = ((List.range d.rc).foldl (fun u i =>
            store u (at_ i) (d.cc * e) (BMap.readNat s.scratch (d.imageAt + i * d.rowBytes) (d.cc * e))) s).mem) ∧
        (∀ a, op.a = some a →
          (op.opc = 0xA2 → imageHolds s.scratch t.scratch d d.rc d.cc fun i j =>
            convert a.fmt d.fmt 0 0 (if op.min.testBit 0 then a.srcEl s.scratch j i else a.srcEl s.scratch i j)) ∧
          (op.opc = 0xA4 → a.empty = false → ∀ w, s.g.arr.images.find? (fun w =>
              w.slot == a.slot && w.fmt == a.fmt && w.cw == a.cw && w.scaled == a.scaled && w.rows == a.rows && w.cols == a.cols) = some w →
            accHolds s.g.arr t.g.arr op.arow op.acol d.rc a.cc (fun i j =>
              tmmaElem s.scratch w d a i j (if op.min.testBit 0 then (0x3F800000, 0) else s.g.arr.getAcc (op.arow + i) (op.acol + j))) ∧
            carryHolds s.g.arr t.g.arr 0 0 (fun _ => (0, true)) ∧ t.g.arr.images = s.g.arr.images) ∧
          (op.opc = 0xA5 → 0 < d.rc →
            let val (x : TDesc) (i j : Nat) : Num.Val := Num.decodeTy x.fmt 0 64 (x.srcEl s.scratch i j)
            let isNan (v : Num.Val) : Bool := match v with | .nan => true | _ => false
            let isInf (v : Num.Val) : Bool := match v with | .inf _ => true | _ => false
            let net (j : Nat) : List ScanEl × Bool := scanNet ((List.range d.rc).map fun i =>
              { g := Num.encodeTy 10 0 64 .rne false (val d i j), o := Num.anchorInt .rne (val a i j) a.anchor 80
                bad := isNan (val d i j) || isNan (val a i j) || isInf (val d i j) })
            let el (i j : Nat) : ScanEl := (net j).1.getD i default
            let c (j : Nat) : BitVec 80 × Bool := if op.min.testBit 1 then (0, true) else s.g.arr.getCarry (op.acol + j)
            let h (i j : Nat) : BitVec 80 := BitVec.ofInt 80 (scanMul (el i j).g (c j).1.toInt (el i j).o)
            let ok (i j : Nat) : Bool := !(el i j).bad && (c j).2
            accHolds s.g.arr t.g.arr op.arow op.acol d.rc d.cc (fun i j =>
              (if ok i j then (if op.min.testBit 0 then BitVec.ofNat 32 (el i j).g else 0x3F800000) else 0x7FC00000, h i j)) ∧
            carryHolds s.g.arr t.g.arr op.acol d.cc (fun j => (h (d.rc - 1) j, ok (d.rc - 1) j)) ∧
            t.g.arr.gflush = (s.g.arr.gflush || (List.range d.cc).any fun j => (net j).2) ∧ t.g.arr.images = s.g.arr.images) ∧
          (op.opc = 0xA9 →
            let v (i j : Nat) : Nat :=
              Num.codeOf (Num.anchorInt .rne (Num.decodeTy a.fmt 0 64 (a.getEl s.scratch i j)) d.anchor (8 * e)) (8 * e)
            let word (i j : Nat) : Option Nat := match op.min % 4 with
              | 0 => if d.inside i j then some (d.base + i * d.stride + j * e) else none
              | 1 => if d.inside 0 j then some (d.base + j * e) else none
              | _ => if d.inside 0 0 then some d.base else none
            t.mem = ((List.range a.rc).foldl (fun u i => (List.range a.cc).foldl (fun u j => match word i j with
              | some va => store u va e ((u.readSpans (place false u va e) + v i j) % 256 ^ e)
              | none => u) u) s).mem) ∧
          (op.opc = 0xAA → imageHolds s.scratch t.scratch d d.rc d.cc fun i j =>
            let y : Num.Val := match op.b with | some b => Num.decodeTy b.fmt 0 64 (b.srcEl s.scratch i j) | none => .nan
            let ints : Bool := decide (a.fmt ≤ 7) && (match op.b with | some b => decide (b.fmt ≤ 7) | none => true)
            Num.encodeTy d.fmt 0 64 (Num.rmOf 0 d.fmt ints) false
              (tewVal (op.min % 8) (Num.clampInt (Num.signed op.exp 32) (-100000) 100000)
                (Num.decodeTy a.fmt 0 64 (a.srcEl s.scratch i j)) y))) ∧
        (op.opc = 0xA3 → (∀ i, i < d.rc → touched false s i = s) → MemoryKept s t ∧
          ∃ w, t.g.arr.images = (s.g.arr.images.filter fun y =>
              decide (y.slot + y.count ≤ d.slot) || decide (d.slot + ceilDiv (d.rows * d.cols * e) 2048 ≤ y.slot)) ++ [w] ∧
            w.slot = d.slot ∧ w.count = ceilDiv (d.rows * d.cols * e) 2048 ∧ w.fmt = d.fmt ∧ w.cw = false ∧ w.scaled = false ∧
            w.rows = d.rows ∧ w.cols = d.cols ∧
            ∀ k j, k < d.rows → j < d.cols →
              NMap.get w.codes (k * d.cols + j) = if d.inside k j then row k / 256 ^ (j * e) % 256 ^ e else 0) ∧
        (op.opc = 0xA6 → accHolds s.g.arr t.g.arr op.arow op.acol d.rc d.cc (fun _ _ => (0x3F800000, 0)) ∧
          carryHolds s.g.arr t.g.arr op.acol (if op.min.testBit 0 then d.cc else 0) (fun _ => (0, true)) ∧
          t.g.arr.gflush = (s.g.arr.gflush && !op.min.testBit 1) ∧ t.g.arr.images = s.g.arr.images) ∧
        (op.opc = 0xA7 → imageHolds s.scratch t.scratch d d.rc d.cc fun i j =>
          let x := s.g.arr.getAcc (op.arow + i) (op.acol + j)
          let c := s.g.arr.getCarry (op.acol + j)
          match op.min % 4 with
          | 0 => readout d.fmt d.anchor x.2 (!gainNaN x.1)
          | 1 => convert 10 d.fmt 0 0 x.1.toNat
          | _ => readout d.fmt d.anchor c.1 c.2) ∧
        (op.opc = 0xA8 → op.min % 4 ≤ 2 →
          let val (i j : Nat) : Num.Val := Num.decodeTy d.fmt 0 64 (d.getEl s.scratch i j)
          let off (i j : Nat) : BitVec 80 := BitVec.ofInt 80 (Num.anchorInt .rne (val i j) d.anchor 80)
          accHolds s.g.arr t.g.arr op.arow op.acol (if op.min % 4 ≤ 1 then d.rc else 0) d.cc (fun i j =>
            let x := s.g.arr.getAcc (op.arow + i) (op.acol + j)
            if op.min % 4 = 0 then (x.1, off i j)
            else (BitVec.ofNat 32 (Num.encodeTy 10 0 64 .rne false (val i j)), x.2)) ∧
          carryHolds s.g.arr t.g.arr op.acol (if op.min % 4 ≤ 1 ∨ d.rc = 0 then 0 else d.cc) (fun j => (off 0 j, true)) ∧
          t.g.arr.images = s.g.arr.images))

/-- R199, R203: a child of level 1 or above that has run sets its bit while other children of its record still run; one
that a request to another device failed is reported as faulted, with the level at which another device found the
fault, or 3 when that device has not answered. R193, R199, R203, R204, R214: the last child of a record of level 1 or
above leaves the record done, its token 1 lower and its executor's queue without it; a child of level 1 that zeroes
accumulators leaves them zero and sets its bit. R207: once a tenure is over and the one group that asks is of another
partition, the lease passes to it; before, nothing changes. -/
def Obligations.TileChildrenAndLease : Prop :=
  (∀ (s : State) (j : Job) (n child level ex : Nat) (op : TOp), s.kidJob j.who n child = some j →
      j.kind = .tile n child level ex op →
      (∀ r, 1 ≤ level → reqsFault j.reqs j.writing = some r →
        let found : Nat := if level ≠ 4 ∨ ex = s.devloc.toNat then 0
          else match j.reqs.head?.bind ReqOut.answer with | some (.fault _ ((_, l) :: _)) => l | _ => 3
        exec (.tileChildComplete j.who n child) s = .next { s with agenda := s.agenda ++ [.tileChildFault j.who n child
          { level := found, index := child, rorg := op.ro, corg := op.co, trap := r.trap }] }) ∧
      (j.writing = true → reqsFault j.reqs j.writing = none → j.who = s.g.p.id → s.g.present = true →
        (∃ y ∈ s.jobs, y.id ≠ j.id ∧ y.who = j.who ∧ ∃ i l e o, y.kind = .tile n i l e o) →
        ∃ t, exec (.tileChildComplete j.who n child) s = .next t ∧ MemoryKept s t ∧
          t.jobs = s.jobs.filter (fun y => y.id != j.id) ∧
          child ∈ (SMap.get default t.g.recs n).bitmap ∧
          (SMap.get default t.g.recs n).state = (SMap.get default s.g.recs n).state)) ∧
  (∀ (s : State) (j : Job) (n child level ex : Nat) (op : TOp), s.kidJob j.who n child = some j →
      j.kind = .tile n child level ex op → j.who = s.g.p.id → s.g.present = true →
      let r := SMap.get default s.g.recs n
      (∀ tok kids, j.writing = true → reqsFault j.reqs j.writing = none → (∀ y ∈ s.jobs, y.who = j.who → y.id = j.id) →
        r.state = 1 → 1 ≤ r.level → r.reports = [] → r.target = .token tok → tok < 16 →
        s.kids (keyOf j.who) (dieOf s.g.p.core) r.level r.op = .ok kids →
        (∀ k ∈ kids, k.index = child ∨ k.index ∈ r.bitmap) →
        s.execQ = [(s.execKey j.who r.level, [(j.who, n)])] →
        ∃ t, exec (.tileChildComplete j.who n child) s = .next t ∧ MemoryKept s t ∧
          (SMap.get default t.g.recs n).state = 2 ∧ child ∈ (SMap.get default t.g.recs n).bitmap ∧
          SMap.get [] t.execQ (s.execKey j.who r.level) = [] ∧ t.g.held = s.g.held ∧
          ∀ i, i < 16 → t.g.r.getTok i = s.g.r.getTok i - if i = tok then 1 else 0) ∧
      (∀ d, level = 1 → j.writing = false → j.reqs = [] → j.ctx = s.g.p.ctx → op.opc = 0xA6 → op.d = some d →
        d.empty = false → op.a = none → op.b = none → TilesOk s 0xA6 op.min 0 d.e op.arow op.acol d none none →
        s.g.arr.bad = [] → (s.findBlock s.g.p.id.launch s.g.p.id.block).isSome →
        (∃ y ∈ s.jobs, y.id ≠ j.id ∧ y.who = j.who ∧ ∃ i l e o, y.kind = .tile n i l e o) →
        ∃ t, exec (.tileChildComplete j.who n child) s = .next t ∧ MemoryKept s t ∧
          t.jobs = s.jobs.filter (fun y => y.id != j.id) ∧ child ∈ (SMap.get default t.g.recs n).bitmap ∧
          (SMap.get default t.g.recs n).state = r.state ∧
          accHolds s.g.arr t.g.arr op.arow op.acol d.rc d.cc (fun _ _ => (0x3F800000, 0)) ∧
          carryHolds s.g.arr t.g.arr op.acol (if op.min.testBit 0 then d.cc else 0) (fun _ => (0, true)))) ∧
  (∀ (s : State) (core : Nat),
      let l := s.leaseOf core
      let tenureUp : Prop := 32 ≤ l.count ∨ l.since + 8192 ≤ s.clk
      (∀ h a, l.holder = some h → tenureUp → l.asks = [a] → s.partOf a ≠ s.partOf h → s.hasArrayWork h = false →
        ∃ t, exec (.leaseTenureEnd core) s = .next t ∧ t = { s with leases := t.leases } ∧
          t.leaseOf core = { holder := some a, count := 0, since := s.clk, asks := [] }) ∧
      ((l.holder = none ∨ ¬tenureUp ∨ l.asks = []) → exec (.leaseTenureEnd core) s = .next s))

/-- R242, R245, R247, R248, R252, R260: native code; BUNDLE_ISSUE, IBSET, XCMP and RESULT_ARRIVAL complete. IBSET's value
waits for the second bundle after it. XCMP changes nothing where the duplicates agree, or no lane is active; a
mismatch discards the region, restores the checkpoint, and marks the virtual instruction for the companion to check.
Missing data that arrives lets its group go on. A bundle whose slots are all empty advances its lanes by one bundle; a
bundle that needs missing data waits; a group outside every translation issues none. R242, R250, R252: a bundle whose
slots are all empty, and that does not follow the first half of a long operation, issues in its group's region: it
advances its lanes by one bundle. -/
def Obligations.NativeBundles : Prop :=
  (∀ s : State,
      (∀ (p : BitVec 4) (r : BitVec 10) (imm : BitVec 20), (Instr.ibset p r imm).wellFormed = true →
        (s.g.bundleActive p = [] → exec (.ibset p r imm) s = .next s) ∧
        (s.g.bundleActive p ≠ [] → ∃ n, exec (.ibset p r imm) s = .next { s with g := { s.g with nat := n } } ∧
          n = { s.g.nat with ibPend := s.g.nat.ibPend ++
                               [(s.g.nat.pos + 2, 4 * (r.toNat / 512) + r.toNat % 4, imm.toNat % 1024)] })) ∧
      (∀ p d a voff, s.xlatOf s.g = none → exec (.xcmp p d a voff) s = .next s) ∧
      (∀ p d a (voff : BitVec 16) t, s.xlatOf s.g = some t →
        let act := s.g.bundleActive p
        (act = [] → exec (.xcmp p d a voff) s = .next s) ∧
        let bad : Prop := s.g.differs t act d a = true ∨ Config.softError s.tick s.free = true
        (act ≠ [] → ∃ u, exec (.xcmp p d a voff) s = .next u ∧ (¬bad → u = s) ∧
          (bad → u = { s with g := u.g, profiles := u.profiles } ∧
            u.g.nat.on = false ∧ u.g.nat.gate = [] ∧ u.g.nat.flight = [] ∧ u.g.nat.hold = true ∧
            (s.g.nat.mid = none → u.g.stall = .none ∧ u.g.pend = .idle) ∧
            u.g.nat.checking = some ((t.rows.getD s.g.nat.row default).vpc + 8 * voff.toNat) ∧
            u.g.r.k = s.g.nat.check.k ∧ u.g.r.n = s.g.nat.check.n ∧ u.g.r.lc = s.g.nat.check.lc ∧
            u.g.r.fmtbase = s.g.nat.check.fmtbase ∧ u.g.fmt = s.g.nat.check.fmt ∧
            (SMap.get default u.profiles t.id).faults =
              NMap.bump (SMap.get default s.profiles t.id).faults s.g.bundleIndex ∧
            (SMap.get default u.profiles t.id).entries = (SMap.get default s.profiles t.id).entries))) ∧
      (∀ who i, s.g.p.id = who → s.g.present = true →
        ∃ t, exec (.resultArrival who i) s = .next t ∧
          t = { s with g := { s.g with nat := t.g.nat, stall := t.g.stall } } ∧
          t.g.nat = { s.g.nat with flight := t.g.nat.flight } ∧
          (∀ j : Nat, t.g.nat.flight[j]? = (s.g.nat.flight[j]?).map fun x => if j = i then { x with missing := false } else x) ∧
          (s.g.stall = .memory → s.g.nat.on = true → t.g.stall = .none)) ∧
      (∀ t, s.g.nat.on = true → s.g.nat.mid = none → s.xlatOf s.g = some t → t.bundles[s.g.bundleIndex]? = some 0 →
        bundleOk t s.g.bundleIndex = true → s.g.nat.ibPend = [] →
        (s.g.nat.flight = [] → ∃ u, exec .bundleIssue s = .next u ∧
          u = { s with profiles := u.profiles
                       g := { s.g with stall := .none, pend := .idle, kept := none, nat := u.g.nat } } ∧
          u.g.nat = { s.g.nat with pos := s.g.nat.pos + 1, npc := u.g.nat.npc } ∧
          (∀ l ∈ s.g.bundleLanes, NMap.get u.g.nat.npc l = NMap.get s.g.nat.npc l + 1) ∧
          (∀ l, l ∉ s.g.bundleLanes → NMap.get u.g.nat.npc l = NMap.get s.g.nat.npc l) ∧
          (SMap.get default u.profiles t.id).clk = (SMap.get default s.profiles t.id).clk + 1) ∧
        (∀ x, s.g.nat.flight = [x] → x.due ≤ s.g.nat.pos → x.missing = true →
          exec .bundleIssue s = .next (s.waiting .memory))) ∧
      (s.g.nat.on = false → s.xlats = [] → s.olds = [] → exec .bundleIssue s = .next s)) ∧
  (∀ (s : State) (t : Translation), s.g.nat.on = true → s.g.nat.mid = none → s.xlatOf s.g = some t →
      t.bundles[s.g.bundleIndex]? = some 0 → s.g.nat.ibPend = [] → s.g.nat.flight = [] →
      (∀ p b, s.g.bundleIndex = p + 1 → t.bundles[p]? = some b → startsLong b = false) →
      ∃ u, exec .bundleIssue s = .next u ∧
        u = { s with profiles := u.profiles
                     g := { s.g with stall := .none, pend := .idle, kept := none, nat := u.g.nat } } ∧
        u.g.nat = { s.g.nat with pos := s.g.nat.pos + 1, npc := u.g.nat.npc } ∧
        (∀ l ∈ s.g.bundleLanes, NMap.get u.g.nat.npc l = NMap.get s.g.nat.npc l + 1) ∧
        (∀ l, l ∉ s.g.bundleLanes → NMap.get u.g.nat.npc l = NMap.get s.g.nat.npc l) ∧
        (SMap.get default u.profiles t.id).clk = (SMap.get default s.profiles t.id).clk + 1)

/-- R175, R266, R267, R270 to R273: the translation service. An ICINV that completes has withdrawn every translation of
its context that meets its range, and is outstanding no more. A group that waits at a procedure goes on when a
translation that holds it stands, and otherwise the service makes one, and it goes on; after 100 ms it takes XLAT. An
offered translation that breaks the rules of R249, R254 to R265 or R272, whose words are not those in memory, or that
hoists a load that has aborted 8 times, is not installed; one that passes gets an identifier of its own, and the
groups that wait for it go on; a package of a peer is installed like it, when it verifies, and answered DONE (the
model's choice of reply, log entry 62). A hot procedure is marked. R267, R272, R273, R401, R404: a translation that
has no bundles, of words as memory holds them, is installed where no other is; a package of such a translation, from a
peer that the trust domain holds and whose measurements are this device's, is installed too and answered DONE. -/
def Obligations.TranslationService : Prop :=
  (∀ s : State,
      (∀ id, s.icinvs.find? (fun e => e.id == id) = none → exec (.icinvComplete id) s = .next s) ∧
      (∀ e, s.icinvs.find? (fun x => x.id == e.id) = some e → s.g.p.id = e.who → s.g.present = true →
        ∃ t, exec (.icinvComplete e.id) s = .next t ∧ MemoryKept s t ∧
          t.icinvs = s.icinvs.filter (fun x => x.id != e.id) ∧ t.g.icinvs = s.g.icinvs.filter (fun x => x != e.id) ∧
          (∀ x ∈ t.xlats, x.ctx = e.ctx → ∀ w ∈ x.words, ¬(0 < e.len ∧ w.1 < e.start + e.len ∧ e.start < w.1 + 8)) ∧
          (s.xlats = [] → s.olds = [] → t = { s with icinvs := t.icinvs, g := { s.g with icinvs := t.g.icinvs } })) ∧
      (∀ who callee since, s.g.p.id = who → s.g.present = true → s.g.pend = .xlate callee since →
        let stands (t : Translation) : Bool := t.ctx == s.g.p.ctx && t.xchk == s.g.u.xchk &&
          ((t.entry == callee && !t.words.isEmpty) || (SMap.find? t.words callee).isSome)
        (s.xlats.find? stands = none → ∃ t, exec (.translationStubCall who callee) s = .next t ∧
          t.g = { s.g with pend := .idle, stall := .none } ∧
          ∃ x ∈ t.xlats, x.ctx = s.g.p.ctx ∧ x.xchk = s.g.u.xchk ∧ x.entry = callee ∧ t.mem = (s.touchCode x).mem) ∧
        (∀ x, s.xlats.find? stands = some x →
          ∃ t, exec (.translationStubCall who callee) s = .next t ∧
            t = { s with xlats := t.xlats, others := t.others, g := { s.g with pend := .idle, stall := .none } } ∧
            ∀ y ∈ t.xlats, y.ctx = s.g.p.ctx → y.xchk = s.g.u.xchk → ∀ c ∈ y.calls, c.1 = callee → c.2 = some x.nba)) ∧
      (∀ who va since, s.g.p.id = who → s.g.present = true → s.g.pend = .xlate va since → va < 0x1FD * 2 ^ 48 →
        (since + 100000000 ≤ s.gtime → ∃ t, exec (.xlatTimeout who) s = .next t ∧
          Faulted s t { cause := .xlat, va := 0, aux := 0 } s.pc) ∧
        (s.gtime < since + 100000000 → exec (.xlatTimeout who) s = .next s)) ∧
      (∀ t, s.olds = [] → (xlatOk t = false ∨ s.wordsNow t = false ∨ s.hoistsOk t = false) →
        exec (.translationInstall t) s = .next s) ∧
      (∀ t, s.olds = [] → xlatOk t = true → s.wordsNow t = true → s.hoistsOk t = true →
        s.bundlesUsed + t.bundles.length ≤ 2 ^ 29 →
        ∃ u new, exec (.translationInstall t) s = .next u ∧ u.mem = (s.touchCode t).mem ∧ new ∈ u.xlats ∧
          new.bundles = t.bundles ∧ new.words = t.words ∧ new.rows = t.rows ∧ new.entry = t.entry ∧ new.ctx = t.ctx ∧
          (∀ x ∈ s.xlats, x.id ≠ new.id) ∧
          ∀ since, s.g.present = true → s.g.pend = .xlate t.entry since → s.g.p.ctx = t.ctx → s.g.u.xchk = t.xchk →
            u.g.pend = .idle ∧ u.g.stall = .none) ∧
      (∀ p, s.asleepFor p.msg = none → s.waitsBefore p.msg = none →
        let reply (u : State) (r : Msg) : State := { u with fab := { u.fab with out := u.fab.out ++ [r] } }
        let done := p.msg.reply s.devloc.toNat 0x19 [] none
        (2 ≤ s.boot.stage → s.packageOk p = false → exec (.xpkg p) s = .next (reply s done)) ∧
        (2 ≤ s.boot.stage → s.packageOk p = true → ∃ u, exec (.translationInstall p.t) s = .next u ∧
          exec (.xpkg p) s = .next (reply u done))) ∧
      (∀ id, let p := SMap.get default s.profiles id
        s.gtime ≤ p.window + 100000000 →
        (10000 < p.entries ∨ 172800000 < p.clk ∨ (∃ a ∈ p.aborts, 8 ≤ a.2) → ∃ t, exec (.hotRetranslation id) s = .next t ∧
          t = { s with xlats := t.xlats, profiles := t.profiles } ∧ (∀ x ∈ t.xlats, x.id = id → x.hot = true) ∧
          (SMap.get default t.profiles id).entries = 0 ∧ (SMap.get default t.profiles id).clk = 0 ∧
          ∀ a ∈ p.aborts, 8 ≤ a.2 → a.1 ∈ (SMap.get default t.profiles id).unhoist) ∧
        (p.entries ≤ 10000 → p.clk ≤ 172800000 → (∀ a ∈ p.aborts, a.2 < 8) →
          exec (.hotRetranslation id) s = .next s)) ∧
      ((s.ringAt (s.cbAt 0)).fill = 2 ^ (s.ringAt (s.cbAt 0)).logcap →
        exec .translatorKernelStart s = .next s) ∧
      (∀ sp, let r := s.ringAt (s.cbAt 0)
        r.valid = true → r.esize = 64 → r.fill < 2 ^ r.logcap → s.slotSpans 0 r r.tail true = .ok sp → s.shelf = [] →
        ∃ t, exec .translatorKernelStart s = .next t ∧ t.g = s.g ∧
          BMap.readNat t.mem (s.cbAt 0 + 8) 8 = (r.tail + 1) % 2 ^ 64)) ∧
  (∀ (s : State) (x : Translation), s.xlats = [] → s.olds = [] → x.bundles = [] →
      (∀ w ∈ x.words, ∃ f, s.leafOf x.ctx { fetch := true } w.1 = .ok f ∧ Mem.read64 s.mem (f.pa w.1) = w.2) →
      let installed (u : State) : Prop := ∃ new ∈ u.xlats, new.bundles = [] ∧ new.words = x.words ∧ new.entry = x.entry ∧
        new.ctx = x.ctx ∧ new.xchk = x.xchk ∧
        ∀ since, s.g.present = true → s.g.pend = .xlate x.entry since → s.g.p.ctx = x.ctx → s.g.u.xchk = x.xchk →
          u.g.pend = .idle ∧ u.g.stall = .none
      (∃ u, exec (.translationInstall x) s = .next u ∧ installed u) ∧
      (∀ p : Package, p.t = x → p.msg.type = 0x10 → 2 ≤ s.boot.stage → s.devPower ≠ 4 →
        (∀ d, (s.dieSt d).power ≠ 3 ∧ (s.dieSt d).off = false) → s.pageWaits = [] →
        Config.shake256 [p.peer.identity] ∈ s.boot.domain →
        Config.mldsaVerify p.peer.identity (Config.shake256 [p.peer.key]) p.peer.certificate = true →
        p.peer.slots = [2, 3, 4].map (NMap.get s.boot.slots) →
        Config.mldsaVerify p.peer.key (Config.shake256 (packageSigned p (s.featuresAt x.ctx x.entry))) p.signature = true →
        ∃ u, exec (.xpkg p) s = .next u ∧ installed u ∧ p.msg.reply s.devloc.toNat 0x19 [] none ∈ u.fab.out))

/-- R282, R290 to R293: the resident loader. Without a request at the head of its ring nothing happens. A request whose
fields are refused is answered 0x0C, an object whose header is refused 0x01, an object that loads 0 with its base and
handle, once it is published. An unload of an unknown handle is answered 0x0C, one in use by a launch 0x0D; else the
object is gone. A bound stub sends its waiting lanes to the symbol's value, whether its slot still holds the stub or
another load has filled it; an unknown name gives them XLAT. R274, R290, R291: a load request for an object whose
header is that of R274 and which has no section is answered 0, at the base that it names: a multiple of 4096 below the
binding stubs. -/
def Obligations.ObjectService : Prop :=
  (∀ (s : State) (ctx : Nat),
      (s.loaderHead ctx = none → exec (.loadRequest ctx) s = .next s ∧ exec (.unloadRequest ctx) s = .next s) ∧
      (∀ r s1, s.loaderHead ctx = some (r, s1) →
        let answer (u : State) (status sec record sym base handle : Nat) : State :=
          u.giveResult ctx (fieldAt r 32 8) status sec record sym base handle
        (fieldAt r 0 1 ≠ 1 → exec (.unloadRequest ctx) s = .next s) ∧
        (fieldAt r 0 1 = 1 → exec (.loadRequest ctx) s = .next s) ∧
        (fieldAt r 0 1 ≠ 1 → requestOk ctx r = false →
          exec (.loadRequest ctx) s = .next (answer s1 0x0C 0 (2 ^ 32 - 1) 0 0 0)) ∧
        (fieldAt r 0 1 = 0 → requestOk ctx r = true → ∀ obj, s1.readCtx ctx (fieldAt r 8 8) (fieldAt r 16 8) = some obj →
          (fieldAt obj 0 4 ≠ 0x464C457F →
            exec (.loadRequest ctx) s = .next (answer s1 0x01 0 (2 ^ 32 - 1) 0 0 0)) ∧
          ∀ l, s1.tryLoad ctx obj (fieldAt r 16 8) (fieldAt r 24 8) ((fieldAt r 1 1).testBit 0)
              ((fieldAt r 1 1).testBit 1) = .ok l →
            ∃ t, exec (.loadRequest ctx) s = .next t ∧
              ((fieldAt r 1 1).testBit 1 = true → t.g.r = s1.g.r) ∧
              ∃ o, t.objects = s1.objects ++ [o] ∧ o.ctx = ctx ∧ o.base = l.base ∧ o.kdescs = l.kdescs ∧
                o.handle = (s1.findCtx ctx).elim 0 Ctx.handleNext + 1) ∧
        (fieldAt r 0 1 = 1 → requestOk ctx r = true →
          let known := s1.objects.find? fun o => o.ctx == ctx && o.handle == fieldAt r 40 8
          (known = none → exec (.unloadRequest ctx) s = .next (answer s1 0x0C 0 (2 ^ 32 - 1) 0 0 0)) ∧
          (∀ o, known = some o → (∃ l ∈ s1.launches, l.ctx = ctx ∧ l.complete = false ∧ l.kaddr ∈ o.kdescs) →
            exec (.unloadRequest ctx) s = .next (answer s1 0x0D 0 (2 ^ 32 - 1) 0 0 0)) ∧
          (∀ o, known = some o → (∀ l ∈ s1.launches, l.ctx = ctx → l.complete = false → l.kaddr ∉ o.kdescs) →
            ∃ t, exec (.unloadRequest ctx) s = .next t ∧
              ∀ x ∈ t.objects, ∃ y ∈ s1.objects, y ≠ o ∧ x = { y with slots := x.slots }))) ∧
      (∀ index g, s.g.present = true → s.g.p.ctx = ctx → s.others = [] → s.slotOf ctx index = some g →
        let stub := 0x1FD * 2 ^ 48 + 8 * index
        s.awayIn ctx g.addr 8 = false →
        ∀ since, s.g.pend = .xlate stub since →
        (lookupIn (s.scope ctx) g.name = none →
          ∃ t, exec (.bind ctx index) s = .next t ∧
            Faulted s t { cause := .xlat, va := 0, aux := index % 2 ^ 32 } stub) ∧
        (∀ v, lookupIn (s.scope ctx) g.name = some v → s.slotHolds ctx g stub = false →
          ∃ r, exec (.bind ctx index) s = .next { s with g := { s.g with pend := .idle, stall := .none, r := r } } ∧
            OnlyPc s.g.r r ∧
            ∀ l, r.getPcv l = if l ∈ s.g.r.live ∧ (s.g.r.getPcv l).toNat % 2 ^ 57 = stub then
              BitVec.ofNat 64 (v % 2 ^ 57) else s.g.r.getPcv l) ∧
        (∀ v, lookupIn (s.scope ctx) g.name = some v → s.slotHolds ctx g stub = true → s.shelf = [] →
          ∃ t r, exec (.bind ctx index) s = .next t ∧
            t = { s with mem := t.mem, poison := t.poison, g := { s.g with pend := .idle, stall := .none, r := r } } ∧
            OnlyPc s.g.r r ∧
            ∀ l, r.getPcv l = if l ∈ s.g.r.live ∧ (s.g.r.getPcv l).toNat % 2 ^ 57 = stub then
              BitVec.ofNat 64 (v % 2 ^ 57) else s.g.r.getPcv l))) ∧
  (∀ (s : State) (ctx r obj : Nat) (s1 : State), s.loaderHead ctx = some (r, s1) →
      let size := fieldAt r 16 8
      let base := fieldAt r 24 8
      fieldAt r 0 1 = 0 → fieldAt r 1 1 < 4 → fieldAt r 2 2 = ctx → fieldAt r 32 8 % 32 = 0 →
      s1.readCtx ctx (fieldAt r 8 8) size = some obj → 64 ≤ size →
      fieldAt obj 0 4 = 0x464C457F → fieldAt obj 4 1 = 2 → fieldAt obj 5 1 = 1 → fieldAt obj 6 1 = 1 → fieldAt obj 7 1 = 0 →
      fieldAt obj 8 1 = 1 → fieldAt obj 16 2 = 3 → fieldAt obj 18 2 = 0xD7E5 → fieldAt obj 20 4 = 1 → fieldAt obj 24 8 = 0 →
      fieldAt obj 48 4 = 0x0100 → fieldAt obj 56 2 = 0 → fieldAt obj 58 2 = 64 → fieldAt obj 60 2 = 0 → fieldAt obj 40 8 ≤ size →
      base ≠ 0 → base % 4096 = 0 → base ≤ bindBase → s1.frames - s1.freed ≤ contextFrames →
      ∃ t o u, exec (.loadRequest ctx) s = .next t ∧ t.objects = s1.objects ++ [o] ∧ o.ctx = ctx ∧ o.base = base ∧
        o.kdescs = [] ∧ o.handle = (s1.findCtx ctx).elim 0 Ctx.handleNext + 1 ∧
        t = State.giveResult u ctx (fieldAt r 32 8) 0 0 (2 ^ 32 - 1) 0 base o.handle)

/-- R29, R174, R328, R334: what the resident runtime does for a group that waits on memory. A granted growth writes its
page-table entries and the group goes on, with its private bytes grown to at most 2^24 a lane; a refused one marks the
wait. A page that returns is resident again. A change of mappings waits while engine work of the context is pinned,
and then writes the entries. -/
def Obligations.MemoryService : Prop :=
  ∀ s : State, s.g.present = true →
    (∀ who granted ptes n, s.g.p.id = who → s.g.pend = .idle → (∀ x ∈ s.pageWaits, x.who ≠ who) →
      exec (.privateGrowth who granted ptes n) s = .next s ∧
      exec (.nonresidentPageService who granted ptes []) s = .next s) ∧
    (∀ who ptes n t, s.g.p.id = who → s.g.pend = .service t none →
      winPrivate ≤ localOf t.va → localOf t.va < winScratch →
      (s.shelf = [] → ∃ u, exec (.privateGrowth who true ptes n) s = .next u ∧
        u = { s with mem := u.mem, poison := u.poison,
                     g := { s.g with pend := .idle, stall := .none, privBytes := max s.g.privBytes (min n (2 ^ 24)) } } ∧
        ∀ a, (∀ e ∈ ptes, a < e.1 ∨ e.1 + 8 ≤ a) → BMap.get u.mem a = BMap.get s.mem a) ∧
      exec (.privateGrowth who false ptes n) s =
        .next { s with g := { s.g with pend := .service t (some true) } }) ∧
    (∀ who n ptes bytes, s.g.p.id = who → s.g.pend = .privsize n none →
      ∃ u, exec (.privateGrowth who false ptes bytes) s = .next u ∧ u.g.pend = .privsize n (some true)) ∧
    (∀ who ptes bytes t, s.g.p.id = who → s.g.pend = .service t none → localOf t.va < winPrivate →
      (∃ u, exec (.nonresidentPageService who true ptes bytes) s = .next u ∧ u.g.r = s.g.r ∧
        (s.shelf = [] → u.g.pend = .idle ∧ u.g.stall = .none) ∧
        ∀ c ∈ u.ctxs, c.id = t.ctx.getD s.g.p.ctx → localOf t.va / 4096 ∉ c.nonresident) ∧
      (inFrameMap (localOf t.va / 4096) = false → exec (.nonresidentPageService who false ptes bytes) s =
        .next { s with g := { s.g with pend := .service t (some true) } })) ∧
    (∀ ctx ptes nr,
      (s.pinned ctx = true → ∃ u, exec (.mappingChange ctx ptes nr) s = .next u ∧
        u = { s with mapWaits := u.mapWaits } ∧ .mappingChange ctx ptes nr ∈ u.mapWaits) ∧
      (s.pinned ctx = false → ∃ u, exec (.mappingChange ctx ptes nr) s = .next u ∧ u.g.r = s.g.r ∧
        (∀ c ∈ u.ctxs, c.id = ctx → c.nonresident = nr) ∧
        (∀ a e, ptes = [(a, e)] → BMap.readNat u.mem a 8 = e.toNat) ∧
        ∀ a, (∀ e ∈ ptes, a < e.1 ∨ e.1 + 8 ≤ a) → BMap.get u.mem a = BMap.get s.mem a))

/-- R396, R397, R414: the end of a context leaves no group, launch, object or translation of it, and the context without
tables; a core dump of a live context first stops its groups, and ends it once its copies, load and store operations
and running children are complete. R396: the replay log. A launch's blocks log where the service says; a full log
grows, or logging stops; a block whose launch is over comes back with it, without its completion action (the model's
choice, log entry 61), to be placed and replayed; a block with a log that replays starts again from its entry, with s1
and s2 as at its start, an empty scratchpad and its log. -/
def Obligations.ContextEndAndReplay : Prop :=
  (∀ (s : State) (ctx : Nat),
      let ended (t : State) : Prop :=
        (∀ g ∈ t.groups, g.p.ctx ≠ ctx) ∧ (∀ l ∈ t.launches, l.ctx ≠ ctx) ∧ (∀ o ∈ t.objects, o.ctx ≠ ctx) ∧
          (∀ x ∈ t.xlats, x.ctx ≠ ctx) ∧ ∀ c ∈ t.ctxs, c.id = ctx → c.live = false ∧ c.root = none ∧ c.nonresident = []
      (∃ t, exec (.contextEnd ctx) s = .next t ∧ ended t) ∧
      (s.findCtx ctx = none → exec (.coreDump ctx) s = .next s) ∧
      (∀ c, s.findCtx ctx = some c → c.live = false → exec (.coreDump ctx) s = .next s) ∧
      (∀ c, s.findCtx ctx = some c → c.live = true →
        let busy := s.jobs.any fun j => j.ctx == ctx && !j.isArray
        (busy = true → ∃ t, exec (.coreDump ctx) s = .next t ∧ t = { s with g := t.g, others := t.others, ctxs := t.ctxs } ∧
          (∀ g ∈ t.groups, g.p.ctx = ctx → g.frozen = true ∧ g.stall ≠ .none) ∧
          ∀ x ∈ t.ctxs, x.id = ctx → x.dumping = true) ∧
        (busy = false → ∃ t, exec (.coreDump ctx) s = .next t ∧ ended t))) ∧
  (∀ s : State,
      (∀ launch base size, exec (.replayLogEnable launch base size) s = .next { s with
        launches := s.launches.map fun l => if l.id = launch then { l with logBase := base, logCap := size } else l }) ∧
      (∀ who, (s.waitingLog who = none → ∀ granted, exec (.replayLogExtend who granted) s = .next s)) ∧
      (∀ who b log, s.g.p.id = who → s.g.present = true → s.g.pend = .log false →
        s.findBlock who.launch who.block = some b → b.log = some log →
        (∀ l, s.launchById who.launch = some l → s.shelf = [] → ∃ t new, exec (.replayLogExtend who true) s = .next t ∧
          t.g = { s.g with pend := .idle, stall := .none } ∧ t.others = s.others ∧ t.rlog = some new ∧
          new = { log with base := new.base, cap := 2 * log.cap }) ∧
        (s.shelf = [] → ∃ t, exec (.replayLogExtend who false) s = .next t ∧ t.g.pend = .idle ∧ t.g.stall = .none ∧
          t.g.r = s.g.r ∧ t.rlog = some { log with used := log.used + 1, off := true })) ∧
      (∀ launch block, (s.launchById launch = none ∨ s.findBlock launch block = none) →
        let old := s.oldLogs.find? fun o => o.l.id == launch && o.block == block
        (old = none → exec (.replay launch block) s = .next s) ∧
        (∀ o, old = some o → s.launchById launch = none → ∃ t l, exec (.replay launch block) s = .next t ∧
          t = { s with launches := s.launches ++ [l] } ∧ l.id = launch ∧ l.ckind = 0 ∧ l.ready = true ∧
          l.complete = false ∧ l.ended = l.count - 1 ∧ block ∈ l.replays ∧
          ∀ r ∈ l.runs, r.index = block ∧ r.stat = .unplaced)) ∧
      (∀ l b log, s.launchById s.g.p.id.launch = some l → s.g.present = true → s.others = [] → s.g.recs = [] →
        s.findBlock s.g.p.id.launch s.g.p.id.block = some b → b.log = some log →
        ∃ t, exec (.replay s.g.p.id.launch s.g.p.id.block) s = .next t ∧ MemoryKept s t ∧
          t.rlog = some { log with replay := true } ∧ t.scratch = [] ∧ t.g.p = s.g.p ∧ t.g.pend = .idle ∧
          (∀ i, i < 32 → t.g.r.getPcv i = BitVec.ofNat 64 (s.g.u.entry % 2 ^ 57)) ∧
          t.g.r.getS 1 = BitVec.ofNat 64 l.kaddr ∧
          t.g.r.getS 2 = BitVec.ofInt 64 (((l.affbase : Int) + s.g.p.id.block * l.affstride) % 2 ^ 57) ∧
          ∀ i, 3 ≤ i → t.g.r.getS i = 0))

/-- R335 to R343, R178: the desks' queues. A dequeued record that names no kernel is rejected with code 1; one that passes
its checks becomes a launch. A counter that reaches its value makes a waiting launch ready. A launch whose blocks have
all ended completes, frees its staging regions and is over; its counter action adds to the counter. The runtime allots
receive and device queues, but queue 0 to the system context alone, and no receive queue that would change the
capability list of a context that has started. R149, R150, R338 to R343: a desk takes a record from a queue whose
ring's head slot lies in memory: one that names a kernel of its context and breaks no rule becomes a launch. A host's
enqueue puts the buffer into the tail slot of a ring with room, and gives its number; a full ring gives 2^64 − 1. -/
def Obligations.DeskQueues : Prop :=
  (∀ s : State, s.wants = [] → (∀ d, (s.dieSt d).power ≠ 3 ∧ (s.dieSt d).off = false) → s.devPower ≠ 4 →
      (∀ q, q % 2 = 0 → (s.queueOf q).enable = false → (s.queueOf (q + 1)).enable = false →
        ∃ t, exec (.deviceQueueWake q) s = .next t ∧ t = { s with agenda := t.agenda }) ∧
      (∀ q st elem size s1, q % 2 = 0 → (s.queueOf q).enable = true → (s.queueOf (q + 1)).enable = false →
        (s.launches.filter fun l => l.die == s.deskOf q && l.pending).length < 256 → s.launches.length < 2 ^ 32 →
        ((s.ringAt (s.cbAt q)).valid = true → (s.ringAt (s.cbAt q)).esize = 64) →
        s.deqAt ((s.queueOf q).ctx.getD 0) (s.cbAt q) 0 = .ok (st, elem, size, s1) → st ≠ 2 ^ 64 - 1 →
        let ctx := (s.queueOf q).ctx.getD 0
        (s1.kernelAt ctx (fieldAt elem 0 8) = none →
          ∃ t, exec (.deviceQueueWake q) s = .next t ∧ t.launches = s.launches ∧ (t.queueOf q).errcode = 1 ∧
            (t.queueOf q).rejects = ((s.queueOf q).rejects + 1) % 2 ^ 32 ∧
            (t.queueOf q).accepted = (s.queueOf q).accepted) ∧
        (∀ k, s1.kernelAt ctx (fieldAt elem 0 8) = some k →
          s1.recErrors ctx (BMap.readNat s1.mem (s1.cbAt q + 32) 8) k elem = [] →
          ∃ t l, exec (.deviceQueueWake q) s = .next t ∧ t.launches = s.launches ++ [l] ∧ l.ctx = ctx ∧ l.queue = q ∧
            l.kaddr = fieldAt elem 0 8 ∧ l.k = k ∧ l.count = fieldAt elem 20 4 ∧ l.next = 0 ∧
            (∀ x ∈ s.launches, x.id ≠ l.id) ∧
            (t.queueOf q).accepted = ((s.queueOf q).accepted + 1) % 2 ^ 64 ∧
            (t.queueOf q).rejects = (s.queueOf q).rejects)) ∧
      (∀ line, (∀ l ∈ s.launches, s.waitsOn line l = false) → exec (.counterWatchWake line) s = .next s) ∧
      (∀ l a v p ps, s.launches = [l] → l.ready = false → l.complete = false → l.deps = [(a, v)] →
        s.ctxSpans l.ctx a 8 false = some (p :: ps) → v ≤ s.readSpans (p :: ps) →
        ∃ t, exec (.counterWatchWake (p.at_ / 128)) s = .next t ∧
          t = { s.touchPages l.ctx false 2 a 8 with
            trace := t.trace, launches := [{ l with ready := true, readySince := s.gtime }] }) ∧
      (∀ id, s.launchById id = none →
        exec (.launchComplete id) s = .next s ∧ exec (.completionActionRetry id) s = .next s) ∧
      (∀ l, s.launchById l.id = some l → l.complete = false →
        exec (.completionActionRetry l.id) s = .next s ∧
        (l.ended ≠ l.count → exec (.launchComplete l.id) s = .next s) ∧
        (l.ended = l.count → l.ckind = 0 → ∃ t, exec (.launchComplete l.id) s = .next t ∧ MemoryKept s t ∧
          (∀ x, x ∈ t.launches ↔ x ∈ s.launches ∧ x.id ≠ l.id) ∧ ∀ g, g ∈ t.stages ↔ g ∈ s.stages ∧ g.key ≠ l.id)) ∧
      (∀ l, s.launchById l.id = some l → l.complete = true → l.ckind = 1 → ∀ sp,
        let acc : Acc := { lane := 0, addr := some l.caddr, size := 8, align := 8, read := true, write := true,
                           win := .globalOnly, host := false, thread := false, ctx := l.ctx }
        s.check acc = .ok (.here sp) →
        let u := (s.touch acc).writeSpans sp ((s.readSpans sp + l.carg) % 2 ^ 64)
        ∃ t, exec (.completionActionRetry l.id) s = .next t ∧
          t = { u with trace := t.trace, launches := s.launches.filter fun x => x.id != l.id }) ∧
      (∀ q ctx e h, q < 64 →
        let loses (c : Nat) : Prop := c = ctx ∨ (SMap.get default s.rxq q).ctx = some c
        let begun (x : Ctx) : Prop := x.live = true ∧
          (x.started = true ∨ (∃ g ∈ s.groups, g.p.ctx = x.id) ∨ ∃ l ∈ s.launches, l.ctx = x.id)
        ((∃ c x, loses c ∧ s.findCtx c = some x ∧ begun x) → exec (.queueAllotment q true ctx e h) s = .next s) ∧
        ((∀ c x, loses c → s.findCtx c = some x → ¬begun x) → ∃ t, exec (.queueAllotment q true ctx e h) s = .next t ∧ (SMap.get default t.rxq q).ctx = some ctx ∧
          (∀ c ∈ t.ctxs, c.rxMask.testBit q = decide (c.id = ctx)) ∧
          ∀ i, i ≠ q → SMap.get default t.rxq i = SMap.get default s.rxq i) ∧
        (ctx ≠ 0 → exec (.queueAllotment 0 false ctx e h) s = .next s) ∧
        (q ≠ 0 ∨ ctx = 0 → ∃ t, exec (.queueAllotment q false ctx e h) s = .next t ∧ (t.queueOf q).ctx = some ctx ∧
          (t.queueOf q).enable = e ∧ (t.queueOf q).hosten = h ∧ ∀ i, i ≠ q → t.queueOf i = s.queueOf i))) ∧
  ((∀ (s : State) (q kd : Nat) (sp : List Span), s.wants = [] →
      (∀ d, (s.dieSt d).power ≠ 3 ∧ (s.dieSt d).off = false) → s.devPower ≠ 4 → q % 2 = 0 →
      (s.queueOf q).enable = true → (s.queueOf (q + 1)).enable = false →
      (s.launches.filter fun l => l.die == s.deskOf q && l.pending).length < 256 → s.launches.length < 2 ^ 32 →
      let ctx := (s.queueOf q).ctx.getD 0
      let ring := s.ringAt (s.cbAt q)
      RingReady s ctx (s.cbAt q) ring.head false sp → ring.tail ≠ ring.head →
      let elem := s.readSpans sp
      let u := s.dequeued ctx (s.cbAt q)
      let kaddr := fieldAt elem 0 8
      (∃ o ∈ s.objects, o.ctx = ctx ∧ kaddr ∈ o.kdescs) → u.readCtx ctx kaddr 64 = some kd →
      RecordOk s ctx (BMap.readNat u.mem (s.cbAt q + 32) 8) (kdescOf kd) elem →
      ∃ t l, exec (.deviceQueueWake q) s = .next t ∧ t.launches = s.launches ++ [l] ∧ l.ctx = ctx ∧ l.queue = q ∧
        l.kaddr = kaddr ∧ l.k = kdescOf kd ∧ l.count = fieldAt elem 20 4 ∧ l.next = 0 ∧ (∀ x ∈ s.launches, x.id ≠ l.id) ∧
        (t.queueOf q).accepted = ((s.queueOf q).accepted + 1) % 2 ^ 64 ∧ (t.queueOf q).rejects = (s.queueOf q).rejects) ∧
    (∀ (s : State) (q off : Nat) (bytes : List (BitVec 8)) (sp : List Span), s.devPower ≠ 4 → q < 64 → bytes ≠ [] →
      off < 64 → 56 < off + bytes.length → 2 ≤ s.boot.stage → (s.queueOf q).enable = true → (s.queueOf q).hosten = true →
      let buf := BMap.writeBytes (s.queueOf q).buf off (bytes.take (64 - off))
      let filled := s.updQueue q fun d => { d with buf := buf }
      let ctx := (s.queueOf q).ctx.getD 0
      let ring := s.ringAt (s.cbAt q)
      RingReady filled ctx (s.cbAt q) ring.tail true sp →
      let answered (u : State) (st : Nat) : Prop :=
        exec (.hostApertureEnqueue q off bytes) s = .next (u.updQueue q fun d => { d with status := st })
      (ring.fill = 2 ^ ring.logcap → answered filled (2 ^ 64 - 1)) ∧
      (ring.fill ≠ 2 ^ ring.logcap →
        answered (filled.enqueued ctx (s.cbAt q) sp (BMap.readNat buf 0 64)) (ring.tail % 2 ^ 63))))

/-- R10, R14, R15, R345, R348, R355: placement. A desk with nothing to do changes nothing. A block that it places begins
on its core: its groups stand in their partitions and slots with every lane at the kernel's entry, s1 and s2 as R15
states, and the block has an empty scratchpad. A block that waited for 2 µs, and a saved block, are placed by the same
choice; a saved block whose image its core does not accept starts again where its launch is idempotent (R208). The
launches that have not fitted for 64 µs are noted as those that keep the ones of lower priority off their die. R10,
R14, R15, R345, R348, R355: what the desks do for the only launch of a device. Where no core runs anything, its first
block begins on a core, near its affinity address; once it has waited 2 µs for a near core, on one anywhere. A saved
block, the only one, goes on where it was saved. A launch that has not fitted for 64 µs keeps those of lower priority
off the die that it would take. -/
def Obligations.Placement : Prop :=
  (∀ s : State,
      (∀ die, s.deskPick die = none → exec (.blockPlacement die) s = .next s) ∧
      (∀ id, s.launchById id = none → exec (.placementWaitExpiry id) s = .next s ∧
        ∀ b, exec (.blockResume id b) s = .next s) ∧
      (∀ l b c seats,
        let begun (i : Instr) : Prop := ∃ t, exec i s = .next t ∧
          (∃ blk ∈ t.blocks, blk.launch = l.id ∧ blk.block = b ∧ blk.scratch = [] ∧ blk.owner = []) ∧
          ∀ (n : Nat) at_, seats[n]? = some at_ → ∃ g ∈ t.others,
            g.present = true ∧ g.ended = false ∧ g.p.id = { launch := l.id, block := b, group := n } ∧ g.p.ctx = l.ctx ∧
              g.p.core = c ∧ g.p.part = at_.1 ∧ g.p.slot = at_.2 ∧ g.u.kdesc = l.kaddr ∧ g.u.entry = l.k.entry ∧
              (∀ j, j < 32 → g.r.getPcv j = BitVec.ofNat 64 (l.k.entry % 2 ^ 57)) ∧
              g.r.getS 1 = BitVec.ofNat 64 l.kaddr ∧
              g.r.getS 2 = BitVec.ofInt 64 (((l.affbase : Int) + b * l.affstride) % 2 ^ 57) ∧
              (∀ j, 3 ≤ j → g.r.getS j = 0) ∧ ∀ j k, g.r.getV j k = 0
        l.runOf b = none →
        (∀ die far, s.deskPick die = some (.place l b c seats far) → begun (.blockPlacement die)) ∧
        (s.launchById l.id = some l → s.deskTry l = some (.place l b c seats true) → begun (.placementWaitExpiry l.id))) ∧
      (∀ l b c seats far, s.launchById l.id = some l → s.deskTry l = some (.place l b c seats far) →
        (∃ r, l.runOf b = some r ∧ r.stat = .saved) → s.g.p.id.launch = l.id → s.g.p.id.block = b → s.g.recs = [] →
        s.g.asksLease = false → s.g.present = true → s.others = [] →
        let good : Prop := ∀ im, s.g.image = some im → im.accepted (Config.imageLost (s.free + s.g.p.id.group)) = true
        let run (t : State) : Option BlockRun := (t.launchById l.id).bind fun l => l.runOf b
        (¬good → l.idem = true → ∃ t r, exec (.blockResume l.id b) s = .next t ∧ t.g.present = false ∧ run t = some r ∧
          r.stat = .unplaced) ∧
        (good → ∃ t r, exec (.blockResume l.id b) s = .next t ∧ t.g.frozen = false ∧ t.g.r = s.g.r ∧ t.g.pend = s.g.pend ∧
          t.g.p.core = c ∧ run t = some r ∧ r.stat = .running c s.gtime)) ∧
      (∀ die, (s.starving die = [] → exec (.priorityStarvationExpiry die) s = .next s) ∧
        (s.starving die ≠ [] → ∃ t, exec (.priorityStarvationExpiry die) s = .next t ∧
          t = { s with dies := t.dies } ∧ (t.dieSt die).starved = (s.dieSt die).starved ++ s.starving die ∧
          ∀ d, d ≠ die → t.dieSt d = s.dieSt d))) ∧
  (∀ (s : State) (l : Launch), OnlyLaunch s l →
      (l.runs = [] → l.next = 0 → 0 < l.count → s.g.present = false → s.others = [] → s.blocks = [] →
        ((∀ d, (s.dieSt d).off = false) →
          ∃ t c, c < 144 ∧ exec (.blockPlacement l.die) s = .next t ∧ BlockBegun t l 0 c) ∧
        (∀ st since d, s.stackAt l.ctx (l.affinity 0) = some st → l.waitSince.lookup 0 = some since →
          since + 2000 ≤ s.gtime → d < 4 → (s.dieSt d).off = false →
          (∀ c, c < 144 → distance c st ≤ leastDistance st + 2 → (s.dieSt (dieOf c)).off = true) →
          ∃ t c, c < 144 ∧ (s.dieSt (dieOf c)).off = false ∧ exec (.placementWaitExpiry l.id) s = .next t ∧
            BlockBegun t l 0 c) ∧
        (∀ since, l.unfit = some since → since + 64000 ≤ s.gtime → s.stackAt l.ctx (l.affinity 0) = none → s.cores = [] →
          (∀ d, (s.dieSt d).off = false) → l.id ∉ (s.dieSt 0).starved →
          ∃ t, exec (.priorityStarvationExpiry 0) s = .next t ∧ l.id ∈ (t.dieSt 0).starved)) ∧
      (∀ r, l.runs = [r] → r.stat = .saved → r.preempt = .none → s.g.present = true → s.others = [] →
        s.g.p.id.launch = l.id → s.g.p.id.block = r.index → s.g.recs = [] → s.g.asksLease = false → s.g.image = none →
        (∀ d, (s.dieSt d).off = false) →
        ∃ t c x, c < 144 ∧ exec (.blockResume l.id r.index) s = .next t ∧ t.g.frozen = false ∧ t.g.r = s.g.r ∧
          t.g.pend = s.g.pend ∧ t.g.p.core = c ∧ (t.launchById l.id).bind (fun y => y.runOf r.index) = some x ∧
          x.stat = .running c s.gtime))

/-- R352 to R354, R356: pre-emption. A request for a running block begins one way of it, and a second request keeps the
smaller bound. A drain at its bound becomes a save where a save area can be had, and else a flush of an idempotent
launch; where there is neither it goes on, to be looked at again after 2 µs (log entry 25). A saved block has left its
core with its groups frozen and its state in the frames of its save area, outside which memory is as it was; a flushed
block's groups are gone and it is unplaced. -/
def Obligations.Preemption : Prop :=
  ∀ (s : State) (l : Launch) (b : Nat) (r : BlockRun), s.launchById l.id = some l → l.runOf b = some r →
    let run (t : State) : Option BlockRun := (t.launchById l.id).bind fun l => l.runOf b
    let mine (g : Group) : Prop := g.p.id.launch = l.id ∧ g.p.id.block = b
    (r.stat = .unplaced → ∀ n, exec (.runtimePreemptRequest l.id b n) s = .next s ∧
      exec (.preemptSave l.id b) s = .next s ∧ exec (.preemptFlush l.id b) s = .next s) ∧
    (∀ core since n, r.stat = .running core since →
      (r.preempt = .none → ∃ t x, exec (.runtimePreemptRequest l.id b n) s = .next t ∧ run t = some x ∧
        x.preempt ≠ .none ∧ x.stat = r.stat ∧
        (x.preempt = .save ∨ x.preempt = .flush → ∀ g ∈ t.groups, mine g → g.frozen = true)) ∧
      (∀ d, r.preempt = .drain d → ∃ t x, exec (.runtimePreemptRequest l.id b n) s = .next t ∧ run t = some x ∧
        x.preempt = .drain (min d (s.gtime + n)))) ∧
    (∀ d, r.preempt = .drain d →
      (s.gtime < d → exec (.drainBoundExpiry l.id b) s = .next s) ∧
      (d ≤ s.gtime → ∃ t x, exec (.drainBoundExpiry l.id b) s = .next t ∧ run t = some x ∧
        (Config.saveRoom s.free = true → x.preempt = .save) ∧
        (Config.saveRoom s.free = false → x.preempt = if l.idem then .flush else .drain (s.gtime + 2000)) ∧
        (x.preempt = .save ∨ x.preempt = .flush → ∀ g ∈ t.groups, mine g → g.frozen = true))) ∧
    (∀ core since, r.stat = .running core since → r.preempt = .save →
      (∀ j ∈ s.jobs, ¬(j.who.launch = l.id ∧ j.who.block = b)) →
      (∀ g ∈ s.groups, mine g → g.recs = [] ∧ g.dbg.stopAt = []) →
      ∃ t x, exec (.preemptSave l.id b) s = .next t ∧ run t = some x ∧ x.stat = .saved ∧ x.preempt = .none ∧
        ∀ a, (∀ pa ∈ x.area, a < pa ∨ pa + 4096 ≤ a) → BMap.get t.mem a = BMap.get s.mem a) ∧
    (∀ core since, r.stat = .running core since → r.preempt = .flush →
      (∀ j ∈ s.jobs, ¬(j.who.launch = l.id ∧ j.who.block = b)) → (∀ g ∈ s.groups, mine g → g.recs = []) →
      ∃ t x, exec (.preemptFlush l.id b) s = .next t ∧ run t = some x ∧ x.stat = .unplaced ∧ x.preempt = .none ∧
        (∀ g ∈ t.groups, ¬mine g) ∧ ∀ k ∈ t.blocks, ¬(k.launch = l.id ∧ k.block = b))

/-- R358, R359, R360: power states. A core enters P-L1 or P-L2, a die P-L3 and the device P-L4 only while the conditions
of R358 hold, have held for the wake time, and L allows that time; otherwise the step changes nothing. A wake that
begins ends after the wake times of the units on the way; then the unit is awake, and what waited for it takes place. -/
def Obligations.PowerStates : Prop :=
  ∀ s : State,
    let quiet : Prop := s.fab.out = [] ∧ s.trace.buf = [] ∧
      (∀ x ∈ s.fab.elems, x.2.waits = [] ∧ ∀ q ∈ x.2.queues, q.2 = []) ∧
      ∀ x ∈ s.fab.links, x.2.replay = [] ∧ x.2.waiting = []
    (∀ core, exec (.pL1Entry core) s = .next s ∨
      ((s.coreSt core).power = 0 ∧ (s.coreSt core).wakeAt = none ∧ s.latencyOk 100 = true ∧
        (s.coreSt core).idleSince + 100 ≤ s.gtime ∧
        (∀ g ∈ s.groups, s.standsOn core g = true → g.issuedAt + 100 ≤ s.gtime ∧
          (s.eligible g = true → g.stall ≠ .none ∧ g.stall ≠ .ready)) ∧
        (∀ j ∈ s.jobs, s.worksOn core j = false) ∧
        exec (.pL1Entry core) s = .next (s.setCore core fun c => { c with power := 1 }))) ∧
    (∀ core, exec (.pL2Entry core) s = .next s ∨
      ((s.coreSt core).power < 2 ∧ s.latencyOk 15000 = true ∧ (s.coreSt core).idleSince + 15000 ≤ s.gtime ∧
        (∀ g ∈ s.groups, s.standsOn core g = false) ∧ (∀ j ∈ s.jobs, s.worksOn core j = false) ∧
        s.granulesUsed core = 0 ∧ (∀ g ∈ s.stages, g.core ≠ core) ∧
        exec (.pL2Entry core) s = .next (s.setCore core fun c => { c with power := 2, idleSince := s.gtime }))) ∧
    (∀ core, (s.coreSt core).power = 0 → (s.coreSt core).wakeAt = none → s.latencyOk 100 = true →
      (s.coreSt core).idleSince + 100 ≤ s.gtime → (∀ g ∈ s.groups, s.standsOn core g = false) →
      (∀ j ∈ s.jobs, s.worksOn core j = false) →
      exec (.pL1Entry core) s = .next (s.setCore core fun c => { c with power := 1 }) ∧
      (s.latencyOk 15000 = true → (s.coreSt core).idleSince + 15000 ≤ s.gtime → s.granulesUsed core = 0 →
        (∀ g ∈ s.stages, g.core ≠ core) →
        exec (.pL2Entry core) s = .next (s.setCore core fun c => { c with power := 2, idleSince := s.gtime }))) ∧
    (∀ die, let down := s.setDie die fun d => { d with power := 3, since := s.gtime };
      (exec (.pL3Entry die) s = .next s ∨
        ((∀ c, c < 144 → dieOf c = die → (s.coreSt c).power = 2) ∧
          (∀ l ∈ s.launches, l.die = die → l.ready = true → l.nextBlock = none) ∧ exec (.pL3Entry die) s = .next down)) ∧
      ((s.dieSt die).power = 0 → (s.dieSt die).wakeAt = none → (s.dieSt die).off = false → s.latencyOk 1500000 = true →
        (s.dieSt die).since + 1500000 ≤ s.gtime → s.launches = [] →
        (∀ c, c < 144 → dieOf c = die → (s.coreSt c).power = 2 ∧ (s.coreSt c).idleSince + 1500000 ≤ s.gtime) →
        exec (.pL3Entry die) s = .next down)) ∧
    (let down : State := { s with devPower := 4, devSince := s.gtime };
      (exec .pL4Entry s = .next s ∨
        ((∀ d, d < 4 → (s.dieSt d).power = 3 ∨ (s.dieSt d).off = true) ∧ quiet ∧
          s.latencyOk 30000000 = true ∧ exec .pL4Entry s = .next down)) ∧
      (s.devPower = 0 → s.devWakeAt = none → (∀ d, d < 4 → (s.dieSt d).power = 3) → quiet →
        s.latencyOk 30000000 = true → s.devSince + 30000000 ≤ s.gtime →
        (∀ d, d < 4 → (s.dieSt d).since + 30000000 ≤ s.gtime) → exec .pL4Entry s = .next down)) ∧
    (∀ core, s.devPower = 0 → s.devWakeAt = none → (s.dieSt (dieOf core)).power = 0 →
      (s.dieSt (dieOf core)).wakeAt = none → (s.coreSt core).wakeAt = none →
      ((s.coreSt core).power = 0 → exec (.powerWake (.core core)) s = .next s) ∧
      ((s.coreSt core).power = 1 → exec (.powerWake (.core core)) s =
        .next (s.setCore core fun c => { c with wakeAt := some (s.gtime + 100) })) ∧
      ((s.coreSt core).power = 2 → exec (.powerWake (.core core)) s =
        .next (s.setCore core fun c => { c with wakeAt := some (s.gtime + 15000) }))) ∧
    (∀ die, s.devWakeAt = none → (s.dieSt die).power = 3 → (s.dieSt die).wakeAt = none →
      (s.devPower = 0 → exec (.powerWake (.die die)) s =
        .next (s.setDie die fun d => { d with wakeAt := some (s.gtime + 1500000) })) ∧
      (s.devPower = 4 → ∃ t, exec (.powerWake (.die die)) s = .next t ∧ t.devWakeAt = some (s.gtime + 30000000) ∧
        (t.dieSt die).wakeAt = some (s.gtime + 30000000 + 1500000))) ∧
    (s.devPower = 4 → s.devWakeAt = none →
      exec (.powerWake .device) s = .next { s with devWakeAt := some (s.gtime + 30000000) }) ∧
    (∀ core at_, (s.coreSt core).wakeAt = some at_ →
      (s.gtime < at_ → exec (.wakeComplete (.core core)) s = .next s) ∧
      (at_ ≤ s.gtime → s.host.mboxWait = none → (s.coreSt core).power = 1 ∨ s.latencyOk 100 = false →
        ∃ t, exec (.wakeComplete (.core core)) s = .next t ∧ (t.coreSt core).power = 0 ∧
          (t.coreSt core).wakeAt = none ∧ (∀ c, c ≠ core → t.coreSt c = s.coreSt c) ∧
          t.agenda = s.agenda ++ s.host.waits ∧ t.host.waits = [] ∧
          t = { s with cores := t.cores, agenda := t.agenda, host := t.host })) ∧
    (∀ die at_, (s.dieSt die).wakeAt = some at_ → at_ ≤ s.gtime → s.host.mboxWait = none →
      ∃ t, exec (.wakeComplete (.die die)) s = .next t ∧ (t.dieSt die).power = 0 ∧ (t.dieSt die).wakeAt = none ∧
        t.agenda = s.agenda ++ s.host.waits ∧ t.host.waits = [] ∧
        t = { s with dies := t.dies, agenda := t.agenda, host := t.host }) ∧
    (∀ at_, s.devWakeAt = some at_ → at_ ≤ s.gtime → s.host.mboxWait = none →
      ∃ t, exec (.wakeComplete .device) s = .next t ∧ t.devPower = 0 ∧ t.devWakeAt = none ∧
        t.agenda = s.agenda ++ s.host.waits ∧ t.host.waits = [] ∧
        t = { s with devPower := 0, devWakeAt := none, devSince := s.gtime, agenda := t.agenda, host := t.host })

/-- R346, R408, R412: a junction's temperature is recorded. At 115 °C every context ends with MCHK and the dies are off;
an error in a die's own state ends the contexts that stand on it and takes that die off; a group in a region takes the
fault at its next commit point instead (the model's choice, log entry 37). MCHK of a context is held by its first
group, and its core dump is asked for. -/
def Obligations.TemperatureAndDieErrors : Prop :=
  ∀ s : State, s.g.present = true → s.g.ended = false → (s.profOf s.g.p.ctx).port = false → s.relcount = 0 →
    (∀ g ∈ s.others, g.p.id ≠ s.g.p.id) →
    let dumped (t : State) : Prop :=
      FaultHeld t.g.r { cause := .mchk, va := 0, aux := 0 } (s.g.r.issueAddr.getD 0) ∧ t.g.stall = .fault ∧
        .coreDump s.g.p.ctx ∈ t.agenda
    (∀ die celsius, celsius < 115 → ∃ t, exec (.junctionTemperatureChange die celsius) s = .next t ∧
      t = { s with dies := t.dies, host := { s.host with temps := NMap.set s.host.temps die celsius } } ∧
      (∀ d, (t.dieSt d).power = (s.dieSt d).power ∧ (t.dieSt d).off = (s.dieSt d).off)) ∧
    (∀ die celsius, 115 ≤ celsius → ∃ t, exec (.junctionTemperatureChange die celsius) s = .next t ∧
      t.agenda = s.agenda ++ [.thermalShutdown] ∧ t.host.temps = NMap.set s.host.temps die celsius) ∧
    (∀ c, s.findCtx s.g.p.ctx = some c → c.live = true → ∃ t, exec .thermalShutdown s = .next t ∧
      (∀ d, d < 4 → (t.dieSt d).off = true) ∧ dumped t) ∧
    (∀ die, ∃ t, exec (.dieStateError die) s = .next t ∧ MemoryKept s t ∧ (t.dieSt die).off = true ∧
      (∀ d, d ≠ die → t.dieSt d = s.dieSt d) ∧
      (dieOf s.g.p.core = die → s.standsOn s.g.p.core s.g = true →
        ((∀ g ∈ s.groups, g.p.ctx = s.g.p.ctx → g.nat.on = false) → dumped t) ∧
        (s.g.nat.on = true → s.g.frozen = false → s.g.dbg.stopped = false → t.g = { s.g with nat := { s.g.nat with
          late := s.g.nat.late ++ [({ cause := .mchk, va := 0, aux := 0 }, 2 ^ 64, 0)] } })) ∧
      (s.groups = [s.g] → dieOf s.g.p.core ≠ die → t = { s with dies := t.dies }))

/-- R312, R338, R346, R360, R401, R407, R410, R411: the host. Reads and writes reach the host-managed range once stage 2
is complete, and nothing else; while the device is in P-L4 they wait for its wake. An aperture write fills the buffer,
and one that reaches bytes 56 to 63 enqueues it and leaves the status; before stage 2, and at a queue that is disabled
or closed to the host, the status is that of a refusal. A read of an aperture gives STATUS, and 0 for the buffer and
for the reserved bytes (R5, R6). PCAP is clamped to 600 to 1900 and cuts the budgets; MBOX is written, and what it
says (a pod set, the link policy, an SVN) takes effect; a write of another register changes nothing, and wakes the
device; RESET resets for one value only. The scrubber writes a line only while it still holds what was read, and a
corrected error changes no value; a line that it cannot correct is poisoned (R408). Log entries 37 and 40 say how the
environment's choices enter. -/
def Obligations.HostInterface : Prop :=
  ∀ s : State,
    (s.devPower = 4 → ∀ pa bytes n q o w,
      let asleep (i : Instr) : State :=
        { s with host := { s.host with waits := s.host.waits ++ [i] }, agenda := s.agenda ++ [.powerWake .device] }
      exec (.hostMemWrite pa bytes) s = .next (asleep (.hostMemWrite pa bytes)) ∧
      exec (.hostMemRead pa n) s = .next (asleep (.hostMemRead pa n)) ∧
      exec (.hostApertureEnqueue q o bytes) s = .next (asleep (.hostApertureEnqueue q o bytes)) ∧
      exec (.mgmtRegisterWrite .mbox w) s = .next
        { s with host := { s.host with mboxWait := some w }, agenda := s.agenda ++ [.powerWake .device] }) ∧
    (s.devPower ≠ 4 → ∀ pa n, exec (.hostMemRead pa n) s = .next { s with host := { s.host with
      read := if s.boot.stage = 2 ∧ pa + n ≤ 0x8C00000000 then (BMap.readBytes s.mem pa n).map BitVec.toNat
        else [] } }) ∧
    (s.devPower ≠ 4 → ∀ pa bytes,
      (s.boot.stage ≠ 2 ∨ 0x8C00000000 < pa + bytes.length → exec (.hostMemWrite pa bytes) s = .next s) ∧
      (s.boot.stage = 2 → pa + bytes.length ≤ 0x8C00000000 → ∃ t, exec (.hostMemWrite pa bytes) s = .next t ∧
        (∀ i : Nat, i < bytes.length → some (BMap.get t.mem (pa + i)) = bytes[i]?) ∧
        (∀ a, (a < pa ∨ pa + bytes.length ≤ a) → BMap.get t.mem a = BMap.get s.mem a) ∧
        (s.shelf = [] → t = { s with mem := t.mem, poison := SMap.dropRange s.poison pa bytes.length }))) ∧
    (s.devPower ≠ 4 → ∀ q off bytes, q < 64 → bytes ≠ [] →
      let buf := BMap.writeBytes (s.queueOf q).buf off (bytes.take (64 - off))
      let filled := s.updQueue q fun d => { d with buf := buf }
      (off + bytes.length ≤ 56 → exec (.hostApertureEnqueue q off bytes) s = .next filled) ∧
      (56 < off + bytes.length → off < 64 →
        let open_ := 2 ≤ s.boot.stage ∧ (s.queueOf q).enable = true ∧ (s.queueOf q).hosten = true
        (¬open_ → ∃ t, exec (.hostApertureEnqueue q off bytes) s = .next t ∧ t = { s with queues := t.queues } ∧
          (t.queueOf q).status = 2 ^ 64 - 2 ∧ (t.queueOf q).buf = buf ∧ ∀ i, i ≠ q → t.queueOf i = s.queueOf i) ∧
        (open_ → ∀ st u,
          filled.enqAt ((s.queueOf q).ctx.getD 0) (s.cbAt q) 0 64 (BMap.readNat buf 0 64) = .ok (st, u) →
          exec (.hostApertureEnqueue q off bytes) s = .next (u.updQueue q fun d => { d with status := st })))) ∧
    (∀ q off, q < 64 → s.apertureRead q off 1 =
      [if 64 ≤ off ∧ off < 72 then (s.queueOf q).status / 256 ^ (off - 64) % 256 else 0]) ∧
    (s.devPower ≠ 4 → ∀ w, ∃ t, exec (.pcapWrite w) s = .next t ∧ t.host.pcap = max 600 (min 1900 w) ∧
      (∀ d, d < 4 → (t.dieSt d).energy ≤ 1000000 * t.refillRate d ∧ (t.dieSt d).power = (s.dieSt d).power) ∧
      t = { s with dies := t.dies, host := { s.host with pcap := t.host.pcap } }) ∧
    (s.devPower ≠ 4 → ∀ w, ∃ t, exec (.mgmtRegisterWrite .mbox w) s = .next t ∧ t.host.mbox = w ∧
      (∀ n ds, Config.mboxCommand s.tick w = .podSet n ds → SMap.get [] t.podSets n = ds ∧
        (∀ m, m ≠ n → SMap.get [] t.podSets m = SMap.get [] s.podSets m) ∧
        t = { s with podSets := t.podSets, host := { s.host with mbox := w } }) ∧
      (∀ p, Config.mboxCommand s.tick w = .linkPolicy p →
        t = { s with host := { s.host with mbox := w, linkPolicy := p } }) ∧
      (∀ n, Config.mboxCommand s.tick w = .svnCommit n →
        t = { s with host := { s.host with mbox := w }, boot := { s.boot with svn := max s.boot.svn n } }) ∧
      (Config.mboxCommand s.tick w = .other → t = { s with host := { s.host with mbox := w } })) ∧
    (∀ r w, r ≠ MgmtReg.mbox → exec (.mgmtRegisterWrite r w) s = .next
      (if s.devPower = 4 then { s with agenda := s.agenda ++ [.powerWake .device] } else s)) ∧
    (s.devPower ≠ 4 → ∀ v, (v ≠ 0xD1E5#32 → exec (.resetWrite v) s = .next s) ∧
      (v = 0xD1E5#32 → exec (.resetWrite v) s = exec .powerOnReset s)) ∧
    (s.relcount = 0 → ∀ line seen new,
      (BMap.readBytes s.mem (128 * line) 128 ≠ seen → exec (.scrub line seen new) s = .next s) ∧
      (BMap.readBytes s.mem (128 * line) 128 = seen → new ≠ [] → exec (.scrub line seen new) s = .next s) ∧
      (BMap.readBytes s.mem (128 * line) 128 = seen →
        ∃ t, exec (.scrub line seen []) s = .next t ∧ t = { s with poison := t.poison } ∧
          ∀ a, BMap.get t.poison a = if 128 * line ≤ a ∧ a < 128 * line + 128 then 1 else BMap.get s.poison a))

/-- R400 to R402: boot. A power-up leaves the machine at stage 0 with nothing resident, the fused count kept, and the hub
ROM and the fuses measured, which stage 1 measures also. Stage 1 is the first flash slot whose image verifies under
the fused key with an SVN not below the fused count; with neither, the device stays in recovery. Stage 2 needs a
runtime and a translator that verify under a key of stage 1; it measures them, brings up the dies and the links, and
creates a new translation key. -/
def Obligations.BootStages : Prop :=
  ∀ s : State,
    let verified (keys : List Nat) (i : BootImage) : Prop :=
      s.boot.svn ≤ i.svn ∧ ∃ k ∈ keys, Config.mldsaVerify k i.digest i.signature = true
    (∃ t, exec .powerOnReset s = .next t ∧
      t = { State.reset with tick := s.tick, clk := s.clk, gtime := s.gtime, free := s.free, boot := t.boot } ∧
      t.boot.stage = 0 ∧ t.boot.recovery = false ∧ t.boot.svn = s.boot.svn ∧
      NMap.get t.boot.slots 1 = Config.shake256 [Config.romDigest] ∧
      NMap.get t.boot.slots 5 = Config.shake256 [Config.fuseDigest] ∧
      t.boot.keys = [] ∧ t.boot.domain = [] ∧ t.boot.sessions = []) ∧
    (s.boot.stage ≠ 0 ∨ s.boot.recovery = true → ∀ a b, exec (.bootStage1 a b) s = .next s) ∧
    (s.boot.stage = 0 → s.boot.recovery = false → ∀ a b,
      let loads (t : State) (i : BootImage) : Prop := t = { s with boot := t.boot } ∧
        t.boot = { s.boot with stage := 1, keys := i.keys, slots := t.boot.slots } ∧
        NMap.get t.boot.slots 2 = Config.shake256 [i.digest, i.svn]
      let measured (t : State) : Prop := NMap.get t.boot.slots 1 = Config.shake256 [Config.romDigest] ∧
        NMap.get t.boot.slots 5 = Config.shake256 [Config.fuseDigest] ∧
        ∀ n, n ∉ [1, 2, 5] → NMap.get t.boot.slots n = NMap.get s.boot.slots n
      ∃ t, exec (.bootStage1 a b) s = .next t ∧ measured t ∧
      (verified [Config.fusedKey] a → loads t a) ∧
      (¬verified [Config.fusedKey] a → verified [Config.fusedKey] b → loads t b) ∧
      (¬verified [Config.fusedKey] a → ¬verified [Config.fusedKey] b →
        t = { s with boot := { s.boot with recovery := true, failing := 0, slots := t.boot.slots } })) ∧
    (s.boot.stage ≠ 1 → ∀ r t x, exec (.bootStage2Complete r t x) s = .next s) ∧
    (s.boot.stage = 1 → ∀ r t x,
      ∃ u, exec (.bootStage2Complete r t x) s = .next u ∧
      (¬(verified s.boot.keys r ∧ verified s.boot.keys t) → u = { s with boot := { s.boot with failing := 1 } }) ∧
      (verified s.boot.keys r → verified s.boot.keys t → u.boot.stage = 2 ∧ u.boot.svn = s.boot.svn ∧
          NMap.get u.boot.slots 3 = Config.shake256 [r.digest] ∧
          NMap.get u.boot.slots 4 = Config.shake256 [t.digest, Config.translatorVersion] ∧ u.boot.domain = [] ∧
          u.boot.tkey = (Config.freeWord s.free).toNat ∧ u.devloc = BitVec.ofNat 15 x.devloc ∧
          u.queueTable = x.queueTable / 4096 * 4096 ∧
          (∀ d, d < 4 → (u.dieSt d).power = 0 ∧ (u.dieSt d).off = false) ∧
          (∀ n, n < 12 → x.linksUp.testBit n = true → (u.link n).up = true) ∧
          (∃ c, u.findCtx 0 = some c) ∧ u.launches = s.launches))

/-- R402, R403, R404: SPDM. What each request is answered; none changes more of the machine than the attestation state. A
measurement is answered for slots 1 to 6, or all six, signed by the identity key; a certificate and a challenge for
chains 0 and 1, of which the first is a root's and the identity key's. Signatures are over the SHA3-384 hash of what
was said. KEY_EXCHANGE opens a session under ML-KEM-1024 once that was negotiated. What follows is secured by the
session's tag: a wrong one is refused and has no effect. FINISH completes the session, END_SESSION ends it. A
trust-domain list of up to 16384 digests is taken over a finished session and measured in slot 6. A KEY_UPDATE of a
finished session moves its keys on by a generation, or, of a link whose peer is in the trust domain, the link's. Log
entry 14 says what stands for messages here. -/
def Obligations.SpdmRequests : Prop :=
  ∀ s : State,
    let answers (i : Instr) (b : Boot) (a : SpdmAnswer) : Prop :=
      exec i s = .next { s with boot := { b with answer := a, answerMac := none } }
    let refused (i : Instr) : Prop := answers i s.boot .refused
    let identity : List Nat := [Config.rootKey, Config.identityKey, Config.identityCert]
    let both : List Nat := identity ++ [s.boot.tkey, Config.mldsaSign Config.identityKey (Config.shake256 [s.boot.tkey])]
    let digests : List Nat := [Config.sha3 identity, Config.sha3 both]
    let signed (key : Nat) (l : List Nat) : Nat := Config.mldsaSign key (Config.sha3 (s.boot.transcript ++ l))
    answers .getVersion { s.boot with transcript := [0, 13, 14] } (.versions [13, 14]) ∧
    (∃ l, answers .getCapabilities { s.boot with transcript := s.boot.transcript ++ [1, 11] } (.capabilities l)) ∧
    (∀ l, ∃ chosen, answers (.negotiateAlgorithms l) { s.boot with
        negotiated := chosen, transcript := s.boot.transcript ++ [2, algBits l, algBits chosen] } (.algorithms chosen) ∧
      ∀ a, a ∈ chosen ↔ a ∈ l ∧ a ∈ [SpdmAlg.mlDsa65, .mlKem1024, .aes256Gcm, .sha3384]) ∧
    answers .getDigests s.boot (.digests [(0, Config.sha3 identity), (1, Config.sha3 both)]) ∧
    answers (.getCertificate 0) s.boot (.certificate identity) ∧
    answers (.getCertificate 1) s.boot (.certificate both) ∧
    (∀ slot n, 2 ≤ slot → refused (.getCertificate slot) ∧ refused (.challenge slot n)) ∧
    (∀ slot n, slot < 2 → answers (.challenge slot n) s.boot (.challengeAuth [(0, Config.sha3 identity), (1, Config.sha3 both)]
      (signed (if slot = 1 then s.boot.tkey else Config.identityKey) (slot :: n :: digests)))) ∧
    (∀ n, 1 ≤ n → n ≤ 6 → answers (.getMeasurements n) s.boot (.measurements [(n, NMap.get s.boot.slots n)]
      (signed Config.identityKey [n, NMap.get s.boot.slots n]))) ∧
    (let l := [1, 2, 3, 4, 5, 6].map fun n => (n, NMap.get s.boot.slots n)
     answers (.getMeasurements 255) s.boot (.measurements l (signed Config.identityKey (255 :: l.map Prod.snd)))) ∧
    (∀ n, n = 0 ∨ (7 ≤ n ∧ n ≠ 255) → refused (.getMeasurements n)) ∧
    (∀ id, (∃ x ∈ s.boot.sessions, x.id = id) ∨ .mlKem1024 ∉ s.boot.negotiated → refused (.keyExchange id)) ∧
    (∀ id, (∀ x ∈ s.boot.sessions, x.id ≠ id) → .mlKem1024 ∈ s.boot.negotiated →
      exec (.keyExchange id) s = .next { s with
        free := s.free + 1
        boot := { s.boot with
          sessions := s.boot.sessions ++ [⟨id, Config.mlkemSecret s.free, 0, false, 0, 0⟩]
          answer := .keyExchange id (signed Config.identityKey
            (digests ++ [id, Config.shake256 [Config.mlkemSecret s.free]]))
          answerMac := none } }) ∧
    (∀ id, (∀ x ∈ s.boot.sessions, x.id ≠ id) → ∀ mac, refused (.finish ⟨id, mac⟩) ∧ refused (.endSession ⟨id, mac⟩) ∧
      (∀ link, refused (.keyUpdate ⟨id, mac⟩ link)) ∧ ∀ l, refused (.trustDomainLoad ⟨id, mac⟩ l)) ∧
    (∀ x, s.boot.sessions = [x] →
      let tag (toHost : Bool) (l : List Nat) : Nat :=
        Config.flitTag (Config.shake256 [x.secret, x.gen, if toHost then 3 else 2]) l
      let y : Session := { x with seq := x.seq + 1, sent := x.sent + 1 }
      let secured (ok : Bool) (b : Boot) : Boot := { b with
        answer := if ok then .accepted else .refused
        answerMac := some (tag true [x.sent, if ok then 1 else 0]) }
      let does (i : Instr) (b : Boot) : Prop := exec i s = .next { s with boot := secured true b }
      let turnsDown (i : Instr) : Prop := exec i s = .next { s with boot := secured false { s.boot with sessions := [y] } }
      let finish := tag false [x.seq, 8]
      let keys (link : Option Nat) := tag false (x.seq :: 9 :: link.toList)
      let list (l : List Nat) := tag false (x.seq :: 11 :: l)
      (∀ mac, mac ≠ finish → refused (.finish ⟨x.id, mac⟩)) ∧
      (∀ mac, mac ≠ tag false [x.seq, 10] → refused (.endSession ⟨x.id, mac⟩)) ∧
      (∀ mac link, mac ≠ keys link → refused (.keyUpdate ⟨x.id, mac⟩ link)) ∧
      (∀ mac l, mac ≠ list l → refused (.trustDomainLoad ⟨x.id, mac⟩ l)) ∧
      (x.done = true → turnsDown (.finish ⟨x.id, finish⟩)) ∧
      (x.done = false → does (.finish ⟨x.id, finish⟩) { s.boot with sessions := [{ y with done := true }] } ∧
        (∀ link, turnsDown (.keyUpdate ⟨x.id, (keys link)⟩ link)) ∧ ∀ l, turnsDown (.trustDomainLoad ⟨x.id, (list l)⟩ l)) ∧
      does (.endSession ⟨x.id, (tag false [x.seq, 10])⟩) { s.boot with sessions := [] } ∧
      (x.done = true →
        does (.keyUpdate ⟨x.id, (keys none)⟩ none) { s.boot with sessions := [{ y with gen := x.gen + 1 }] } ∧
        (∀ n, s.linkTrusted n = false → turnsDown (.keyUpdate ⟨x.id, (keys (some n))⟩ (some n))) ∧
        (∀ n, s.linkTrusted n = true → ∃ t, exec (.keyUpdate ⟨x.id, (keys (some n))⟩ (some n)) s = .next t ∧
          t.boot = secured true { s.boot with sessions := [y] } ∧ (t.link n).gen = (s.link n).gen + 1 ∧
          (∀ i, NMap.get (s.link n).txKeys i = 0 → i = 0 ∨ i = 1 ∧ NMap.get (s.link n).txKeys 0 ≠ 0 →
            (s.link n).txNext = [] → (s.link n).waiting = [] →
            (t.link n).encrypt = true ∧ (t.link n).kid = i ∧
            NMap.get (t.link n).txKeys i = Config.shake256 [(s.link n).secret, (s.link n).gen + 1, n, 1] + 1) ∧
          ∀ m, m ≠ n → t.link m = s.link m) ∧
        (∀ l, 16384 < l.length → turnsDown (.trustDomainLoad ⟨x.id, (list l)⟩ l)) ∧
        (∀ l, l.length ≤ 16384 → ∃ slots, does (.trustDomainLoad ⟨x.id, (list l)⟩ l)
            { s.boot with sessions := [y], domain := l, slots := slots } ∧
          NMap.get slots 6 = Config.shake256 l ∧ ∀ n, n ≠ 6 → NMap.get slots n = NMap.get s.boot.slots n)))

/-- R384 to R389, R397: the debug service. RESULT gets its status last: 1 for no such group, 5 for a group of another
context, 4 for one that has ended, 2 for one that is not stopped, 3 for an argument that is not accepted. A request
attaches its debugger. STOP, RESUME and STEP act on the named group, STOP once its save is complete; SETBP and SETWP
write one breakpoint and watchpoint; READ writes the view in the layout of the GROUP note (of a group in a region,
once its companion has built it) and WRITE replaces it; DETACH clears and resumes all of the process. A breakpoint
that stands at the issue address stops the group with BKPT. R388, R394, R395: READ of a stopped group, and a reading
of array totals, complete where their buffer is mapped for writing; WRITE completes where the bytes are a state that
R13 and R14 allow: program counters that are 8-byte aligned addresses of code, some live lane, k0 all ones, and s0 and
n0 zero. -/
def Obligations.DebugService : Prop :=
  (∀ (s : State) (q : DbgReq), s.g.present = true →
      let result (u : State) (st : Nat) : State := u.writeResult q.ctx q.result st
      let s0 := s.attach q.ctx
      let withG (g : Group) : State := { s0 with g := g }
      let free := ∀ g ∈ s.groups, g.dbg.stepping ≠ some (q.ctx, q.result) ∧ (q.ctx, q.result) ∉ g.dbg.stopAt ∧
        ∀ v, g.dbg.viewing = some v → (v.req.ctx, v.req.result) ≠ (q.ctx, q.result)
      let named : List Instr := [.dbgStop q, .dbgResume q, .setbp q, .setwp q, .dbgRead q, .dbgWrite q, .dbgStep q]
      (∀ c ∈ s0.ctxs, c.id = q.ctx → c.debugged = true) ∧
      (∀ (u : State) (p : Span) st, q.result % 8 = 0 → u.ctxSpans q.ctx q.result 8 true = some [p] → p.scratch = false →
        p.priv = false → p.len = 8 → st < 2 ^ 64 → BMap.readNat (result u st).mem p.at_ 8 = st) ∧
      (q.all = false → s.findGroup q.who = none → ∀ i ∈ named, exec i s = .next (result s0 1)) ∧
      (q.all = false → q.who = s.g.p.id → s.g.p.ctx ≠ q.ctx → ∀ i ∈ named, exec i s = .next (result s0 5)) ∧
      (q.all = false → q.who = s.g.p.id → s.g.p.ctx = q.ctx → s.g.ended = true →
        ∀ i ∈ named, exec i s = .next (result s0 4)) ∧
      (q.all = false → q.who = s.g.p.id → s.g.p.ctx = q.ctx → s.g.ended = false →
        (s.g.dbg.stopped = false → ∀ i ∈ [Instr.dbgResume q, .dbgStep q, .dbgRead q, .dbgWrite q],
          exec i s = .next (result s0 2)) ∧
        (free → s.g.dbg.stopped = true → exec (.dbgStop q) s = .next (result s0 0)) ∧
        (s.g.dbg.stopped = false → s.beingSaved s.g.p.id = true → exec (.dbgStop q) s = .next
          (withG { s.g with dbg := { s.g.dbg with stopAt := s.g.dbg.stopAt ++ [(q.ctx, q.result)] } })) ∧
        (free → s.g.dbg.stopped = false → s.beingSaved s.g.p.id = false → s.g.dbg.stepping = none →
          exec (.dbgStop q) s = .next (result (withG { s.g with stall := .debug, dbg := { s.g.dbg with stopped := true, cause := 0 } }) 0)) ∧
        (let runs : Group := { s.g with
            stall := .none, dbg := { s.g.dbg with stopped := false, cause := 0, skipBp := s.g.r.issueAddr } }
         s.g.dbg.stopped = true →
          (free → exec (.dbgResume q) s = .next (result (withG runs) 0)) ∧
          exec (.dbgStep q) s = .next
            (withG { runs with dbg := { runs.dbg with stepping := some (q.ctx, q.result) } })) ∧
        ((q.arg1.extractLsb' 57 6 ≠ 0#6 ∨ q.arg1.extractLsb' 0 3 ≠ 0#3) → exec (.setbp q) s = .next (result s0 3)) ∧
        (free → q.arg1.extractLsb' 57 6 = 0#6 → q.arg1.extractLsb' 0 3 = 0#3 →
          ∃ d, exec (.setbp q) s = .next (result (withG { s.g with dbg := d }) 0) ∧ d = { s.g.dbg with bp := d.bp } ∧
            ∀ n, BMap.get d.bp n = if n = q.arg0.toNat % 4 then q.arg1 else BMap.get s.g.dbg.bp n) ∧
        (let start := q.arg0.toNat % 2 ^ 57
         let len := q.arg1.toNat % 2 ^ 30
         let ok := q.arg0.extractLsb' 57 5 = 0#5 ∧ len ≠ 0 ∧ start + len ≤ 2 ^ 57
         (¬ok → exec (.setwp q) s = .next (result s0 3)) ∧
         (free → ok → ∃ d, exec (.setwp q) s = .next (result (withG { s.g with dbg := d }) 0) ∧
            d = { s.g.dbg with wpStart := d.wpStart, wpCtl := d.wpCtl } ∧
            ∀ n, (BMap.get d.wpStart n, BMap.get d.wpCtl n) =
              if n = q.arg0.toNat / 2 ^ 62 then (BitVec.ofNat 64 start, q.arg1)
              else (BMap.get s.g.dbg.wpStart n, BMap.get s.g.dbg.wpCtl n))) ∧
        (s.g.dbg.stopped = true → q.buf % 64 ≠ 0 →
          exec (.dbgRead q) s = .next (result s0 3) ∧ exec (.dbgWrite q) s = .next (result s0 3)) ∧
        (free → s.g.dbg.stopped = true → q.buf % 64 = 0 → s.g.nat.on = false →
          let v : Group := { s.g with dbg := { s.g.dbg with viewed := true, viewing := none } }
          ∀ u, (withG v).writeFields q.ctx q.buf (groupNote s.g (s.g.kind s.g.frozen) s.g.stall.code s.pc) = some u →
            exec (.dbgRead q) s = .next (result u 0)) ∧
        (s.g.dbg.stopped = true → q.buf % 64 = 0 → s.g.nat.on = true →
          let v := s0.viewOf s.g
          exec (.dbgRead q) s = .next (withG { v with dbg := { v.dbg with
            viewed := true, viewing := some { req := q, trail := s.g.nat.trail, left := 65 } } })) ∧
        (s.g.dbg.stopped = true → q.buf % 64 = 0 → ∀ v, s0.readCtx q.ctx q.buf 557824 = some v →
          (s0.groupFrom s.g v = none → exec (.dbgWrite q) s = .next (result s0 3)) ∧
          ∀ h, free → s0.groupFrom s.g v = some h → exec (.dbgWrite q) s = .next (result (withG h) 0) ∧ h.p = s.g.p ∧
            h.nat.hold = true ∧ h.r.getS 0 = 0 ∧ h.r.getK 0 = BitVec.allOnes 32 ∧
            (∀ i, i < 4088 → h.r.getS i = BitVec.ofNat 64 (fieldAt v (768 + 8 * i) 8)) ∧
            (∀ i l, i < 4096 → l < 32 → h.r.getV i l = BitVec.ofNat 32 (fieldAt v (33536 + 128 * i + 4 * l) 4)) ∧
            ∀ l, l < 32 → h.r.getPcv l = BitVec.ofNat 64 (fieldAt v (64 + 8 * l) 8))) ∧
      (∀ (g : Group) kind reason vpc, let note := groupNote g kind reason vpc
        (∀ l, l < 32 → (64 + 8 * l, 8, (g.r.getPcv l).toNat) ∈ note) ∧
        (∀ i, i < 4088 → (768 + 8 * i, 8, (g.r.getS i).toNat) ∈ note) ∧
        (∀ i l, i < 4096 → l < 32 → (33536 + 128 * i + 4 * l, 4, (g.r.getV i l).toNat) ∈ note)) ∧
      (q.all = true → (∀ g ∈ s.others, g.p.id ≠ s.g.p.id) → ∃ t, exec (.dbgStop q) s = .next t ∧
        ∀ g ∈ t.groups, g.p.ctx = q.ctx → g.ended = false →
          g.dbg.stopped = true ∨ s.beingSaved g.p.id = true) ∧
      (∃ u : State, exec (.detach q) s = .next (result u 0) ∧
        (∀ c ∈ u.ctxs, c.id = q.ctx → c.debugged = false) ∧
        (∀ g ∈ u.groups, g.p.ctx = q.ctx → g.dbg.stopped = false ∧ g.dbg.bp = [] ∧ g.dbg.wpCtl = []) ∧
        ((∀ g ∈ s.others, g.p.id ≠ s.g.p.id) → ∀ g ∈ u.groups, g.p.ctx = q.ctx →
          g.dbg.stepping = none ∧ g.dbg.stopAt = [] ∧ g.dbg.viewing = none) ∧
        ((∀ g ∈ s.groups, g.dbg.stepping = none ∧ g.dbg.stopAt = [] ∧ g.dbg.viewing = none) →
          u = { s with g := u.g, others := u.others, ctxs := u.ctxs } ∧ (s.g.p.ctx ≠ q.ctx → u.g = s.g)) ∧
        (s.g.dbg.stopped = true → s.g.p.ctx = q.ctx → u.g.stall = .none)) ∧
      (∀ n a, s.g.r.issueAddr = some a → s.g.dbg.stepping = none →
        let b := BMap.get s.g.dbg.bp n
        ((b.getLsbD 63 = true ∧ b.toNat % 2 ^ 57 / 8 = a / 8) → exec (.breakpointHit n) s = .next { s with
          g := { s.g with stall := .debug, dbg := { s.g.dbg with stopped := true, cause := 0x10 } } }) ∧
        (b.getLsbD 63 = false ∨ b.toNat % 2 ^ 57 / 8 ≠ a / 8 → exec (.breakpointHit n) s = .next s))) ∧
  ((∀ (s : State) (q : DbgReq), s.g.present = true → q.all = false → q.who = s.g.p.id → s.g.p.ctx = q.ctx →
      s.g.ended = false → s.g.dbg.stopped = true → s.g.nat.on = false → q.buf % 64 = 0 →
      (∀ g ∈ s.groups, g.dbg.stepping ≠ some (q.ctx, q.result) ∧ (q.ctx, q.result) ∉ g.dbg.stopAt ∧
        ∀ v, g.dbg.viewing = some v → (v.req.ctx, v.req.result) ≠ (q.ctx, q.result)) →
      let s0 := s.attach q.ctx
      let withG (g : Group) : State := { s0 with g := g }
      (Writable s0 q.ctx q.buf 557824 →
        ∃ u, (withG { s.g with dbg := { s.g.dbg with viewed := true, viewing := none } }).writeFields q.ctx q.buf
            (groupNote s.g (s.g.kind s.g.frozen) s.g.stall.code s.pc) = some u ∧
          exec (.dbgRead q) s = .next (u.writeResult q.ctx q.result 0)) ∧
      (∀ v, s0.readCtx q.ctx q.buf 557824 = some v →
        (∀ l, l < 32 → let pc := fieldAt v (64 + 8 * l) 8
          pc / 2 ^ 57 % 64 = 0 ∧ pc % 8 = 0 ∧
          (2 ^ 63 ≤ pc ∨ ∃ f, s0.leafOf s.g.p.ctx { fetch := true } (pc % 2 ^ 57) = .ok f)) →
        (∃ l, l < 32 ∧ fieldAt v (64 + 8 * l) 8 < 2 ^ 63) →
        fieldAt v 320 4 = 2 ^ 32 - 1 → fieldAt v 768 8 = 0 → fieldAt v 352 2 = 0 →
        (∀ i, i < 16 → fieldAt v (352 + 2 * i) 2 < 2 ^ 15) →
        ∃ h, exec (.dbgWrite q) s = .next ((withG h).writeResult q.ctx q.result 0) ∧ h.p = s.g.p ∧ h.nat.hold = true ∧
          (∀ i, i < 4088 → h.r.getS i = BitVec.ofNat 64 (fieldAt v (768 + 8 * i) 8)) ∧
          (∀ i l, i < 4096 → l < 32 → h.r.getV i l = BitVec.ofNat 32 (fieldAt v (33536 + 128 * i + 4 * l) 4)) ∧
          ∀ l, l < 32 → h.r.getPcv l = BitVec.ofNat 64 (fieldAt v (64 + 8 * l) 8))) ∧
    (∀ (s : State) (q : ProfReq), let n := q.arg0.toNat
      n + q.arg1.toNat ≤ 144 → q.buf % 64 = 0 → Writable s q.ctx q.buf (40 * q.arg1.toNat) →
      let row (i : Nat) : List Field := (s.arrayTotals (n + i)).zipIdx.map fun x => (40 * i + x.2 * 8, 8, x.1)
      ∃ u, s.writeFields q.ctx q.buf ((List.range q.arg1.toNat).flatMap row) = some u ∧
        exec (.arraytot q) s = .next (u.writeResult q.ctx q.result 0)))

/-- R390 to R395: the profiler service, samples, and the trace port. A request that is accepted gets status 0, one that is
not 3. A sample goes to the next occupied slot of its partition, and creates a record only where the group's context
samples. The port sends the oldest record of the buffer. -/
def Obligations.Profiling : Prop :=
  ∀ (s : State) (q : ProfReq),
    let result (u : State) (st : Nat) : State := u.writeResult q.ctx q.result st
    let refused (i : Instr) : Prop := exec i s = .next (result s 3)
    /- what the request leaves for its context, beside RESULT -/
    let sets (i : Instr) (f : ProfCfg → ProfCfg) : Prop :=
      ∃ u : State, exec i s = .next (result u 0) ∧
        u = { s with trace := { s.trace with cfg := u.trace.cfg, sampled := u.trace.sampled } } ∧
        u.profOf q.ctx = f (s.profOf q.ctx) ∧ ∀ c, c ≠ q.ctx → u.profOf c = s.profOf c
    let n := q.arg0.toNat
    (n = 0 → sets (.profSample q) fun c => { c with period := 0 }) ∧
    (8 ≤ n → n ≤ 24 → sets (.profSample q) fun c => { c with period := 2 ^ n }) ∧
    (n ≠ 0 → n < 8 ∨ 24 < n → refused (.profSample q)) ∧
    ((∀ i, q.arg0.getLsbD i = true → 1 ≤ i ∧ i ≤ 12) → sets (.profTypes q) fun c => { c with types := n }) ∧
    (∀ i, q.arg0.getLsbD i = true → i = 0 ∨ 12 < i → refused (.profTypes q)) ∧
    sets (.profFilter q) (fun c => { c with filter := n % 2 ^ 32 }) ∧
    sets (.profPort q) (fun c => { c with port := q.arg0.getLsbD 0 }) ∧
    (144 < n + q.arg1.toNat → refused (.arraytot q) ∧ refused (.arrayclr q)) ∧
    (n + q.arg1.toNat ≤ 144 → q.buf % 64 = 0 →
      let row (i : Nat) : List Field := (s.arrayTotals (n + i)).zipIdx.map fun x => (40 * i + x.2 * 8, 8, x.1)
      ∀ u, s.writeFields q.ctx q.buf ((List.range q.arg1.toNat).flatMap row) = some u →
        exec (.arraytot q) s = .next (result u 0)) ∧
    (n + q.arg1.toNat ≤ 144 → ∃ u : State, exec (.arrayclr q) s = .next (result u 0) ∧
      u = { s with trace := u.trace } ∧
      (∀ c, n ≤ c → c < n + q.arg1.toNat → u.arrayTotals c = [0, 0, 0, 0, 0]) ∧
      ∀ c, (c < n ∨ n + q.arg1.toNat ≤ c) → u.arrayTotals c = s.arrayTotals c) ∧
    (∀ core part,
      ((∀ g ∈ s.groups, s.standsOn core g = true → g.p.part ≠ part) → exec (.pcSample core part) s = .next s) ∧
      (s.groups = [s.g] → s.standsOn core s.g = true → s.g.p.part = part →
        ∃ t, exec (.pcSample core part) s = .next t ∧ t = { s with trace := t.trace } ∧
          NMap.get t.trace.cursor (8 * core + part) = (s.g.p.slot + 1) % 16 ∧
          ((s.profOf s.g.p.ctx).period = 0 → t.trace.buf = s.trace.buf) ∧
          ((s.profOf s.g.p.ctx).period ≠ 0 → (s.profOf s.g.p.ctx).wants 1 s.g.p.id.launch = true →
            s.trace.lost = 0 → s.trace.buf.length < 4096 →
            ∃ r, t.trace.buf = s.trace.buf ++ [r] ∧ r.type = 1 ∧ r.core = s.g.p.core ∧ r.part = s.g.p.part ∧
              r.slot = s.g.p.slot ∧ r.group = s.g.p.id.group ∧ r.block = s.g.p.id.block ∧ r.time = s.gtime ∧
              r.seq = NMap.get s.trace.seqs s.g.p.core % 2 ^ 14))) ∧
    (s.trace.buf = [] → exec .tracePortSend s = .next s) ∧
    (∀ r rest, s.trace.buf = r :: rest → ∃ t, exec .tracePortSend s = .next t ∧
      t = { s with trace := t.trace } ∧ t.trace.port = s.trace.port ++ [r] ∧
      (s.trace.lost = 0 → t.trace.buf = rest) ∧
      (s.trace.lost ≠ 0 → s.dropOn = false → t.trace.buf = rest ∧ t.trace.lost = s.trace.lost) ∧
      (s.trace.lost ≠ 0 → s.dropOn = true → rest.length < 4096 → t.trace.lost = 0 ∧
        ∃ d, t.trace.buf = rest ++ [d] ∧ d.type = 0x0C ∧
          d.payload = s.trace.lost % 2 ^ 64 + s.trace.lostAt % 2 ^ 64 * 2 ^ 64))

/-- R362, R363, R369 to R371: elements of the fabric. A request is put at the tail of the queue of the port that the
tables give, with the port it came by recorded; a router's port is that of its mesh's dimension order. One for this
device ends at its home slice's router or at the hub, where its step is due. One with 16 hops, or without a port that
is up, is answered FAULT, every member of a combined RED. Two requests that agree as R369 lists become one, whose
operand combines both in LRID order. A reply goes back one recorded hop, and at its requester is due there; that of a
combined FAO splits into one for each member, the second with New of the first's operand, and frees the entry, but for
a WAKE, after which the entry waits on (log entry 62). An entry is freed after 250 µs. -/
def Obligations.FabricElements : Prop :=
  ∀ (s : State) (e port : Nat) (m : Msg), s.fab.out = [m] →
    let queue (t : State) (p : Nat) (m : Msg) : List Msg := SMap.get [] (t.elem e).queues (queueKey p m)
    let due (t : State) (l : List Instr) : Prop :=
      t = { s with fab := t.fab, agenda := s.agenda ++ l } ∧ t.fab.links = s.fab.links ∧ ∀ i, i ≠ e → t.elem i = s.elem i
    let went (t : State) : Prop := due t [] ∧ t.fab.out = []
    let hop : Msg := { m with depth := m.depth + 1, path := m.path ++ [port], here := some e }
    let refuse : Msg := m.faulted m.dst { cause := .fabric, va := m.dst * 2 ^ 57 + m.addr, aux := 2 ^ 15 }
    ((16 ≤ m.depth ∨ s.endsAt e hop = false ∧ s.routeOf e m = none) →
      (m.routed = true → ∃ t, exec (.requestForward e port m) s = .next t ∧ went t ∧ t.elem e = s.elem e) ∧
      (m.routed = false → m.acks.length ≤ 1 → ownPort e port = false →
        ∃ t, exec (.requestForward e port m) s = .next t ∧ went t ∧
          queue t port refuse = queue s port refuse ++ [refuse]) ∧
      (m.routed = false → m.acks.length ≤ 1 → ownPort e port = true →
        ∃ t, exec (.requestForward e port m) s = .next t ∧ due t [.faultReply refuse] ∧ t.elem e = s.elem e) ∧
      (m.routed = false → 1 < m.acks.length → ∃ t, exec (.requestForward e port m) s = .next t ∧ due t [] ∧
        t.elem e = s.elem e ∧ t.fab.out = m.acks.map fun a => { refuse with
          here := some e, dst := a.1, rtag := ⟨false, 0, 0, a.2⟩, depth := 0, path := [], routed := true })) ∧
    (m.depth < 16 → s.endsAt e hop = true → ∃ t, exec (.requestForward e port m) s = .next t ∧
      due t (performStep hop).toList ∧ t.fab.out = [] ∧ t.elem e = s.elem e) ∧
    (∀ p, s.portFor e m.dst m.cls = some p →
      p < 64 ∧ (s.maskFor e m.dst).testBit p = true ∧ (s.elem e).up.testBit p = true) ∧
    (elemKind e = 3 → s.routeOf e m = some (meshPort e (s.meshGoal (routerDie e) m))) ∧
    (elemKind e ∈ [0, 1, 2] → (e = 0 → m.dst ≠ s.devloc.toNat) → s.routeOf e m = s.portFor e m.dst m.cls) ∧
    (∀ p, p < 64 → 1 ≤ e → e ≤ 192 → m.dst / 512 % 32 = s.devloc.toNat / 512 % 32 → m.dst / 16 % 32 = (e - 1) / 6 →
      NMap.get (s.elem e).tables (64 + m.dst % 16) = 2 ^ p → (s.elem e).up.testBit p = true → m.depth < 16 →
      m.type ≠ 0x0B → ∃ t, exec (.requestForward e port m) s = .next t ∧ went t ∧
        queue t p hop = queue s p hop ++ [hop]) ∧
    (m.depth < 16 → s.endsAt e hop = false → ∀ p, s.routeOf e m = some p →
      (queue s p hop = [] ∨ m.type ≠ 0x0B → ∃ t, exec (.requestForward e port m) s = .next t ∧ went t ∧
        queue t p hop = queue s p hop ++ [hop] ∧ (t.elem e).waits = (s.elem e).waits) ∧
      (∀ w q after, queue s p hop = q ++ w :: after → (∀ x ∈ after, x.cls ≠ m.cls) → w.type = 0x0B → m.type = 0x0B →
        w.kind = m.kind → w.addr = m.addr → w.dst = m.dst → w.ctx = m.ctx → w.opc = m.opc → w.sz = m.sz →
        w.cls = m.cls → w.scope = m.scope →
        let a := if w.lrid ≤ m.lrid then w else hop
        let b := if w.lrid ≤ m.lrid then hop else w
        let both : Msg := { w with operand := newWord w.opc (2 ^ w.sz) a.operand b.operand, lrid := a.lrid }
        (w.kind = 1 → w.acks.length + m.acks.length ≤ 12 → ∃ t, exec (.requestForward e port m) s = .next t ∧ went t ∧
          queue t p hop = q ++ { both with acks := a.acks ++ b.acks } :: after) ∧
        (w.kind = 1 → 12 < w.acks.length + m.acks.length → ∃ t, exec (.requestForward e port m) s = .next t ∧ went t ∧
          queue t p hop = queue s p hop ++ [hop]) ∧
        (w.kind = 0 → (∀ x ∈ (s.elem e).waits, x.port ≠ p) → ∃ t, exec (.requestForward e port m) s = .next t ∧ went t ∧
          queue t p hop = q ++ { both with rtag := ⟨true, w.depth, 0, 0⟩ } :: after ∧
          (t.elem e).waits = (s.elem e).waits ++ [{
            port := p, entry := 0, since := s.gtime, dst := w.dst, cls := w.cls, hop := w.depth, first := a,
            second := b, v1 := a.operand }]))) ∧
    ((m.rtag.combined = false ∨ m.rtag.hop ≠ m.depth) →
      (m.depth = 0 → ∃ t, exec (.replyRetrace e m) s = .next t ∧ due t (performStep m).toList ∧ t.fab.out = [] ∧
        t.elem e = s.elem e) ∧
      (∀ d, m.depth = d + 1 →
        let r : Msg := { m with depth := d, path := m.path.take d, here := some e }
        (ownPort e (m.path.getD d 0) = false → ∃ t, exec (.replyRetrace e m) s = .next t ∧ went t ∧
          queue t (m.path.getD d 0) r = queue s (m.path.getD d 0) r ++ [r]) ∧
        (ownPort e (m.path.getD d 0) = true → ∃ t, exec (.replyRetrace e m) s = .next t ∧
          due t (performStep r).toList ∧ t.fab.out = [] ∧ t.elem e = s.elem e))) ∧
    (∀ w, (s.elem e).waits = [w] → m.rtag.combined = true → m.rtag.hop = m.depth → w.hop = m.depth →
      w.entry = m.rtag.entry → w.dst = m.src → w.cls = m.cls → w.first.rtag.combined = false →
      w.second.rtag.combined = false → w.first.depth = 0 → w.second.depth = 0 →
      let x := (m.ops.head?.map fun o => o.2.1).getD 0
      let toMember (t : Msg) (ops : List (Nat × Nat × Nat)) : Msg := { m with
        dst := t.src, rtag := t.rtag, path := t.path, depth := t.depth, who := t.who, lrid := t.lrid, ops := ops }
      (m.type = 0x1A → ∃ t, exec (.replyRetrace e m) s = .next t ∧ (t.elem e).waits = [] ∧ t.fab.out = [] ∧ due t
        [.value (toMember w.first [(0, x, 0)]),
          .value (toMember w.second [(0, newWord w.first.opc (2 ^ w.first.sz) x w.v1, 0)])]) ∧
      (m.type = 0x1B → ∃ t, exec (.replyRetrace e m) s = .next t ∧ (t.elem e).waits = [] ∧ t.fab.out = [] ∧ due t
        [.faultReply (toMember w.first m.ops), .faultReply (toMember w.second m.ops)]) ∧
      (m.type = 0x1C → ∃ t, exec (.replyRetrace e m) s = .next t ∧ t.fab.out = [] ∧
        (t.elem e).waits = [{ w with since := s.gtime + m.count }] ∧ due t
          [.wake (toMember w.first m.ops), .wake (toMember w.second m.ops)])) ∧
    (∀ n, ∃ t, exec (.waitBufferTimeout e port n) s = .next t ∧ t = { s with fab := t.fab } ∧ t.fab.out = s.fab.out ∧
      (t.elem e).queues = (s.elem e).queues ∧ ∀ w, w ∈ (t.elem e).waits ↔
        w ∈ (s.elem e).waits ∧ ¬(w.port = port ∧ w.entry = n ∧ w.since + 250000 ≤ s.gtime))

/-- R364, R365, R373 to R376, R404: the links, and what MGMT messages carry. A message is its flits, the last with LAST,
the request head of R365 before its operands. A flit that fails its check word is counted, and one out of SEQ order
dropped: in both cases nothing is accepted, and LNAK asks for the SEQ expected. A flit in order is accepted, its
payload deciphered, and a whole message's step is due. LNAK sends the replay buffer again from its SEQ; 16 for one
SEQ, or a loss of lock, retrain the link; a link that does not retrain is down and its ports at both ends leave the
masks. A flit that may start is sealed under the sender's key and waits in the replay buffer. MGMT writes a route,
loads a key of the hubs' session into a free slot or sets the time; a session with a peer outside the trust domain
leaves the link unencrypted, or takes it down as the link policy says (log entries 14 and 62). -/
def Obligations.LinkLayer : Prop :=
  ∀ (s : State) (n : Nat), let l := s.link n
    let linkOnly (t : State) : Prop :=
      t = { s with fab := t.fab } ∧ t.fab.out = s.fab.out ∧ t.fab.elems = s.fab.elems ∧ ∀ i, i ≠ n → t.link i = s.link i
    let kept (t : State) : Prop :=
      linkOnly t ∧ (t.link n).expect = l.expect ∧ (t.link n).part = l.part
    let down (t : State) : Prop := (t.link n).up = false ∧ (t.link n).replay = [] ∧ (t.elem 0).up.testBit n = false ∧
      (∀ e p, s.neighbour 0 n = some (e, p) → (t.elem e).up.testBit p = false) ∧
      ((∀ p, s.neighbour 0 n ≠ some (0, p)) → ∀ i, i ≠ n → (t.elem 0).up.testBit i = (s.elem 0).up.testBit i)
    let carried : List Nat :=
      [8, 9, 0x0A, 0x0B, 0x0C, 0x0D, 0x0E, 0x0F, 0x10, 0x18, 0x19, 0x1A, 0x1B, 0x1C, 0x1D, 0x20, 0x30]
    (∀ f : Flit,
      (l.up = false → exec (.flitReceive n f) s = .next s) ∧
      (l.up = true → l.encrypt = true → f.type ≠ 0 → f.seq ≠ l.expect → ∃ t, exec (.flitReceive n f) s = .next t ∧
        kept t ∧ (t.link n).nacked = true ∧ (l.nacked = true → (t.link n).wire = l.wire)) ∧
      (l.up = true → l.encrypt = false → f.chk ≠ (crc64 (flitCovered f)).toNat →
        ∃ t, exec (.flitReceive n f) s = .next t ∧ kept t ∧ (t.link n).errors = l.errors + 1 ∧
          (t.link n).nacked = true ∧ (l.mayStart n 0 = true → (∀ x ∈ l.waiting, x.vc ≠ 0) →
            ∃ x, (t.link n).wire = l.wire ++ [x] ∧ x.type = 1 ∧
            x.seq = l.seqNext ∧ x.payload.take 2 = [BitVec.ofNat 8 l.expect, BitVec.ofNat 8 (l.expect / 256)])) ∧
      (l.up = true → l.encrypt = true → NMap.get l.rxKeys f.kid = 0 → f.type = 0 ∨ f.seq = l.expect →
        (l.fails < 15 → ∃ t, exec (.flitReceive n f) s = .next t ∧ kept t ∧ (t.link n).errors = l.errors + 1 ∧
          (t.link n).fails = l.fails + 1) ∧
        (15 ≤ l.fails → ∃ t, exec (.flitReceive n f) s = .next t ∧ down t ∧
          (t.link n).secEvents = l.secEvents + 1)) ∧
      (l.up = true → l.encrypt = false → f.chk = (crc64 (flitCovered f)).toNat → l.waiting = [] →
        let acked (t : State) : Prop := (t.link n).acked = f.ack ∧
          (f.type = 0 → (t.link n).replay = l.replay.filter fun x => !seqLe x.seq f.ack)
        (f.type = 0 → ∃ t, exec (.flitReceive n f) s = .next t ∧ kept t ∧ acked t ∧ (t.link n).wire = l.wire) ∧
        (f.type ≠ 0 → f.seq ≠ l.expect → ∃ t, exec (.flitReceive n f) s = .next t ∧ kept t ∧ acked t ∧
          (t.link n).nacked = true ∧ (l.nacked = true → (t.link n).wire = l.wire)) ∧
        (f.type ∉ 0 :: 1 :: carried →
          f.seq = l.expect → ∃ t, exec (.flitReceive n f) s = .next t ∧ linkOnly t ∧ acked t ∧
            (t.link n).expect = (l.expect + 1) % 4096 ∧ (t.link n).errors = l.errors + 1 ∧ (t.link n).part = l.part) ∧
        (f.type = 1 → f.seq = l.expect → ∃ t, exec (.flitReceive n f) s = .next t ∧
          (t.link n).expect = (l.expect + 1) % 4096 ∧
          t.agenda = s.agenda ++ [.lnak n (bytesAt f.payload 0 2)]) ∧
        (f.type ∈ carried → f.seq = l.expect →
          let before := SMap.get [] l.part f.vc
          ∃ t, exec (.flitReceive n f) s = .next t ∧ (t.link n).expect = (l.expect + 1) % 4096 ∧
            (t.link n).owes = true ∧ (t.link n).nacked = false ∧
            SMap.get [] (t.link n).part f.vc = (if f.last then [] else before ++ [f]) ∧
            t.agenda = s.agenda ++ if f.last then [arrival n (before ++ [f])] else [])) ∧
      (let key := NMap.get l.rxKeys f.kid
       let count := NMap.get l.sealed (2 + f.kid)
       l.up = true → l.encrypt = true → f.type ∈ carried → f.seq = l.expect → l.waiting = [] → key ≠ 0 →
        f.chk = Config.flitTag key (n :: count :: (flitCovered f).map BitVec.toNat) % 2 ^ 64 → f.last = true →
        SMap.get [] l.part f.vc = [] → ∃ t, exec (.flitReceive n f) s = .next t ∧
          (t.link n).expect = (l.expect + 1) % 4096 ∧ t.agenda = s.agenda ++ [arrival n [{ f with
            payload := f.payload.zipIdx.map fun (b, i) => b ^^^ Config.keyStream key n count i }]])) ∧
    (∀ fs : List Flit, let m := readMsg fs
      (m.type < 0x18 → m.type ≠ 0x10 → arrival n fs = .requestForward 0 n m) ∧
      (m.type = 0x20 → arrival n fs = .requestForward 0 n m) ∧
      (0x18 ≤ m.type → m.type < 0x20 → m.routed = false → arrival n fs = .replyRetrace 0 m)) ∧
    (∀ f : Flit, f.type < 0x18 → let m := readMsg [f]
      let field (i k : Nat) : Nat := bytesAt f.payload i k
      (m.type, m.dst, m.src, m.addr, m.ctx, m.cls, m.scope, m.ord, m.sz, m.lrid, m.opc, m.kind, m.depth) =
        (f.type, f.dst, f.src, field 0 8 % 2 ^ 57, field 8 2, field 10 1 % 16, field 10 1 / 16 % 8, field 11 1 % 4,
          field 11 1 / 4 % 8, field 16 7 % 2 ^ 49, field 23 1 % 16, field 23 1 / 16, field 24 1)) ∧
    (∀ m : Msg, (∀ f ∈ flitsOf m, f.type = m.type ∧ f.vc = vcOf m.type ∧ f.dst = m.dst ∧ f.src = m.src ∧
        f.payload.length = 112) ∧
      (∀ i f, (flitsOf m)[i]? = some f → (f.last = true ↔ i + 1 = (flitsOf m).length)) ∧
      (m.type < 0x18 → ((flitsOf m).flatMap Flit.payload).take 48 = headBytes m)) ∧
    (∀ f : Flit, let g := l.emit n f
      (l.mayStart n f.vc = false ∨ (∃ x ∈ l.waiting, x.vc = f.vc) →
        g = { l with waiting := l.waiting ++ [f] }) ∧
      (l.mayStart n f.vc = true → (∀ x ∈ l.waiting, x.vc ≠ f.vc) → ∃ x, g.wire = l.wire ++ [x] ∧
        g.replay = l.replay ++ [x] ∧ g.seqNext = (l.seqNext + 1) % 4096 ∧ x.seq = l.seqNext ∧ x.kid = l.kid ∧
        x.ack = (l.expect + 4095) % 4096 ∧ (x.type, x.vc, x.last) = (f.type, f.vc, f.last) ∧
        (l.encrypt = false → x.payload = f.payload ∧ x.chk = (crc64 (flitCovered x)).toNat) ∧
        (l.encrypt = true → let key := NMap.get l.txKeys l.kid
          let count := NMap.get l.sealed l.kid
          x.payload = (f.payload.zipIdx.map fun (b, i) => b ^^^ Config.keyStream key n count i) ∧
          x.chk = Config.flitTag key (n :: count :: (flitCovered x).map BitVec.toNat) % 2 ^ 64))) ∧
    (s.relcount = 0 → ∀ seq, ∃ t, exec (.lnak n seq) s = .next t ∧ kept t ∧
      (t.link n).wire = l.wire ++ l.replay.filter (fun f => seqLe seq f.seq) ∧ (t.link n).replay = l.replay ∧
      (t.link n).lnakSeq = seq ∧
      (t.link n).lnakRun = (if l.lnakSeq = seq ∧ l.lnakRun ≠ 0 then l.lnakRun + 1 else 1) ∧
      (l.training = false → ((t.link n).training = true ↔ 16 ≤ (t.link n).lnakRun))) ∧
    (l.up = false → exec (.linkRetrain n none) s = .next s) ∧
    (l.up = true → ∃ t, exec (.linkRetrain n none) s = .next t ∧ linkOnly t ∧
      t.link n = { l with training := true, trainAt := s.gtime }) ∧
    (∃ t, exec (.linkRetrain n (some true)) s = .next t ∧ kept t ∧ (t.link n).training = false ∧ (t.link n).up = l.up) ∧
    (∃ t, exec (.linkRetrain n (some false)) s = .next t ∧ down t) ∧
    (l.waiting = [] → ∀ ack, ∃ t, exec (.null n ack) s = .next t ∧ kept t ∧ (t.link n).acked = ack ∧
      (t.link n).replay = l.replay.filter fun f => !seqLe f.seq ack) ∧
    (∀ e table i mask, ∃ t, exec (.mgmt (.route e table i mask)) s = .next t ∧ t = { s with fab := t.fab } ∧
      NMap.get (t.elem e).tables (64 * table + i) = mask ∧
      (∀ j, j ≠ 64 * table + i → NMap.get (t.elem e).tables j = NMap.get (s.elem e).tables j) ∧
      ∀ x, x ≠ e → t.elem x = s.elem x) ∧
    (∀ slot key tx, let derived := Config.shake256 [l.secret, l.gen, n, if tx then 1 else 0]
      let keys := if tx then l.txKeys else l.rxKeys
      let isFree := NMap.get keys slot = 0 ∧ (slot = 0 ∨ slot = 1 ∧ NMap.get keys 0 ≠ 0)
      slot < 2 →
      ((s.linkTrusted n = false ∨ key ≠ derived ∨ ¬isFree) → exec (.mgmt (.key n tx slot key)) s = .next s) ∧
      (s.linkTrusted n = true → key = derived → isFree → ∃ t, exec (.mgmt (.key n tx slot key)) s = .next t ∧
        linkOnly t ∧ (t.link n).encrypt = true ∧
        (tx = false → NMap.get (t.link n).rxKeys slot = key + 1 ∧
          NMap.get (t.link n).rxKeys (1 - slot) = NMap.get l.rxKeys (1 - slot)) ∧
        (tx = true → (t.link n).kid = slot ∧ NMap.get (t.link n).txKeys slot = key + 1))) ∧
    (∀ ns, exec (.mgmt (.time ns)) s = .next { s with gtime := ns }) ∧
    (∀ peer, let with_ : Link := { l with peer := some peer, secret := Config.mlkemSecret s.free, gen := 0 }
      (s.trusts peer = true ∨ l.up = false → ∃ t, exec (.mgmt (.session n peer)) s = .next t ∧ t.link n = with_ ∧
        t = { s with free := s.free + 1, fab := t.fab } ∧ ∀ i, i ≠ n → t.link i = s.link i) ∧
      (s.trusts peer = false → l.up = true → s.host.linkPolicy = 0 → ∃ t, exec (.mgmt (.session n peer)) s = .next t ∧
        (t.link n).up = true ∧ (t.link n).encrypt = false) ∧
      (s.trusts peer = false → l.up = true → s.host.linkPolicy ≠ 0 → ∃ t, exec (.mgmt (.session n peer)) s = .next t ∧
        down t)) ∧
    (s.linkTrusted n = false → exec (.mgmt (.update n)) s = .next s) ∧
    (s.linkTrusted n = true → ∃ t, exec (.mgmt (.update n)) s = .next t ∧ linkOnly t ∧ (t.link n).gen = l.gen + 1)

/-- R26, R140, R141, R143 to R147, R180, R333, R360, R364, R368, R371, R372, R380, R401: requests of other devices. Before
stage 2 each is answered FAULT, and while the unit sleeps WAKE, and it runs after the wake, but for a SEND, which is
sent again. One behind a request of its source and class that waits for a page waits as well (R366). A request whose
accesses fail their checks is answered FAULT and has no effect, or waits unseen for a page that the runtime has made
non-resident (R328); one that reaches a window takes CANON. A combined RED that is not performed is answered to each
of its members. RD answers the bytes; WR and STF store and answer DONE, STF once 1 is added to its flag; FAO, RED and
CAS perform R143, RED answering each of its members; RING is ENQ or DEQ; CHECK of an engine's range pins it; SEND is
accepted, refused when the queue is full, or rejected when it is not the context's. A tile child starts as a job; a
device of a pod set answers whether it holds the reservation asked for (R347; the messages are log entry 21's choice). -/
def Obligations.RequestsOfOthers : Prop :=
  ∀ (s : State) (m : Msg),
    let here := s.devloc.toNat
    let reply (type : Nat) (ops : List (Nat × Nat × Nat)) (t : Option Trap) : Msg := m.reply here type ops t
    let all : List Instr := [.rd m, .wr m, .stfMessage m, .atom m, .faorMessage m, .ring m, .checkMessage m, .sendMessage m]
    let acc (lane addr size : Nat) (read write host : Bool) : Acc :=
      s.inAcc m lane addr size size read write .globalOnly host
    let failed (i : Instr) (t : Trap) : Prop :=
      exec i s = .next (if t.cause = .page ∧ s.pageAway m.ctx (localOf t.va / 4096) = true then
        ({ s with pageWaits := s.pageWaits ++ [
          ⟨m.who, m.ctx, localOf t.va / 4096, i, t, m, none, m.faulted here t, none, false⟩] } : State).askMap
          m.who (localOf t.va / 4096)
        else s.post (m.faulted here t))
    let noPath : Trap := { cause := .fabric, va := here * 2 ^ 57 + m.addr, aux := 2 ^ 15 }
    let unpinned := ∀ p ∈ s.pins, p.who ≠ m.who
    (s.boot.stage < 2 → 1 < m.acks.length → ∃ t, exec (.atom m) s = .next t ∧ t = { s with fab := t.fab } ∧
      t.fab.out = s.fab.out ++ m.acks.map fun a =>
        { m.faulted here noPath with dst := a.1, rtag := ⟨false, 0, 0, a.2⟩, depth := 0, path := [], routed := true }) ∧
    (m.acks.length ≤ 1 → s.boot.stage < 2 → ∀ i ∈ all, exec i s = .next (s.post (m.faulted here noPath))) ∧
    (m.type ≠ 0x20 → m.faulted here noPath = reply 0x1B [] (some noPath)) ∧
    (m.type = 0x20 → m.faulted here noPath = { reply 0x1B [] (some noPath) with kind := 16, operand := m.count }) ∧
    (m.acks.length ≤ 1 → 2 ≤ s.boot.stage → s.devPower = 4 → s.devWakeAt = none → ∀ i ∈ all, exec i s = .next { s with
      fab := { s.fab with out := s.fab.out ++ [{ reply 0x1C [] none with
        count := 30000000, kind := if m.type = 0x20 then 1 else 0, operand := m.count }] }
      host := { s.host with waits := s.host.waits ++ if m.type = 0x20 then [] else [i] }
      agenda := s.agenda ++ [.powerWake .device] }) ∧
    (m.acks.length ≤ 1 → 2 ≤ s.boot.stage → s.asleepFor m = none → ∀ x, s.waitsBefore m = some x → ∀ i ∈ all,
      exec i s = .next { s with pageWaits := s.pageWaits ++ [{ x with
        who := m.who, req := i, msg := m, job := none, behind := true }] }) ∧
    (m.acks.length ≤ 1 → 2 ≤ s.boot.stage → s.asleepFor m = none → s.waitsBefore m = none →
      (∀ a size, m.ops = [(0, a, size)] → m.count = 0 →
        (0x1FE * 2 ^ 48 < a + size → a < 2 ^ 57 → ∃ t, exec (.rd m) s = .next (s.post (m.faulted here t)) ∧
          t.cause = .canon ∧ t.aux.testBit 15 = true) ∧
        (∀ t, s.inCheck [acc 0 a size true false true] = .error t → failed (.rd m) t) ∧
        (∀ sp, unpinned → s.inCheck [acc 0 a size true false true] = .ok [(acc 0 a size true false true, sp)] →
          exec (.rd m) s = .next ((s.touch (acc 0 a size true false true)).post
            (reply 0x18 [(0, s.readSpans sp, 0)] none)))) ∧
      (∀ a size v, m.ops = [(0, a, size * 2 ^ 128 + v)] → v < 2 ^ 128 → m.count = 0 →
        let x := acc 0 a size false true true
        (∀ t, s.inCheck [x] = .error t → failed (.wr m) t) ∧
        (∀ sp, unpinned → s.inCheck [x] = .ok [(x, sp)] →
          exec (.wr m) s = .next (((s.touch x).writeSpans sp v).post (reply 0x19 [] none)))) ∧
      (∀ lane flag a size v, m.ops = [(lane, flag, 0), (lane, a, size * 2 ^ 128 + v)] → v < 2 ^ 128 → m.count = 0 →
        let x := acc lane a size false true false
        let y := acc lane flag 8 true true false
        ∀ sp fl, s.inCheck [x, y] = .ok [(x, sp), (y, fl)] →
          let u := ((s.touch x).writeSpans sp v).touch y
          exec (.stfMessage m) s = .next ((u.writeSpans fl (u.readSpans fl + 1)).post (reply 0x19 [] none))) ∧
      (m.ops = [] → ∀ t, s.inCheck [acc 0 m.addr (2 ^ m.sz) true true false] = .error t →
        failed (.atom m) t) ∧
      (m.ops = [] → ∀ p, let x := acc 0 m.addr (2 ^ m.sz) true true false
        unpinned → s.inCheck [x] = .ok [(x, [p])] → p.scratch = false → p.len = 2 ^ m.sz → m.sz ≤ 4 →
        let w := (s.touch x).readSpans [p]
        let new := (atomicOf m.opc (BitVec.ofNat (8 * 2 ^ m.sz) w) (BitVec.ofNat (8 * 2 ^ m.sz) m.operand)).toNat
        let after := (s.touch x).writeSpans [p] new
        (m.kind = 0 → exec (.atom m) s = .next (after.post (reply 0x1A [(0, w, 0)] none))) ∧
        (m.kind = 1 → ∃ t, exec (.atom m) s = .next t ∧ t = { after with fab := t.fab } ∧
          t.fab.out = s.fab.out ++ m.acks.map fun a => { reply 0x19 [] none with
            dst := a.1, rtag := ⟨false, 0, 0, a.2⟩, depth := 0, path := [], routed := true })) ∧
      (∀ lane x cmp p, m.ops = [(lane, 0, cmp * 2 ^ 128 + x)] → m.kind = 2 → m.sz ≤ 4 → x < 2 ^ (8 * 2 ^ m.sz) →
        cmp < 2 ^ (8 * 2 ^ m.sz) → let y := acc lane m.addr (2 ^ m.sz) true true false
        unpinned → s.inCheck [y] = .ok [(y, [p])] → p.scratch = false → p.len = 2 ^ m.sz →
        let w := (s.touch y).readSpans [p]
        exec (.atom m) s = .next ((if w = cmp then (s.touch y).writeSpans [p] x else s.touch y).post
          (reply 0x1A [(lane, w, 0)] none))) ∧
      (∀ lane v p, m.ops = [(lane, 0, v)] → m.lrid % 32 = 0 → v < 2 ^ 128 →
        let y : Acc := acc lane m.addr (2 ^ m.sz) true true false
        s.inCheck [y.early] = .ok [(y.early, [p])] →
        ((m.count = 0 ∨ 2 ^ 20 < m.count) → ∃ t, exec (.faorMessage m) s = .next (s.post (m.faulted here t)) ∧
          t.cause = .prot ∧ t.va = here * 2 ^ 57 + m.addr) ∧
        (s.lateTrap [(y, [p])] = none → 2 ≤ m.count → m.count ≤ 2 ^ 20 → s.sets = [] → s.joins = [] →
          ∃ t, exec (.faorMessage m) s = .next t ∧ t = { s.touch y with faorIn := t.faorIn, sets := t.sets } ∧
            t.faorIn = s.faorIn ++ [⟨m, []⟩] ∧
            t.sets = [⟨sliceOf p.at_, p.at_, 2 ^ m.sz, m.opc, m.count, [⟨m.lrid + lane, v, m.who, lane, some m⟩],
              s.gtime + 1000000⟩])) ∧
      (∀ lane v p, m.ops = [(lane, 0, v)] → let y : Acc := s.inAcc m lane m.addr 32 64 true true .globalOnly false
        let r := s.ringAt p.at_
        s.inCheck [y.early] = .ok [(y.early, [p])] → s.lateTrap [(y, [p])] = none →
        (m.kind = 0 → ∀ st u, (s.touch y).enqAt m.ctx p.at_ (here * 2 ^ 57 + m.addr) m.count v m.operand = .ok (st, u) →
          exec (.ring m) s = .next (u.post (reply 0x1A [(0, st, 0)] none))) ∧
        (m.kind = 1 → r.valid = true → r.esize ≠ m.count → exec (.ring m) s =
          .next ((s.touch y).post (reply 0x1A [(0, 0xFFFFFFFF, 0), (0, 0, 0), (0, r.esize, 0)] none))) ∧
        (m.kind = 1 → r.valid = true → r.esize = m.count → s.headBits m.ctx p.at_ = 0 → ∀ st elem size u,
          (s.touch y).deqAt m.ctx p.at_ (here * 2 ^ 57 + m.addr) = .ok (st, elem, size, u) →
          exec (.ring m) s = .next (u.post (reply 0x1A [(0, st, 0), (0, elem, 0), (0, size, 0)] none)))) ∧
      (m.ops = [] → m.opc ≠ 13 → 0 < m.count → exec (.checkMessage m) s = .next (s.post (reply 0x1A [] none))) ∧
      (∀ a l, m.ops = [(0, a, m.count)] → 0 < m.count → m.opc = 8 → m.kind = 0 →
        let x : Acc := { s.inAcc m 0 a m.count 1 true false .globalOnly true with eats := false }
        s.inCheck [x] = .ok [(x, l)] → a < 2 ^ 57 →
        exec (.checkMessage m) s = .next (({ s with pins := s.pins ++ [⟨m.src, m.who, m.ctx, a, m.count, m.count, 0⟩] } :
          State).post (reply 0x1A [] none))) ∧
      (let q := SMap.get default s.rxq m.opc
       let sack (k : Nat) : Msg := { reply 0x1D [] none with kind := k, count := m.count }
       (q.ctx ≠ some m.ctx → exec (.sendMessage m) s = .next (s.post (sack 2))) ∧
       (q.ctx = some m.ctx → 64 ≤ q.entries.length → exec (.sendMessage m) s = .next (s.post (sack 1))) ∧
       (q.ctx = some m.ctx → q.entries.length < 64 → ∃ t, exec (.sendMessage m) s = .next t ∧
         t = { s.post (sack 0) with rxq := t.rxq } ∧
         SMap.get default t.rxq m.opc = { q with entries := q.entries ++ [BitVec.ofNat 64 m.operand] } ∧
         ∀ i, i ≠ m.opc → SMap.get default t.rxq i = SMap.get default s.rxq i))) ∧
    (m.kind = 3 → exec (.tileMessage m) s = .next (s.podRelease (podKey m))) ∧
    (m.kind = 2 → 2 ≤ s.boot.stage → s.asleepFor m = none → s.waitsBefore m = none →
      let answer (n : Nat) : State := s.post { reply 0x0F [] none with kind := 1, operand := n }
      ((SMap.find? s.podRes (podKey m)).isSome = true → exec (.tileMessage m) s = .next (answer 1)) ∧
      (SMap.find? s.podRes (podKey m) = none → s.reservation (podAsk m) = none →
        exec (.tileMessage m) s = .next (answer 0))) ∧
    (m.kind = 0 → 2 ≤ s.boot.stage → s.asleepFor m = none → s.waitsBefore m = none → ∀ op, m.tile = some op →
      ∃ t j, exec (.tileMessage m) s = .next t ∧ j ∈ t.jobs ∧ j.who = m.who ∧ j.kind = .tileFor m ∧
        (∀ x ∈ s.jobs, x ∈ t.jobs) ∧ MemoryKept s t)

/-- R133, R141, R180, R360, R367, R380: what comes back for this device's own requests. A DATA, VALUE or DONE reply gives
its request its values, a FAULT reply the fault, with RMT; a reply whose request is over changes nothing. WAKE starts
the reply timer again. A request that is past its limit has timed out. SACK accepts a SEND, lets it be offered again
after 1 µs, or fails it; a SEND past its limit, or that has got FAULT, fails, and its message is dropped where it
still is on its way. -/
def Obligations.RepliesToRequests : Prop :=
  ∀ (s : State) (m : Msg), s.g.present = true → s.others = [] → s.jobs = [] →
    (∀ checking q d, s.g.pend = .remote checking [q] d →
      let given (a : ReqOut) : State := { s with g := { s.g with pend := .remote checking [a] d } }
      let answered (a : Answer) : State := given { q with answer := some a }
      (q.tag ≠ m.rtag.stag ∨ q.answer ≠ none →
        exec (.data m) s = .next s ∧ exec (.done m) s = .next s ∧ exec (.value m) s = .next s ∧
        (m.kind ≠ 16 → exec (.faultReply m) s = .next s)) ∧
      (q.tag = m.rtag.stag → q.answer = none →
        (q.msg.type ≠ 0x0B ∨ q.msg.kind ≠ 0 →
          exec (.data m) s = .next (answered (.values (m.ops.map fun o => (o.1, o.2.1)))) ∧
          exec (.value m) s = .next (answered (.values (m.ops.map fun o => (o.1, o.2.1))))) ∧
        (∀ l1 l2 a v1 v2 x, q.msg.type = 0x0B → q.msg.kind = 0 → q.msg.ops = [(l1, a, v1), (l2, a, v2)] → v1 < 2 ^ 128 →
          m.ops = [(0, x, 0)] → exec (.value m) s =
            .next (answered (.values [(l1, x), (l2, newWord q.msg.opc (2 ^ q.msg.sz) x v1)]))) ∧
        exec (.done m) s = .next (answered (.values (q.lanes.map fun l => (l, 0)))) ∧
        (∀ t, m.kind ≠ 16 → m.trap = some t → ∃ u : Trap, exec (.faultReply m) s =
            .next (answered (.fault u (m.ops.map fun o => (o.1, o.2.1)))) ∧
          u.cause = t.cause ∧ u.va = t.va ∧ u.aux.testBit 15 = true) ∧
        (s.g.p.id ≠ m.who → exec (.wake m) s = .next (given { q with
          deadline := s.gtime + m.count + (if q.msg.type = 0x0C then 1200000 else 200000) })) ∧
        (q.deadline ≤ s.gtime → exec (.fabricReplyTimeout q.tag) s = .next (answered .timeout)) ∧
        (s.gtime < q.deadline → exec (.fabricReplyTimeout q.tag) s = .next s)) ∧
      (checking = true → q.answer = none → ∀ a, exec (.remoteCheckReturn s.g.p.id a) s = .next (answered
        (match a with | none => .values [] | some t => .fault t [])))) ∧
    (∀ o, s.g.sends = [o] →
      let with_ (l : List SendOut) (h : List Held) : State := { s with g := { s.g with sends := l, held := h } }
      let failed : Held :=
        { token := none, send := true, release := false,
          trap := { cause := .fabric, va := o.pc, aux := if 2 ^ 14 ≤ o.loc ∧ o.loc ≠ s.devloc.toNat then 2 ^ 15 else 0 } }
      let mine (x : Msg) : Prop :=
        x.type = 0x20 ∧ x.src = s.devloc.toNat ∧ x.who = s.g.p.id ∧ x.count = o.index
      let fails (i : Instr) : Prop := ∃ t, exec i s = .next t ∧
        t = { with_ [] (s.g.held ++ [failed]) with fab := t.fab } ∧ ∀ x, x ∈ t.fab.out ↔ x ∈ s.fab.out ∧ ¬mine x
      (m.who = s.g.p.id → m.count = o.index →
        (m.kind = 0 → exec (.sack m) s = .next (with_ [] s.g.held)) ∧
        (m.kind = 1 → exec (.sack m) s = .next (with_ [{ o with retryAt := s.gtime + 1000 }] s.g.held)) ∧
        (2 ≤ m.kind → fails (.sack m))) ∧
      (m.who = s.g.p.id → m.operand = o.index → m.kind = 16 → fails (.faultReply m)) ∧
      (m.who = s.g.p.id → m.operand = o.index → m.kind = 1 → s.g.pend = .idle → exec (.wake m) s = .next (with_
        [if o.retryAt = 0 then { o with retryAt := s.gtime + m.count, deadline := s.gtime + m.count + 200000 } else o]
        s.g.held)) ∧
      (∀ i, i ≠ o.index → exec (.sendRetry s.g.p.id i) s = .next s ∧ exec (.sendTimeout s.g.p.id i) s = .next s) ∧
      ((o.retryAt = 0 ∨ s.gtime < o.retryAt) → exec (.sendRetry s.g.p.id o.index) s = .next s) ∧
      (o.retryAt ≠ 0 → o.retryAt ≤ s.gtime → 2 ^ 14 ≤ o.loc → o.loc ≠ s.devloc.toNat →
        exec (.sendRetry s.g.p.id o.index) s = .next ((with_ [{ o with retryAt := 0 }] s.g.held).post
          { (default : Msg) with
              type := 0x20, dst := o.loc, src := s.devloc.toNat, ctx := s.g.p.ctx, opc := o.queue,
              operand := o.value.toNat, who := s.g.p.id, count := o.index })) ∧
      (o.deadline ≤ s.gtime → fails (.sendTimeout s.g.p.id o.index)) ∧
      (s.gtime < o.deadline → exec (.sendTimeout s.g.p.id o.index) s = .next s))

/-- R11, R65, R175, R351, R385: a step runs the decoded instruction. When nothing else is due and no request stands on a
service's ring, the group in focus is the first to try, it stands outside native code with nothing of a region left to
drain, and at no breakpoint, and the words at its issue address decode to `i`, a step is `exec i`, with time passed
before it, unless its results raise a fault or its target waits for a translation (R94, R266), when it is that. A long
instruction takes the next word too; a short one decodes with a second word of 0; a group that waits inside an
instruction goes on with the words with which it began it. After it the group is noted as having issued, the lookahead
claims and the companion's state go on (R74, R258), and errors may come into the group's own storage (R408): none of
that changes a register or a byte of memory, but for the count of corrected errors in the RELCOUNT block, if there is
one. -/
def Obligations.StepRunsDecoded : Prop :=
  ∀ (s : State) (w0 w1 : BitVec 64) (i : Instr) (rest : List GRef) (t : State),
    let u := s.passTime
    s.agenda = [] → u.dueNow = [] → u.serveRings = none → u.candidates = u.g.p.id :: rest → u.g.present = true →
    u.g.nat.on = false → u.tryEnter.g.nat.on = false → u.g.nat.gate = [] → u.breakpoint = none → u.g.dbg = Dbg.reset →
    u.g.badRegs = [] → u.g.nat.checking = none → u.g.nat.late = [] → (u.coreSt u.g.p.core).power ≠ 1 →
    (u.g.pend = .idle ∧ u.g.kept = none ∧ u.pc < 0x1FD * 2 ^ 48 ∧ u.translated u.pc = some w0 ∧
        (if longOp (opOf w0) then u.codeWord (u.pc + 8) = .ok w1 else w1 = 0#64) ∨
      (∃ ws, u.g.begun = some (u.pc, ws) ∧ ws.getD 0 0#64 = w0 ∧ ws.getD 1 0#64 = w1) ∧ u.g.inside = true ∧ ∀ x pc r, u.g.pend ≠ .deliver x pc r) →
    decodeWords w0 w1 = i → exec i u = .next t →
    (∀ v, u.resultStop t i = some v → onlyWaited u v = false → step s = .next (u.issued v).errorsArrive) ∧
    (u.resultStop t i = none → t.g.nat.checking = none → onlyWaited u (u.afterVirtual t i) = false →
      ∃ x, step s = .next x ∧ x = (u.issued (u.afterVirtual t i)).errorsArrive ∧
        (t.relcount = 0 → x.g.r = t.g.r ∧ x.mem = t.mem) ∧
        ((t.g.p.id = u.g.p.id ∧ t.g.present = true) → x.g.lastIssue = u.tick ∧ x.g.issuedAt = u.gtime))

/-- R72, R75, R80, R106, R145, R151, R158, R163, R174: words written out in the spec's worked examples decode to the
instructions that they stand for. -/
def Obligations.DecodedWords : Prop :=
  decodeWords 0x0000050060070060#64 0 = .add ⟨0, 5, 6, 7, 0, 6, 0⟩ ∧
  decodeWords 0x1000040050060260#64 0 = .set ⟨0, 4, 5, 6, 2, 6, 0⟩ ∧
  decodeWords 0x1600030040000766#64 0 = .shi ⟨0, 3, 4, 7, 6, 6⟩ ∧
  decodeWords 0x1700020000467920#64 0 = .nset ⟨0, 2, 0, 0x04679, 2, 0⟩ ∧
  decodeWords 0x33300800900A008A#64 0 = .vfma ⟨3, 8, 9, 10, 8, 10⟩ ∧
  decodeWords 0x410014015000A2C0#64 0 = .vcvt ⟨0, 20, 21, 0, 0xA2, 12, 0⟩ ∧
  decodeWords 0x51000C0050102306#64 0 = .ldi ⟨0, 12, 5, 16, 2, 3, 0, 3, 0⟩ ∧
  decodeWords 0x600000FFFFFFF800#64 0 = .br ⟨0, 0, 0xFFFFFFF8, 0⟩ ∧
  decodeWords 0x6C00000000000000#64 0 = .nop ⟨0, 0, 0, 0, 0, 0, 0⟩ ∧
  decodeWords 0x7000050000001100#64 0 = .srd ⟨0, 5, 0, 0x11, 0, 0⟩ ∧
  decodeWords 0x81000A0090000206#64 0x9000000000000040#64 = .sto ⟨0, 10, 9, 0, 0, 2, 0, 3, 0⟩ ⟨4, 2, 0, 0, 64⟩ ∧
  decodeWords 0x9000140060070005#64 0x200A800000000000#64 = .fao ⟨0, 20, 6, 7, 0, 0, 0, 2, 1⟩ ⟨1, 0, 21, 0, 0⟩ ∧
  decodeWords 0xAF00000000000000#64 0x0000000000000005#64 = .trsm ⟨0, 0, 0, 0, 0, 0, 0⟩ ⟨0, 0, 0, 0, 5⟩ ∧
  decodeWords 0xF800050060010068#64 0x18000800900A0040#64 = .pair ⟨0, 5, 6, 1, 0, 6, 1, 0⟩ 0x18000800900A0040#64

/-- R64, R67, R70, R72, R75, R76, R78: decoding and encoding agree. Every instruction of the virtual set whose fields pass
their checks is what its bytes decode to, whatever bytes follow, with its length; and whatever two words hold, what
they decode to encodes to just those words, so no bit is dropped. -/
def Obligations.DecodeEncode : Prop :=
  (∀ (i : Instr) (rest : List Byte), i.legal = true → encode i ≠ [] → (∀ w0 w1, i ≠ .unassignedEncoding w0 w1) →
    decode (encodeBytes i ++ rest) = .ok (i, 8 * (encode i).length)) ∧
  (∀ w0 w1 : BitVec 64, encode (decodeWords w0 w1) = if longOp (opOf w0) then [w0, w1] else [w0]) ∧
  (∀ w0 w1 : BitVec 64, (∀ x y, decodeWords w0 w1 ≠ .unassignedEncoding x y) → (decodeWords w0 w1).legal = true)

/-- R2: every step keeps the canonical form of memory: addresses strictly rising, and no byte listed that reads as an
unlisted one does. R8, R20, R31: no step raises a group's privilege. Where only groups of the system context hold
privilege S, that is so after every step. (That the system context's groups are the ones that run at S is a reading of
the model, log entry 28.) -/
def Obligations.MachineInvariants : Prop :=
  (∀ s t : State, Memory.wf s.mem = true → step s = .next t → Memory.wf t.mem = true) ∧
  (∀ s t : State, (∀ g ∈ s.groups, g.u.super = true → g.p.ctx = 0) → step s = .next t →
      ∀ g ∈ t.groups, g.u.super = true → g.p.ctx = 0)

/-- R335, R394, R400: the machine after reset. Boot is at stage 0; nothing is resident or launched, no queue is enabled,
and queue 0 is the system context's, no receive queue is bound, no trace record is created; memory lists nothing, and
its form is canonical. That unlisted memory reads 0 is the model's choice (log entry 1). -/
def Obligations.ResetState : Prop :=
  let s := State.reset
  s.boot.stage = 0 ∧ s.boot.recovery = false ∧ s.groups = [] ∧ s.launches = [] ∧ s.blocks = [] ∧ s.xlats = [] ∧
  s.jobs = [] ∧ (∀ q, (s.queueOf q).enable = false ∧ (s.queueOf q).ctx = if q = 0 then some 0 else none) ∧ (∀ q, (SMap.get default s.rxq q).ctx = none) ∧
  (∀ c, (s.profOf c).port = false ∧ (s.profOf c).period = 0) ∧ (∀ d, (s.dieSt d).power = 0 ∧ (s.dieSt d).off = false) ∧
  s.devPower = 0 ∧ s.agenda = [] ∧ Memory.wf s.mem = true ∧ (∀ a, BMap.get s.mem a = 0) ∧ core.reset = s
end

