-- ==== Sys2Proof/Laws/Alu.lean ====
section
/-! SUPPORT. The integer arithmetic on codes is the arithmetic of bit vectors of the type's width. -/

namespace Sys2Proof.Machine
open Sys2Proof.Num

/-- The integer that a bit vector stands for. -/
def valOf (sign : Bool) {n : Nat} (x : BitVec n) : Int := if sign then x.toInt else x.toNat

theorem signed_eq (c : Nat) {n : Nat} (hn : 0 < n) : signed c n = (BitVec.ofNat n c).toInt := by
  obtain ⟨k, rfl⟩ : ∃ k, n = k + 1 := ⟨n - 1, by omega⟩
  unfold signed
  rw [BitVec.toInt_eq_toNat_cond]
  simp only [BitVec.toNat_ofNat, Nat.add_sub_cancel, Nat.pow_succ]
  have : c % (2 ^ k * 2) < 2 ^ k ↔ 2 * (c % (2 ^ k * 2)) < 2 ^ k * 2 := by omega
  simp only [this]
  split <;> simp [Int.pow_succ]

theorem codeOf_eq (z : Int) (n : Nat) : codeOf z n = (BitVec.ofInt n z).toNat := by
  simp [codeOf, BitVec.toNat_ofInt]

theorem tyBits_pos {t : Nat} (ht : t ≤ 7) : 0 < tyBits t := by
  match t, ht with
  | 0, _ | 1, _ | 2, _ | 3, _ | 4, _ | 5, _ | 6, _ | 7, _ => decide

theorem intVal_eq {t : Nat} (ht : t ≤ 7) (c : Nat) :
    intVal t c = valOf (tySigned t) (BitVec.ofNat (tyBits t) c) := by
  unfold intVal valOf
  simp only [signed_eq c (tyBits_pos ht), BitVec.toNat_ofNat]

theorem ofInt_valOf (sign : Bool) {n : Nat} (x : BitVec n) : BitVec.ofInt n (valOf sign x) = x := by
  unfold valOf; cases sign <;> simp

theorem ofInt_sub' (n : Nat) (a b : Int) : BitVec.ofInt n (a - b) = BitVec.ofInt n a - BitVec.ofInt n b := by
  rw [Int.sub_eq_add_neg, BitVec.ofInt_add, BitVec.ofInt_neg, BitVec.sub_eq_add_neg]

theorem sdiv_eq_ofInt {n : Nat} (x y : BitVec n) : BitVec.ofInt n (x.toInt.tdiv y.toInt) = x.sdiv y := by
  apply BitVec.eq_of_toInt_eq; rw [BitVec.toInt_ofInt, BitVec.toInt_sdiv]

theorem srem_eq_ofInt {n : Nat} (x y : BitVec n) : BitVec.ofInt n (x.toInt.tmod y.toInt) = x.srem y := by
  rw [← BitVec.toInt_srem, BitVec.ofInt_toInt]

theorem valOf_eq_zero {sign : Bool} {n : Nat} {y : BitVec n} : valOf sign y = 0 ↔ y = 0 := by
  unfold valOf
  cases sign
  · rw [← BitVec.toNat_inj]; simp
  · rw [if_pos rfl, ← BitVec.toInt_inj]; simp

theorem valOf_lt {sign : Bool} {n : Nat} {x y : BitVec n} :
    valOf sign x < valOf sign y ↔ (if sign then x.slt y else x.ult y) = true := by
  unfold valOf
  cases sign
  · simp [BitVec.ult]
  · simp [BitVec.slt]

/-- The high half of the exact product. -/
theorem mulh_eq (sign : Bool) {n : Nat} (x y : BitVec n) :
    BitVec.ofInt n (valOf sign x * valOf sign y / 2 ^ n) = IntOp.of .mulh sign x y := by
  have key : ∀ (p q : BitVec (2 * n)) (u v : Int), BitVec.ofInt (2 * n) u = p → BitVec.ofInt (2 * n) v = q →
      BitVec.ofInt n (u * v / 2 ^ n) = ((p * q) >>> n).setWidth n := by
    intro p q u v hp hq
    apply BitVec.eq_of_toNat_eq
    rw [← hp, ← hq, ← BitVec.ofInt_mul]
    simp only [BitVec.toNat_ofInt, BitVec.toNat_setWidth, BitVec.toNat_ushiftRight, Nat.shiftRight_eq_div_pow]
    have h2 : ((2 ^ (2 * n) : Nat) : Int) = 2 ^ n * 2 ^ n := by rw [Nat.two_mul, Nat.pow_add]; simp
    have hp2 : (0 : Int) < 2 ^ n := Int.pow_pos (by omega)
    apply Int.ofNat_inj.1
    have hn0 : ((2 ^ n : Nat) : Int) ≠ 0 := by have := Nat.two_pow_pos n; omega
    have hn1 : ((2 ^ (2 * n) : Nat) : Int) ≠ 0 := by have := Nat.two_pow_pos (2 * n); omega
    rw [Int.toNat_of_nonneg (Int.emod_nonneg _ hn0)]
    rw [Int.natCast_emod, Int.natCast_ediv, Int.toNat_of_nonneg (Int.emod_nonneg _ hn1), h2]
    simp only [Int.natCast_pow, Int.cast_ofNat_Int]
    generalize u * v = z at *
    generalize (2 : Int) ^ n = m at *
    have hz := Int.emod_add_mul_ediv z (m * m)
    have e1 : z / m = (z % (m * m)) / m + m * (z / (m * m)) := by
      conv => lhs; rw [← hz]
      rw [show z % (m * m) + m * m * (z / (m * m)) = z % (m * m) + m * (m * (z / (m * m))) by rw [Int.mul_assoc],
        Int.add_mul_ediv_left _ _ (by omega)]
    rw [e1, Int.add_mul_emod_self_left]
  unfold IntOp.of
  cases sign
  · simp only [Bool.false_eq_true, if_false]
    apply key
    · simp [valOf]
    · simp [valOf]
  · simp only [if_true]
    apply key <;> rfl

/-- The two-operand integer operations. -/
def IntOp.code : IntOp → Alu
  | .add => .add | .sub => .sub | .mul => .mul | .mulh => .mulh | .div => .div | .rem => .rem | .and => .and
  | .or => .or | .xor => .xor | .andn => .andn | .min => .min | .max => .max

theorem aluCode_eq {t : Nat} (ht : t ≤ 7) (op : IntOp) (a b : Nat) :
    aluCode op.code t a b =
      (op.of (tySigned t) (BitVec.ofNat (tyBits t) a) (BitVec.ofNat (tyBits t) b)).toNat := by
  unfold aluCode
  simp only [intVal_eq ht, codeOf_eq]
  have hlt := fun c => Nat.mod_lt c (Nat.two_pow_pos (tyBits t))
  generalize tySigned t = sg
  cases op <;> simp only [IntOp.code]
  · rw [BitVec.ofInt_add, ofInt_valOf, ofInt_valOf]; rfl
  · rw [ofInt_sub', ofInt_valOf, ofInt_valOf]; rfl
  · rw [BitVec.ofInt_mul, ofInt_valOf, ofInt_valOf]; rfl
  · rw [mulh_eq]
  · simp only [divInt, valOf_eq_zero, IntOp.of]
    split
    · rw [show BitVec.ofInt (tyBits t) (-1) = BitVec.allOnes (tyBits t) by
        rw [← BitVec.neg_one_eq_allOnes, BitVec.ofInt_neg]; simp]
    · cases sg
      · simp only [valOf, Bool.false_eq_true, if_false]
        rw [← Int.ofNat_tdiv, BitVec.ofInt_natCast, BitVec.toNat_udiv, BitVec.toNat_ofNat]
        exact Nat.mod_eq_of_lt (Nat.lt_of_le_of_lt (Nat.div_le_self _ _) (by simpa using hlt a))
      · simp only [valOf, if_true, sdiv_eq_ofInt]
  · simp only [remInt, valOf_eq_zero, IntOp.of]
    split
    · rw [ofInt_valOf]
    · cases sg
      · simp only [valOf, Bool.false_eq_true, if_false]
        rw [← Int.ofNat_tmod, BitVec.ofInt_natCast, BitVec.toNat_umod, BitVec.toNat_ofNat]
        exact Nat.mod_eq_of_lt (Nat.lt_of_le_of_lt (Nat.mod_le _ _) (by simpa using hlt a))
      · simp only [valOf, if_true, srem_eq_ofInt]
  · simp [IntOp.of]
  · simp [IntOp.of]
  · simp [IntOp.of]
  · simp only [IntOp.of, BitVec.toNat_and, BitVec.toNat_not, BitVec.toNat_ofNat]
  · simp only [IntOp.of, ← valOf_lt]
    split <;> rw [ofInt_valOf]
  · simp only [IntOp.of, ← valOf_lt]
    split <;> rw [ofInt_valOf]

/-- The shifts. -/
def ShiftOp.code : ShiftOp → Shift
  | .shl => .shl | .shr => .shr | .sar => .sar | .rot => .rot

theorem shiftCode_eq (op : ShiftOp) (t a b : Nat) (ht : t ≤ 7) :
    aluCode (.shift op.code) t a b = (op.of (BitVec.ofNat (tyBits t) a) b).toNat := by
  unfold aluCode
  have hn := tyBits_pos ht
  simp only []
  generalize tyBits t = n at *
  have hlt : a % 2 ^ n < 2 ^ n := Nat.mod_lt _ (Nat.two_pow_pos n)
  cases op <;> simp only [ShiftOp.code, shiftCode, ShiftOp.of]
  · split
    · rw [BitVec.shiftLeft_eq_zero (by omega)]; rfl
    · simp [Nat.shiftLeft_eq]
  · split
    · rw [BitVec.ushiftRight_eq_zero (by omega)]; rfl
    · simp [Nat.shiftRight_eq_div_pow]
  · rw [codeOf_eq, signed_eq _ hn]
    rw [show BitVec.ofNat n (a % 2 ^ n) = BitVec.ofNat n a by apply BitVec.eq_of_toNat_eq; simp]
    rw [BitVec.sshiftRight_eq]
    congr 2
    generalize BitVec.ofNat n a = x
    by_cases hb : b ≤ n - 1
    · rw [Nat.min_eq_left hb, Int.shiftRight_eq_div_pow]; simp
    · rw [Nat.min_eq_right (by omega), Int.shiftRight_eq_div_pow]
      have h1 := BitVec.le_two_mul_toInt (x := x)
      have h2 := BitVec.two_mul_toInt_lt (x := x)
      have e : (2 : Int) ^ n = 2 * 2 ^ (n - 1) := by
        conv => lhs; rw [show n = n - 1 + 1 by omega, Int.pow_succ]
        omega
      have hp : (0 : Int) < 2 ^ (n - 1) := Int.pow_pos (by omega)
      have hle : (2 : Int) ^ (n - 1) ≤ 2 ^ b := by exact_mod_cast Nat.pow_le_pow_right (by omega) (by omega)
      by_cases hx : x.toInt < 0
      · rw [Int.ediv_eq_neg_one_of_neg_of_le hx (by omega), Int.natCast_pow,
          Int.ediv_eq_neg_one_of_neg_of_le hx (by simp; omega)]
      · rw [Int.ediv_eq_zero_of_lt (by omega) (by omega), Int.natCast_pow,
          Int.ediv_eq_zero_of_lt (by omega) (by simp; omega)]
  · rw [BitVec.toNat_rotateLeft, BitVec.toNat_ofNat, Nat.shiftLeft_eq, Nat.shiftRight_eq_div_pow]
    generalize a % 2 ^ n = x at *
    have hk : b % n < n := Nat.mod_lt _ hn
    generalize b % n = k at *
    have e : (2 : Nat) ^ n = 2 ^ k * 2 ^ (n - k) := by rw [← Nat.pow_add]; congr 1; omega
    have h1 : x * 2 ^ k % 2 ^ n = 2 ^ k * (x % 2 ^ (n - k)) := by
      rw [Nat.mul_comm, e, Nat.mul_mod_mul_left]
    have h2 : x / 2 ^ (n - k) < 2 ^ k := by
      rw [Nat.div_lt_iff_lt_mul (Nat.two_pow_pos _)]; omega
    rw [h1]
    exact Nat.two_pow_add_eq_or_of_lt h2 _

/-! ### Values in registers (R38, R91) -/

theorem extendTo_eq {w t : Nat} (ht : t ≤ 7) (hw : tyBits t ≤ w) (c : Nat) :
    BitVec.ofNat w (extendTo w t c) = placed w (tySigned t) (BitVec.ofNat (tyBits t) c) := by
  have hn := tyBits_pos ht
  have hty : tyWidth t = tyBits t := by
    match t, ht with
    | 0, _ | 1, _ | 2, _ | 3, _ | 4, _ | 5, _ | 6, _ | 7, _ => decide
  unfold extendTo placed
  rw [hty, show (t == 0 || t == 2 || t == 4 || t == 6) = tySigned t from rfl]
  generalize tyBits t = n at *
  have hlt : c % 2 ^ n < 2 ^ n := Nat.mod_lt _ (Nat.two_pow_pos n)
  have hle : 2 ^ n ≤ 2 ^ w := Nat.pow_le_pow_right (by omega) hw
  apply BitVec.eq_of_toNat_eq
  cases tySigned t
  · simp
  · have hm : (BitVec.ofNat n c).msb = decide (2 ^ (n - 1) ≤ c % 2 ^ n) := by
      rw [BitVec.msb_eq_decide]; simp
    simp only [if_true, Bool.true_and, BitVec.toNat_signExtend, hm, BitVec.toNat_setWidth, BitVec.toNat_ofNat]
    by_cases h : 2 ^ (n - 1) ≤ c % 2 ^ n
    · by_cases h2 : n < w
      · have h3 : 2 ^ n < 2 ^ w := Nat.pow_lt_pow_right (by omega) h2
        rw [if_pos (by simp [h, h2]), if_pos (by simpa using h), Nat.mod_eq_of_lt (by omega),
          Nat.mod_eq_of_lt (a := c % 2 ^ n) (by omega)]
      · have : n = w := by omega
        subst this; simp [h]
    · simp [h]

theorem result64_eq {t : Nat} (ht : t ≤ 7) (c : Nat) :
    result64 t c = placed 64 (tySigned t) (BitVec.ofNat (tyBits t) c) := by
  apply extendTo_eq ht
  match t, ht with
  | 0, _ | 1, _ | 2, _ | 3, _ | 4, _ | 5, _ | 6, _ | 7, _ => decide

end Sys2Proof.Machine
end

