-- ==== Sys2Proof/Laws/SMap.lean ====
section
/-! SUPPORT. The laws of the sparse tables: what a read after a write gives, and that every write keeps
the canonical form. -/

namespace Sys2Proof

section
variable {α : Type} [DecidableEq α] {d : α}

theorem SMap.wfFrom_mono {m : SMap α} {a b : Nat} (h : SMap.wfFrom d b m = true) (hab : a ≤ b) :
    SMap.wfFrom d a m = true := by
  cases m with
  | nil => rfl
  | cons x t => simp [SMap.wfFrom] at *; exact ⟨⟨by omega, h.1.2⟩, h.2⟩

theorem SMap.get_below {m : SMap α} {lo k : Nat} (h : SMap.wfFrom d lo m = true) (hk : k < lo) :
    SMap.get d m k = d := by
  induction m generalizing lo with
  | nil => rfl
  | cons x t ih =>
    simp [SMap.wfFrom] at h
    simp [SMap.get, show ¬ k = x.1 by omega, ih h.2 (by omega)]

theorem SMap.wfFrom_insert {m : SMap α} {lo k : Nat} {v : α} (h : SMap.wfFrom d lo m = true)
    (hk : lo ≤ k) (hv : v ≠ d) : SMap.wfFrom d lo (SMap.insert m k v) = true := by
  induction m generalizing lo with
  | nil => simp [SMap.insert, SMap.wfFrom, hk, hv]
  | cons x t ih =>
    have h' := h
    simp [SMap.wfFrom] at h
    simp only [SMap.insert]
    split
    · simp [SMap.wfFrom, hk, hv, h.1.2, h.2]; omega
    · split
      · simp [SMap.wfFrom, hk, hv]; subst_vars; exact h.2
      · simp [SMap.wfFrom, h.1, ih h.2 (by omega)]

theorem SMap.wfFrom_erase {m : SMap α} {lo k : Nat} (h : SMap.wfFrom d lo m = true) :
    SMap.wfFrom d lo (SMap.erase m k) = true := by
  induction m generalizing lo with
  | nil => rfl
  | cons x t ih =>
    simp [SMap.wfFrom] at h
    simp only [SMap.erase]
    split
    · exact SMap.wfFrom_mono (ih h.2) (by omega)
    · simp [SMap.wfFrom, h.1, ih h.2]

/-- A write keeps the canonical form. -/
theorem SMap.wf_set {m : SMap α} (h : SMap.wf d m = true) (k : Nat) (v : α) :
    SMap.wf d (SMap.set d m k v) = true := by
  unfold SMap.set SMap.wf
  split
  · exact SMap.wfFrom_erase h
  · exact SMap.wfFrom_insert h (Nat.zero_le _) ‹_›

omit [DecidableEq α] in
theorem SMap.get_insert (m : SMap α) (k j : Nat) (v : α) :
    SMap.get d (SMap.insert m k v) j = if j = k then v else SMap.get d m j := by
  induction m with
  | nil => simp [SMap.insert, SMap.get]
  | cons x t ih =>
    simp only [SMap.insert]
    split
    · simp [SMap.get]
    · split
      · subst_vars; by_cases h : j = x.1 <;> simp [SMap.get, h]
      · simp only [SMap.get, ih]
        by_cases h : j = k
        · subst h; simp; omega
        · simp [h]

omit [DecidableEq α] in
theorem SMap.get_erase (m : SMap α) (k j : Nat) :
    SMap.get d (SMap.erase m k) j = if j = k then d else SMap.get d m j := by
  induction m with
  | nil => simp [SMap.erase, SMap.get]
  | cons x t ih =>
    simp only [SMap.erase]
    by_cases hk : k = x.1
    · by_cases hj : j = k <;> simp_all [SMap.get]
    · by_cases hj : j = k <;> simp_all [SMap.get]

/-- A read after a write. -/
theorem SMap.get_set (m : SMap α) (k j : Nat) (v : α) :
    SMap.get d (SMap.set d m k v) j = if j = k then v else SMap.get d m j := by
  unfold SMap.set
  split
  · subst_vars; exact SMap.get_erase m k j
  · exact SMap.get_insert m k j v

/-- A write leaves every other key's value alone. -/
theorem SMap.get_set_ne (m : SMap α) {k j : Nat} (h : j ≠ k) (v : α) :
    SMap.get d (SMap.set d m k v) j = SMap.get d m j := by simp [SMap.get_set, h]

end

variable {w : Nat}

theorem BMap.wf_set {m : BMap w} (h : SMap.wf 0 m = true) (k : Nat) (v : BitVec w) :
    SMap.wf 0 (BMap.set m k v) = true := SMap.wf_set h k v

theorem BMap.get_set (m : BMap w) (k j : Nat) (v : BitVec w) :
    BMap.get (BMap.set m k v) j = if j = k then v else BMap.get m j := SMap.get_set m k j v

theorem BMap.get_set_ne (m : BMap w) {k j : Nat} (h : j ≠ k) (v : BitVec w) :
    BMap.get (BMap.set m k v) j = BMap.get m j := SMap.get_set_ne m h v

@[simp] theorem BMap.get_nil (k : Nat) : BMap.get ([] : BMap w) k = 0 := rfl

/-! ### Strings of bytes -/

/-- A store of bytes keeps the canonical form. -/
theorem BMap.wf_writeNat {m : BMap 8} (h : SMap.wf 0 m = true) (a n v : Nat) :
    SMap.wf 0 (BMap.writeNat m a n v) = true := by
  induction n generalizing m a v with
  | zero => exact h
  | succ n ih => exact ih (BMap.wf_set h _ _) _ _

theorem BMap.wf_writeBytes {m : BMap 8} (h : SMap.wf 0 m = true) (a : Nat) (l : List (BitVec 8)) :
    SMap.wf 0 (BMap.writeBytes m a l) = true := by
  induction l generalizing m a with
  | nil => exact h
  | cons b t ih => exact ih (BMap.wf_set h _ _) _

/-- A store leaves every byte outside its range alone. -/
theorem BMap.get_writeNat_out (m : BMap 8) {a n x : Nat} (v : Nat) (h : x < a ∨ a + n ≤ x) :
    BMap.get (BMap.writeNat m a n v) x = BMap.get m x := by
  induction n generalizing m a v with
  | zero => rfl
  | succ n ih =>
    rw [BMap.writeNat, ih _ _ (by omega), BMap.get_set_ne _ (by omega)]

/-- The byte that a store leaves at each address of its range. -/
theorem BMap.get_writeNat_in (m : BMap 8) {a n i : Nat} (v : Nat) (h : i < n) :
    BMap.get (BMap.writeNat m a n v) (a + i) = BitVec.ofNat 8 (v / 256 ^ i) := by
  induction n generalizing m a v i with
  | zero => omega
  | succ n ih =>
    rw [BMap.writeNat]
    cases i with
    | zero => rw [Nat.add_zero, BMap.get_writeNat_out _ _ (by omega), BMap.get_set]; simp
    | succ i =>
      have := ih (BMap.set m a (BitVec.ofNat 8 v)) (a := a + 1) (v / 256) (i := i) (by omega)
      rw [show a + (i + 1) = a + 1 + i by omega, this, Nat.div_div_eq_div_mul, Nat.pow_succ, Nat.mul_comm]

/-- A read after a store to the same range gives the value stored. -/
theorem BMap.readNat_writeNat (m : BMap 8) (a n v : Nat) :
    BMap.readNat (BMap.writeNat m a n v) a n = v % 256 ^ n := by
  induction n generalizing m a v with
  | zero => simp [BMap.readNat, Nat.mod_one]
  | succ n ih =>
    rw [BMap.readNat, BMap.writeNat, ih, BMap.get_writeNat_out _ _ (by omega), BMap.get_set]
    have h := Nat.mod_mul (a := 256) (b := 256 ^ n) (x := v)
    rw [Nat.pow_succ, Nat.mul_comm (256 ^ n), h]
    simp

/-- Memories that agree on a range read the same value there. -/
theorem BMap.readNat_congr {m m' : BMap 8} {a n : Nat}
    (h : ∀ i, i < n → BMap.get m (a + i) = BMap.get m' (a + i)) : BMap.readNat m a n = BMap.readNat m' a n := by
  induction n generalizing a with
  | zero => rfl
  | succ n ih =>
    have h0 : BMap.get m a = BMap.get m' a := h 0 (by omega)
    rw [BMap.readNat, BMap.readNat, h0, ih fun i hi => by
      simpa [Nat.add_assoc, Nat.add_comm 1] using h (i + 1) (by omega)]

/-- A store outside a range leaves its value alone. -/
theorem BMap.readNat_writeNat_out (m : BMap 8) {a n b k : Nat} (v : Nat) (h : b + k ≤ a ∨ a + n ≤ b) :
    BMap.readNat (BMap.writeNat m a n v) b k = BMap.readNat m b k := by
  induction k generalizing b with
  | zero => rfl
  | succ k ih => rw [BMap.readNat, BMap.readNat, ih (by omega), BMap.get_writeNat_out _ _ (by omega)]

end Sys2Proof
end

