-- ==== Sys2Proof/Laws/Mem.lean ====
section
/-! SUPPORT. What the shared memory operations can do: on which parts of the state the checks of an access depend,
what a store and its wakes change, and that every one of them keeps memory's canonical form. -/

namespace Sys2Proof.Machine

/-! ### What translation and the checks read -/

/-- The parts of a state that the checks of an access read. -/
structure SameView (s t : State) : Prop where
  mem : t.mem = s.mem
  poison : t.poison = s.poison
  ctxs : t.ctxs = s.ctxs
  devloc : t.devloc = s.devloc
  blocks : t.blocks = s.blocks
  p : t.g.p = s.g.p
  u : t.g.u = s.g.u
  dbg : t.g.dbg = s.g.dbg
  privPoison : t.g.privPoison = s.g.privPoison

theorem SameView.leafOf {s t : State} (h : SameView s t) (ctx : Nat) (u : Use) (va : Nat) :
    t.leafOf ctx u va = s.leafOf ctx u va := by
  unfold State.leafOf State.findCtx; rw [h.mem, h.ctxs]

theorem SameView.pageSpans {s t : State} (h : SameView s t) (ctx : Nat) (u : Use) (fuel va n : Nat) :
    t.pageSpans ctx u fuel va n = s.pageSpans ctx u fuel va n := by
  induction fuel generalizing va n with
  | zero => rfl
  | succ k ih => simp only [State.pageSpans, ih, h.leafOf]

theorem SameView.privSpans {s t : State} (h : SameView s t) (a : Acc) (fuel o n : Nat) :
    t.privSpans a fuel o n = s.privSpans a fuel o n := by
  induction fuel generalizing o n with
  | zero => rfl
  | succ k ih => simp only [State.privSpans, ih, h.leafOf, h.u, h.p]

theorem SameView.isLocal {s t : State} (h : SameView s t) (a : Nat) : t.isLocal a = s.isLocal a := by
  unfold State.isLocal; rw [h.devloc]

theorem SameView.ownerFault {s t : State} (h : SameView s t) (o n : Nat) : t.ownerFault o n = s.ownerFault o n := by
  unfold State.ownerFault State.ownerOf State.findBlock; rw [h.blocks, h.p]

theorem SameView.watchHit {s t : State} (h : SameView s t) (a : Acc) (x : Nat) : t.watchHit a x = s.watchHit a x := by
  unfold State.watchHit; simp only [h.dbg, h.devloc, h.isLocal]

theorem SameView.poisonedAt {s t : State} (h : SameView s t) (l : List Span) : t.poisonedAt l = s.poisonedAt l := by
  induction l with
  | nil => rfl
  | cons p ps ih =>
    simp only [State.poisonedAt, State.marksOf, State.scratchPoison, State.findBlock, ih, h.poison, h.blocks, h.p,
      h.privPoison]

theorem SameView.clean {s t : State} (h : SameView s t) (a : Acc) (x : Nat) (l : List Span) :
    t.clean a x l = s.clean a x l := by
  unfold State.clean; rw [h.poisonedAt]

/-- Equal views give equal checks. -/
theorem SameView.check {s t : State} (h : SameView s t) (a : Acc) : t.check a = s.check a := by
  have h1 : t.isLocal = s.isLocal := funext h.isLocal
  have h2 : t.pageSpans = s.pageSpans := by funext a b c d e; exact h.pageSpans a b c d e
  have h3 : t.privSpans = s.privSpans := by funext a b c d; exact h.privSpans a b c d
  have h4 : t.ownerFault = s.ownerFault := by funext a b; exact h.ownerFault a b
  have h5 : t.watchHit = s.watchHit := by funext a b; exact h.watchHit a b
  have h6 : t.clean = s.clean := by funext a b c; exact h.clean a b c
  unfold State.check
  rw [h1, h2, h3, h4, h5, h6, h.u]

/-! ### Wakes and stores -/

theorem State.updGroup_g (s : State) (who : GRef) (f : Group → Group) :
    (s.updGroup who f).g = if s.g.p.id = who ∧ s.g.present = true then f s.g else s.g := by
  unfold State.updGroup; split <;> rfl

/-- The wake of one waiter changes a group's wait, or adds to the agenda. -/
theorem State.wakeOne_eq (s : State) (e : ShelfEntry) :
    s.wakeOne e = { s with
      g := (s.wakeOne e).g, others := (s.wakeOne e).others, agenda := (s.wakeOne e).agenda } := by
  unfold State.wakeOne State.wakeSlice State.updGroup
  split <;> (repeat' split) <;> rfl

theorem State.wakeOne_g (s : State) (e : ShelfEntry) :
    (s.wakeOne e).g = { s.g with pend := (s.wakeOne e).g.pend } := by
  unfold State.wakeOne State.wakeSlice State.updGroup
  split <;> (repeat' split) <;> rfl

theorem State.wakes_eq (s : State) (pa n : Nat) :
    s.wakes pa n = { s with
      g := { s.g with pend := (s.wakes pa n).g.pend }, others := (s.wakes pa n).others
      agenda := (s.wakes pa n).agenda, shelf := (s.wakes pa n).shelf } := by
  have key : ∀ (l : List ShelfEntry) (u : State),
      l.foldl State.wakeOne u = { u with
        g := { u.g with pend := (l.foldl State.wakeOne u).g.pend }, others := (l.foldl State.wakeOne u).others
        agenda := (l.foldl State.wakeOne u).agenda } := by
    intro l
    induction l with
    | nil => intro u; rfl
    | cons e t ih =>
      intro u
      rw [List.foldl_cons, ih, State.wakeOne_eq u e, State.wakeOne_g u e]
  unfold State.wakes
  split
  · rfl
  · rw [key]

theorem State.writeMem_eq (s : State) (pa n v : Nat) :
    s.writeMem pa n v = { s with
      g := { s.g with pend := (s.writeMem pa n v).g.pend }, others := (s.writeMem pa n v).others
      agenda := (s.writeMem pa n v).agenda, shelf := (s.writeMem pa n v).shelf, mem := (s.writeMem pa n v).mem
      poison := (s.writeMem pa n v).poison } := by
  unfold State.writeMem
  rw [State.wakes_eq]

/-- A store changes memory, the group's private lines or the block's scratchpad, and wakes what waits for it. -/
theorem State.writeSpans_eq (s : State) (l : List Span) (v : Nat) :
    s.writeSpans l v = { s with
      g := { s.g with
        pend := (s.writeSpans l v).g.pend, priv := (s.writeSpans l v).g.priv
        privPoison := (s.writeSpans l v).g.privPoison }
      others := (s.writeSpans l v).others
      agenda := (s.writeSpans l v).agenda, shelf := (s.writeSpans l v).shelf, mem := (s.writeSpans l v).mem
      poison := (s.writeSpans l v).poison
      blocks := (s.writeSpans l v).blocks } := by
  induction l generalizing s v with
  | nil => rfl
  | cons p ps ih =>
    unfold State.writeSpans
    rw [ih]
    split
    · rfl
    · split
      · rfl
      · rw [State.writeMem_eq]

theorem State.countRel_eq (s : State) (i n : Nat) :
    s.countRel i n = { s with
      g := { s.g with pend := (s.countRel i n).g.pend }, others := (s.countRel i n).others
      agenda := (s.countRel i n).agenda, shelf := (s.countRel i n).shelf, mem := (s.countRel i n).mem
      poison := (s.countRel i n).poison } := by
  unfold State.countRel
  split
  · rfl
  · simp only [memSpan, State.writeSpans]
    exact State.writeMem_eq _ _ _ _

theorem State.writeMem_mem (s : State) (pa n v : Nat) : (s.writeMem pa n v).mem = BMap.writeNat s.mem pa n v := by
  unfold State.writeMem
  rw [State.wakes_eq]

/-- R409: a counter of the RELCOUNT block, if the block is there, rises. -/
theorem State.countRel_mem (s : State) (i n : Nat) :
    (s.countRel i n).mem = if s.relcount = 0 then s.mem else
      BMap.writeNat s.mem (s.relcount + 8 * i) 8 ((BMap.readNat s.mem (s.relcount + 8 * i) 8 + n) % 2 ^ 64) := by
  unfold State.countRel
  split
  · rfl
  · simp [memSpan, State.writeSpans, State.readSpans, State.spaceOf, State.writeMem_mem]

end Sys2Proof.Machine
end

