-- ==== Sys2Proof/Laws/Canon.lean ====
section
/-! SUPPORT. Every operation over memory keeps its canonical form. -/

namespace Sys2Proof.Machine

/-- A memory's canonical form, as a property of the state. -/
def State.Canon (s : State) : Prop := Memory.wf s.mem = true

theorem State.canon_of_mem {s t : State} (h : t.mem = s.mem) (hs : s.Canon) : t.Canon := by
  unfold State.Canon; rw [h]; exact hs

/-- Work done once for each entry of a list keeps the form when each piece of it does. -/
theorem State.canon_each {α : Type} {work : State → α → State} (piece : ∀ u x, u.Canon → (work u x).Canon) :
    ∀ (todo : List α) {s : State}, s.Canon → (todo.foldl work s).Canon
  | [], _, ok => ok
  | x :: todo, s, ok => State.canon_each piece todo (piece s x ok)

theorem State.canon_reset : State.reset.Canon := rfl

theorem State.canon_updGroup {s : State} (who : GRef) (f : Group → Group) (hs : s.Canon) : (s.updGroup who f).Canon := by
  unfold State.updGroup; split <;> exact hs

theorem State.canon_wakeOne {s : State} (e : ShelfEntry) (hs : s.Canon) : (s.wakeOne e).Canon := by
  have hw : (s.wakeSlice e.slice).Canon := by unfold State.wakeSlice; split <;> exact hs
  unfold State.wakeOne
  split
  · exact State.canon_updGroup _ _ hw
  · exact hw
  · exact hs

theorem State.canon_wakes {s : State} (pa n : Nat) (hs : s.Canon) : (s.wakes pa n).Canon := by
  unfold State.wakes
  split
  · exact hs
  · exact State.canon_each (fun s e h => State.canon_wakeOne e h) _ hs

theorem State.canon_writeSpans {s : State} (l : List Span) (v : Nat) (hs : s.Canon) : (s.writeSpans l v).Canon := by
  induction l generalizing s v with
  | nil => exact hs
  | cons p ps ih =>
    unfold State.writeSpans
    apply ih
    split
    · exact hs
    · split
      · exact hs
      · exact State.canon_wakes _ _ (BMap.wf_writeNat hs _ _ _)

theorem State.canon_writeAs {s : State} (who : GRef) (l : List Span) (v : Nat) (hs : s.Canon) :
    (s.writeAs who l v).Canon := by
  induction l generalizing s v with
  | nil => exact hs
  | cons p ps ih =>
    unfold State.writeAs
    apply ih
    split
    · exact hs
    · exact State.canon_wakes _ _ (BMap.wf_writeNat hs _ _ _)

theorem State.canon_countRel {s : State} (i n : Nat) (hs : s.Canon) : (s.countRel i n).Canon := by
  unfold State.countRel
  split
  · exact hs
  · exact State.canon_writeSpans _ _ hs

/-! ### Page tables -/

theorem wf_setAD {m : BMap 8} (h : SMap.wf 0 m = true) (a : Nat) (d : Bool) : SMap.wf 0 (setAD m a d) = true :=
  BMap.wf_writeNat h _ _ _

theorem wf_markUsed {m : BMap 8} (h : SMap.wf 0 m = true) (f : Leaf) (d : Bool) :
    SMap.wf 0 (markUsed m f d) = true := by
  have key : ∀ (l : List Nat) (b : Nat) (m : BMap 8), SMap.wf 0 m = true →
      SMap.wf 0 (l.foldl (fun m i => setAD m (b + 8 * i) d) m) = true := by
    intro l b
    induction l with
    | nil => intro m hm; exact hm
    | cons x t ih => intro m hm; exact ih _ (wf_setAD hm _ _)
  unfold markUsed
  simp only []
  split
  · exact key _ _ _ h
  · exact wf_setAD h _ _

theorem State.canon_touchPages {s : State} (ctx : Nat) (w : Bool) (fuel va n : Nat) (hs : s.Canon) :
    (s.touchPages ctx w fuel va n).Canon := by
  induction fuel generalizing s va n with
  | zero => exact hs
  | succ k ih =>
    unfold State.touchPages
    split
    · exact hs
    · apply ih
      split
      · exact wf_markUsed hs _ _
      · exact hs

theorem State.canon_mark {s : State} (a : Acc) (hs : s.Canon) : (s.mark a).Canon := by
  unfold State.mark
  split
  · exact hs
  · simp only []
    split
    · exact hs
    · split
      · exact State.canon_each (fun s i h => State.canon_touchPages _ _ _ _ _ h) _ hs
      · exact State.canon_touchPages _ _ _ _ _ hs

theorem State.canon_countHints {s : State} (l : List (Nat × Nat)) (hs : s.Canon) : (s.countHints l).Canon := by
  unfold State.countHints
  refine State.canon_each (fun s p h => ?_) _ hs
  split
  · unfold State.countHint
    split <;> exact h
  · exact h

theorem State.canon_touch {s : State} (a : Acc) (hs : s.Canon) : (s.touch a).Canon :=
  State.canon_countHints _ (State.canon_mark a hs)

theorem State.canon_touchAll {s : State} (l : List Acc) (hs : s.Canon) : (s.touchAll l).Canon :=
  State.canon_countHints _ (State.canon_each (fun _ a h => State.canon_mark a h) l hs)

theorem wfFrom_filter {m : BMap 8} {lo : Nat} (p : Nat × BitVec 8 → Bool) (h : SMap.wfFrom 0 lo m = true) :
    SMap.wfFrom 0 lo (m.filter p) = true := by
  induction m generalizing lo with
  | nil => rfl
  | cons x t ih =>
    obtain ⟨j, v⟩ := x
    simp only [SMap.wfFrom, Bool.and_eq_true, decide_eq_true_eq] at h
    have ht := ih h.2
    by_cases hp : p (j, v) = true
    · rw [List.filter_cons_of_pos hp]
      simp only [SMap.wfFrom, Bool.and_eq_true, decide_eq_true_eq]
      exact ⟨h.1, ht⟩
    · rw [List.filter_cons_of_neg hp]
      exact SMap.wfFrom_mono ht (by omega)

theorem State.canon_newFrame {s : State} (hs : s.Canon) : s.newFrame.2.Canon := wfFrom_filter _ hs

theorem State.canon_writePtes {s : State} (l : List (Nat × BitVec 64)) (hs : s.Canon) : (s.writePtes l).Canon :=
  State.canon_each (fun _ _ h => State.canon_writeSpans _ _ h) l hs

theorem State.canon_entryAt {s : State} (va t l : Nat) (hs : s.Canon) : (s.entryAt va t l).2.Canon := by
  induction l using Nat.strongRecOn generalizing s t with
  | _ l ih =>
    match l, ih with
    | 0, _ => exact hs
    | 1, _ => exact hs
    | k + 2, ih =>
      unfold State.entryAt
      simp only []
      split
      · exact ih _ (by omega) _ hs
      · exact ih _ (by omega) _ (State.canon_writePtes _ (State.canon_newFrame hs))

theorem State.canon_mapEntry {s : State} (ctx va : Nat) (leaf : BitVec 64) (hs : s.Canon) :
    (s.mapEntry ctx va leaf).Canon := by
  unfold State.mapEntry
  split
  · exact hs
  · exact State.canon_writePtes _ (State.canon_entryAt _ _ _ hs)

theorem State.canon_mapAt {s : State} (ctx va pa : Nat) (w x : Bool) (hs : s.Canon) : (s.mapAt ctx va pa w x).Canon :=
  State.canon_mapEntry _ _ _ hs

theorem State.canon_mapPage {s : State} (ctx va : Nat) (w x : Bool) (hs : s.Canon) : (s.mapPage ctx va w x).Canon :=
  State.canon_mapEntry _ _ _ (State.canon_newFrame hs)

theorem State.canon_mapRange {s : State} (ctx va n : Nat) (w x : Bool) (hs : s.Canon) :
    (s.mapRange ctx va n w x).Canon :=
  State.canon_each (fun _ _ h => State.canon_mapPage _ _ _ _ h) _ hs

theorem State.canon_unmapPage {s : State} (ctx va : Nat) (hs : s.Canon) : (s.unmapPage ctx va).Canon := by
  unfold State.unmapPage
  have h1 : ∀ f, (s.updCtx ctx f).Canon := fun _ => hs
  simp only []
  split
  · exact State.canon_writePtes _ (State.canon_entryAt _ _ _ (h1 _))
  · exact h1 _

theorem State.canon_unmapRange {s : State} (ctx va n : Nat) (hs : s.Canon) : (s.unmapRange ctx va n).Canon :=
  State.canon_each (fun _ _ h => State.canon_unmapPage _ _ h) _ hs

theorem State.canon_placeCtx {s : State} (ctx va : Nat) (bs : List Nat) (hs : s.Canon) :
    (s.placeCtx ctx va bs).Canon := by
  unfold State.placeCtx
  split
  · exact State.canon_writeSpans _ _ hs
  · exact hs

theorem State.canon_writeCtx {s t : State} {ctx va n v : Nat} (h : s.writeCtx ctx va n v = some t) (hs : s.Canon) :
    t.Canon := by
  unfold State.writeCtx at h
  cases hsp : s.ctxSpans ctx va n true with
  | none => rw [hsp] at h; cases h
  | some l =>
    rw [hsp] at h
    cases h
    exact State.canon_writeSpans _ _ (State.canon_touchPages _ _ _ _ _ hs)

theorem State.canon_writeFields {s t : State} {ctx base : Nat} {l : List Field}
    (h : s.writeFields ctx base l = some t) (hs : s.Canon) : t.Canon := by
  unfold State.writeFields at h
  induction l generalizing s with
  | nil => cases h; exact hs
  | cons x xs ih =>
    rw [List.foldlM_cons] at h
    cases hw : s.writeCtx ctx (base + x.1) x.2.1 x.2.2 with
    | none => rw [hw] at h; cases h
    | some u => rw [hw] at h; exact ih h (State.canon_writeCtx hw hs)

theorem State.canon_writeResult {s : State} (ctx a st : Nat) (hs : s.Canon) : (s.writeResult ctx a st).Canon := by
  unfold State.writeResult
  split
  · exact hs
  · cases h : s.writeCtx ctx a 8 st with
    | none => exact hs
    | some t => exact State.canon_writeCtx h hs

/-! ### Traps and completion -/

theorem State.canon_writeFrame {s : State} (lane : Nat) (hs : s.Canon) : (s.writeFrame lane).Canon := by
  unfold State.writeFrame
  split
  · exact State.canon_writeSpans _ _ (State.canon_touch _ hs)
  · exact hs

theorem State.canon_enterHandler {s : State} (t : Trap) (pc : Nat) (r : Bool) (hs : s.Canon) :
    (s.enterHandler t pc r).Canon := by
  unfold State.enterHandler
  split
  · exact hs
  · split
    · exact State.canon_each (fun _ l h => State.canon_writeFrame l h) _ hs
    · split <;> exact hs

end Sys2Proof.Machine
end

