-- ==== Sys2Proof/Laws/Dispatch.lean ====
section
/-! SUPPORT. What `exec` does with each constructor: one call of its meaning, so that no proof unfolds the dispatch. -/

namespace Sys2Proof.Machine

@[simp] theorem exec_add (f : FR) (s : State) :
    exec (.add f) s = execAdd f s := rfl
@[simp] theorem exec_sub (f : FR) (s : State) :
    exec (.sub f) s = execSub f s := rfl
@[simp] theorem exec_mul (f : FR) (s : State) :
    exec (.mul f) s = execMul f s := rfl
@[simp] theorem exec_mulh (f : FR) (s : State) :
    exec (.mulh f) s = execMulh f s := rfl
@[simp] theorem exec_div (f : FR) (s : State) :
    exec (.div f) s = execDiv f s := rfl
@[simp] theorem exec_rem (f : FR) (s : State) :
    exec (.rem f) s = execRem f s := rfl
@[simp] theorem exec_and (f : FR) (s : State) :
    exec (.and f) s = execAnd f s := rfl
@[simp] theorem exec_or (f : FR) (s : State) :
    exec (.or f) s = execOr f s := rfl
@[simp] theorem exec_xor (f : FR) (s : State) :
    exec (.xor f) s = execXor f s := rfl
@[simp] theorem exec_andn (f : FR) (s : State) :
    exec (.andn f) s = execAndn f s := rfl
@[simp] theorem exec_shl (f : FR) (s : State) :
    exec (.shl f) s = execShl f s := rfl
@[simp] theorem exec_shr (f : FR) (s : State) :
    exec (.shr f) s = execShr f s := rfl
@[simp] theorem exec_sar (f : FR) (s : State) :
    exec (.sar f) s = execSar f s := rfl
@[simp] theorem exec_rot (f : FR) (s : State) :
    exec (.rot f) s = execRot f s := rfl
@[simp] theorem exec_min (f : FR) (s : State) :
    exec (.min f) s = execMin f s := rfl
@[simp] theorem exec_max (f : FR) (s : State) :
    exec (.max f) s = execMax f s := rfl
@[simp] theorem exec_set (f : FR) (s : State) :
    exec (.set f) s = execSet f s := rfl
@[simp] theorem exec_clz (f : FR) (s : State) :
    exec (.clz f) s = execClz f s := rfl
@[simp] theorem exec_ctz (f : FR) (s : State) :
    exec (.ctz f) s = execCtz f s := rfl
@[simp] theorem exec_popc (f : FR) (s : State) :
    exec (.popc f) s = execPopc f s := rfl
@[simp] theorem exec_bfx (f : FQ) (s : State) :
    exec (.bfx f) s = execBfx f s := rfl
@[simp] theorem exec_bfi (f : FQ) (s : State) :
    exec (.bfi f) s = execBfi f s := rfl
@[simp] theorem exec_sel (f : FQ) (s : State) :
    exec (.sel f) s = execSel f s := rfl
@[simp] theorem exec_addi (f : FI) (s : State) :
    exec (.addi f) s = execAddi f s := rfl
@[simp] theorem exec_logi (f : FI) (s : State) :
    exec (.logi f) s = execLogi f s := rfl
@[simp] theorem exec_shi (f : FI) (s : State) :
    exec (.shi f) s = execShi f s := rfl
@[simp] theorem exec_lih (f : FI) (s : State) :
    exec (.lih f) s = execLih f s := rfl
@[simp] theorem exec_addpc (f : FI) (s : State) :
    exec (.addpc f) s = execAddpc f s := rfl
@[simp] theorem exec_nset (f : FI) (s : State) :
    exec (.nset f) s = execNset f s := rfl
@[simp] theorem exec_nget (f : FI) (s : State) :
    exec (.nget f) s = execNget f s := rfl
@[simp] theorem exec_vadd (f : FR) (s : State) :
    exec (.vadd f) s = execVadd f s := rfl
@[simp] theorem exec_vsub (f : FR) (s : State) :
    exec (.vsub f) s = execVsub f s := rfl
@[simp] theorem exec_vmul (f : FR) (s : State) :
    exec (.vmul f) s = execVmul f s := rfl
@[simp] theorem exec_vmulh (f : FR) (s : State) :
    exec (.vmulh f) s = execVmulh f s := rfl
@[simp] theorem exec_vmad (f : FQ) (s : State) :
    exec (.vmad f) s = execVmad f s := rfl
@[simp] theorem exec_vmin (f : FR) (s : State) :
    exec (.vmin f) s = execVmin f s := rfl
@[simp] theorem exec_vmax (f : FR) (s : State) :
    exec (.vmax f) s = execVmax f s := rfl
@[simp] theorem exec_vabs (f : FR) (s : State) :
    exec (.vabs f) s = execVabs f s := rfl
@[simp] theorem exec_vand (f : FR) (s : State) :
    exec (.vand f) s = execVand f s := rfl
@[simp] theorem exec_vor (f : FR) (s : State) :
    exec (.vor f) s = execVor f s := rfl
@[simp] theorem exec_vxor (f : FR) (s : State) :
    exec (.vxor f) s = execVxor f s := rfl
@[simp] theorem exec_vnot (f : FR) (s : State) :
    exec (.vnot f) s = execVnot f s := rfl
@[simp] theorem exec_vshl (f : FR) (s : State) :
    exec (.vshl f) s = execVshl f s := rfl
@[simp] theorem exec_vshr (f : FR) (s : State) :
    exec (.vshr f) s = execVshr f s := rfl
@[simp] theorem exec_vsar (f : FR) (s : State) :
    exec (.vsar f) s = execVsar f s := rfl
@[simp] theorem exec_vbfx (f : FQ) (s : State) :
    exec (.vbfx f) s = execVbfx f s := rfl
@[simp] theorem exec_vbfi (f : FQ) (s : State) :
    exec (.vbfi f) s = execVbfi f s := rfl
@[simp] theorem exec_vclz (f : FR) (s : State) :
    exec (.vclz f) s = execVclz f s := rfl
@[simp] theorem exec_vpopc (f : FR) (s : State) :
    exec (.vpopc f) s = execVpopc f s := rfl
@[simp] theorem exec_vcmp (f : FR) (s : State) :
    exec (.vcmp f) s = execVcmp f s := rfl
@[simp] theorem exec_vsel (f : FQ) (s : State) :
    exec (.vsel f) s = execVsel f s := rfl
@[simp] theorem exec_vmov (f : FR) (s : State) :
    exec (.vmov f) s = execVmov f s := rfl
@[simp] theorem exec_vbcast (f : FR) (s : State) :
    exec (.vbcast f) s = execVbcast f s := rfl
@[simp] theorem exec_viota (f : FR) (s : State) :
    exec (.viota f) s = execViota f s := rfl
@[simp] theorem exec_vdot4 (f : FQ) (s : State) :
    exec (.vdot4 f) s = execVdot4 f s := rfl
@[simp] theorem exec_kop (f : FR) (s : State) :
    exec (.kop f) s = execKop f s := rfl
@[simp] theorem exec_kmovTos (f : FR) (s : State) :
    exec (.kmovTos f) s = execKmovTos f s := rfl
@[simp] theorem exec_kmovFroms (f : FR) (s : State) :
    exec (.kmovFroms f) s = execKmovFroms f s := rfl
@[simp] theorem exec_vfadd (f : FR) (s : State) :
    exec (.vfadd f) s = execVfadd f s := rfl
@[simp] theorem exec_vfsub (f : FR) (s : State) :
    exec (.vfsub f) s = execVfsub f s := rfl
@[simp] theorem exec_vfmul (f : FR) (s : State) :
    exec (.vfmul f) s = execVfmul f s := rfl
@[simp] theorem exec_vfma (f : FQ) (s : State) :
    exec (.vfma f) s = execVfma f s := rfl
@[simp] theorem exec_vfmin (f : FR) (s : State) :
    exec (.vfmin f) s = execVfmin f s := rfl
@[simp] theorem exec_vfmax (f : FR) (s : State) :
    exec (.vfmax f) s = execVfmax f s := rfl
@[simp] theorem exec_vfcmp (f : FR) (s : State) :
    exec (.vfcmp f) s = execVfcmp f s := rfl
@[simp] theorem exec_vfdiv (f : FR) (s : State) :
    exec (.vfdiv f) s = execVfdiv f s := rfl
@[simp] theorem exec_vfsqrt (f : FR) (s : State) :
    exec (.vfsqrt f) s = execVfsqrt f s := rfl
@[simp] theorem exec_vrcp (f : FR) (s : State) :
    exec (.vrcp f) s = execVrcp f s := rfl
@[simp] theorem exec_vrsq (f : FR) (s : State) :
    exec (.vrsq f) s = execVrsq f s := rfl
@[simp] theorem exec_vexp2 (f : FR) (s : State) :
    exec (.vexp2 f) s = execVexp2 f s := rfl
@[simp] theorem exec_vlog2 (f : FR) (s : State) :
    exec (.vlog2 f) s = execVlog2 f s := rfl
@[simp] theorem exec_vsin (f : FR) (s : State) :
    exec (.vsin f) s = execVsin f s := rfl
@[simp] theorem exec_vcos (f : FR) (s : State) :
    exec (.vcos f) s = execVcos f s := rfl
@[simp] theorem exec_vtanh (f : FR) (s : State) :
    exec (.vtanh f) s = execVtanh f s := rfl
@[simp] theorem exec_vround (f : FR) (s : State) :
    exec (.vround f) s = execVround f s := rfl
@[simp] theorem exec_vcvt (f : FR) (s : State) :
    exec (.vcvt f) s = execVcvt f s := rfl
@[simp] theorem exec_vpack (f : FR) (s : State) :
    exec (.vpack f) s = execVpack f s := rfl
@[simp] theorem exec_vunpack (f : FR) (s : State) :
    exec (.vunpack f) s = execVunpack f s := rfl
@[simp] theorem exec_vscale (f : FR) (s : State) :
    exec (.vscale f) s = execVscale f s := rfl
@[simp] theorem exec_vperm (f : FR) (s : State) :
    exec (.vperm f) s = execVperm f s := rfl
@[simp] theorem exec_vshfl (f : FR) (s : State) :
    exec (.vshfl f) s = execVshfl f s := rfl
@[simp] theorem exec_vred (f : FR) (s : State) :
    exec (.vred f) s = execVred f s := rfl
@[simp] theorem exec_vscan (f : FR) (s : State) :
    exec (.vscan f) s = execVscan f s := rfl
@[simp] theorem exec_vvote (f : FR) (s : State) :
    exec (.vvote f) s = execVvote f s := rfl
@[simp] theorem exec_vpart (f : FR) (s : State) :
    exec (.vpart f) s = execVpart f s := rfl
@[simp] theorem exec_ld (f : FM) (s : State) :
    exec (.ld f) s = execLd f s := rfl
@[simp] theorem exec_ldi (f : FM) (s : State) :
    exec (.ldi f) s = execLdi f s := rfl
@[simp] theorem exec_st (f : FM) (s : State) :
    exec (.st f) s = execSt f s := rfl
@[simp] theorem exec_sti (f : FM) (s : State) :
    exec (.sti f) s = execSti f s := rfl
@[simp] theorem exec_vld (f : FM) (s : State) :
    exec (.vld f) s = execVld f s := rfl
@[simp] theorem exec_vldi (f : FM) (s : State) :
    exec (.vldi f) s = execVldi f s := rfl
@[simp] theorem exec_vst (f : FM) (s : State) :
    exec (.vst f) s = execVst f s := rfl
@[simp] theorem exec_vsti (f : FM) (s : State) :
    exec (.vsti f) s = execVsti f s := rfl
@[simp] theorem exec_vldc (f : FM) (s : State) :
    exec (.vldc f) s = execVldc f s := rfl
@[simp] theorem exec_vstc (f : FM) (s : State) :
    exec (.vstc f) s = execVstc f s := rfl
@[simp] theorem exec_pld (f : FM) (s : State) :
    exec (.pld f) s = execPld f s := rfl
@[simp] theorem exec_cwb (f : FM) (s : State) :
    exec (.cwb f) s = execCwb f s := rfl
@[simp] theorem exec_cinv (f : FM) (s : State) :
    exec (.cinv f) s = execCinv f s := rfl
@[simp] theorem exec_ldo (f : FM) (w : W1) (s : State) :
    exec (.ldo f w) s = execLdo f w s := rfl
@[simp] theorem exec_sto (f : FM) (w : W1) (s : State) :
    exec (.sto f w) s = execSto f w s := rfl
@[simp] theorem exec_vldo (f : FM) (w : W1) (s : State) :
    exec (.vldo f w) s = execVldo f w s := rfl
@[simp] theorem exec_vsto (f : FM) (w : W1) (s : State) :
    exec (.vsto f w) s = execVsto f w s := rfl
@[simp] theorem exec_stf (f : FM) (w : W1) (s : State) :
    exec (.stf f w) s = execStf f w s := rfl
@[simp] theorem exec_acp (f : FM) (w : W1) (s : State) :
    exec (.acp f w) s = execAcp f w s := rfl
@[simp] theorem exec_bpf (f : FM) (w : W1) (s : State) :
    exec (.bpf f w) s = execBpf f w s := rfl
@[simp] theorem exec_nld (f : FM) (w : W1) (s : State) :
    exec (.nld f w) s = execNld f w s := rfl
@[simp] theorem exec_nst (f : FM) (w : W1) (s : State) :
    exec (.nst f w) s = execNst f w s := rfl
@[simp] theorem exec_fao (f : FM) (w : W1) (s : State) :
    exec (.fao f w) s = execFao f w s := rfl
@[simp] theorem exec_faor (f : FM) (w : W1) (s : State) :
    exec (.faor f w) s = execFaor f w s := rfl
@[simp] theorem exec_red (f : FM) (w : W1) (s : State) :
    exec (.red f w) s = execRed f w s := rfl
@[simp] theorem exec_cas (f : FM) (w : W1) (s : State) :
    exec (.cas f w) s = execCas f w s := rfl
@[simp] theorem exec_enq (f : FM) (w : W1) (s : State) :
    exec (.enq f w) s = execEnq f w s := rfl
@[simp] theorem exec_deq (f : FM) (w : W1) (s : State) :
    exec (.deq f w) s = execDeq f w s := rfl
@[simp] theorem exec_waitc (f : FM) (w : W1) (s : State) :
    exec (.waitc f w) s = execWaitc f w s := rfl
@[simp] theorem exec_fence (f : FR) (w : W1) (s : State) :
    exec (.fence f w) s = execFence f w s := rfl
@[simp] theorem exec_bari (f : FM) (w : W1) (s : State) :
    exec (.bari f w) s = execBari f w s := rfl
@[simp] theorem exec_bara (f : FM) (w : W1) (s : State) :
    exec (.bara f w) s = execBara f w s := rfl
@[simp] theorem exec_barw (f : FM) (w : W1) (s : State) :
    exec (.barw f w) s = execBarw f w s := rfl
@[simp] theorem exec_br (f : FB) (s : State) :
    exec (.br f) s = execBr f s := rfl
@[simp] theorem exec_brc (f : FB) (s : State) :
    exec (.brc f) s = execBrc f s := rfl
@[simp] theorem exec_brk (f : FB) (s : State) :
    exec (.brk f) s = execBrk f s := rfl
@[simp] theorem exec_jmpi (f : FR) (s : State) :
    exec (.jmpi f) s = execJmpi f s := rfl
@[simp] theorem exec_call (f : FB) (s : State) :
    exec (.call f) s = execCall f s := rfl
@[simp] theorem exec_calli (f : FR) (s : State) :
    exec (.calli f) s = execCalli f s := rfl
@[simp] theorem exec_ret (f : FR) (s : State) :
    exec (.ret f) s = execRet f s := rfl
@[simp] theorem exec_exit (f : FR) (s : State) :
    exec (.exit f) s = execExit f s := rfl
@[simp] theorem exec_loop (f : FB) (s : State) :
    exec (.loop f) s = execLoop f s := rfl
@[simp] theorem exec_lbrk (f : FB) (s : State) :
    exec (.lbrk f) s = execLbrk f s := rfl
@[simp] theorem exec_waitt (f : FI) (s : State) :
    exec (.waitt f) s = execWaitt f s := rfl
@[simp] theorem exec_yield (f : FR) (s : State) :
    exec (.yield f) s = execYield f s := rfl
@[simp] theorem exec_nop (f : FR) (s : State) :
    exec (.nop f) s = execNop f s := rfl
@[simp] theorem exec_srd (f : FI) (s : State) :
    exec (.srd f) s = execSrd f s := rfl
@[simp] theorem exec_swr (f : FI) (s : State) :
    exec (.swr f) s = execSwr f s := rfl
@[simp] theorem exec_trap (f : FI) (s : State) :
    exec (.trap f) s = execTrap f s := rfl
@[simp] theorem exec_tret (f : FR) (s : State) :
    exec (.tret f) s = execTret f s := rfl
@[simp] theorem exec_bkpt (f : FI) (s : State) :
    exec (.bkpt f) s = execBkpt f s := rfl
@[simp] theorem exec_svcVersion (f : FI) (s : State) :
    exec (.svcVersion f) s = execSvcVersion f s := rfl
@[simp] theorem exec_svcAbort (f : FI) (s : State) :
    exec (.svcAbort f) s = execSvcAbort f s := rfl
@[simp] theorem exec_svcPrivsize (f : FI) (s : State) :
    exec (.svcPrivsize f) s = execSvcPrivsize f s := rfl
@[simp] theorem exec_svcDebugged (f : FI) (s : State) :
    exec (.svcDebugged f) s = execSvcDebugged f s := rfl
@[simp] theorem exec_svcSleep (f : FI) (s : State) :
    exec (.svcSleep f) s = execSvcSleep f s := rfl
@[simp] theorem exec_svcUnknown (f : FI) (s : State) :
    exec (.svcUnknown f) s = execSvcUnknown f s := rfl
@[simp] theorem exec_svcHelper (f : FI) (s : State) :
    exec (.svcHelper f) s = execSvcHelper f s := rfl
@[simp] theorem exec_icinv (f : FR) (s : State) :
    exec (.icinv f) s = execIcinv f s := rfl
@[simp] theorem exec_synci (f : FR) (s : State) :
    exec (.synci f) s = execSynci f s := rfl
@[simp] theorem exec_send (f : FR) (s : State) :
    exec (.send f) s = execSend f s := rfl
@[simp] theorem exec_qbind (f : FI) (s : State) :
    exec (.qbind f) s = execQbind f s := rfl
@[simp] theorem exec_qbindUn (f : FI) (s : State) :
    exec (.qbindUn f) s = execQbindUn f s := rfl
@[simp] theorem exec_pmark (f : FI) (s : State) :
    exec (.pmark f) s = execPmark f s := rfl
@[simp] theorem exec_hpf (body : BitVec 56) (s : State) :
    exec (.hpf body) s = execHpf body s := rfl
@[simp] theorem exec_hbr (body : BitVec 56) (s : State) :
    exec (.hbr body) s = execHbr body s := rfl
@[simp] theorem exec_hhot (op : BitVec 8) (body : BitVec 56) (s : State) :
    exec (.hhot op body) s = execHhot op body s := rfl
@[simp] theorem exec_pair (p : PairHead) (v : BitVec 64) (s : State) :
    exec (.pair p v) s = execPair p v s := rfl
@[simp] theorem exec_unassignedEncoding (w0 w1 : BitVec 64) (s : State) :
    exec (.unassignedEncoding w0 w1) s = execUnassignedEncoding w0 w1 s := rfl
@[simp] theorem exec_tld (f : FR) (w : W1) (s : State) :
    exec (.tld f w) s = execTld f w s := rfl
@[simp] theorem exec_tst (f : FR) (w : W1) (s : State) :
    exec (.tst f w) s = execTst f w s := rfl
@[simp] theorem exec_tcp (f : FR) (w : W1) (s : State) :
    exec (.tcp f w) s = execTcp f w s := rfl
@[simp] theorem exec_wbld (f : FR) (w : W1) (s : State) :
    exec (.wbld f w) s = execWbld f w s := rfl
@[simp] theorem exec_tmma (f : FR) (w : W1) (s : State) :
    exec (.tmma f w) s = execTmma f w s := rfl
@[simp] theorem exec_tscan (f : FR) (w : W1) (s : State) :
    exec (.tscan f w) s = execTscan f w s := rfl
@[simp] theorem exec_tzero (f : FR) (w : W1) (s : State) :
    exec (.tzero f w) s = execTzero f w s := rfl
@[simp] theorem exec_tacrd (f : FR) (w : W1) (s : State) :
    exec (.tacrd f w) s = execTacrd f w s := rfl
@[simp] theorem exec_tacwr (f : FR) (w : W1) (s : State) :
    exec (.tacwr f w) s = execTacwr f w s := rfl
@[simp] theorem exec_tred (f : FR) (w : W1) (s : State) :
    exec (.tred f w) s = execTred f w s := rfl
@[simp] theorem exec_tew (f : FR) (w : W1) (s : State) :
    exec (.tew f w) s = execTew f w s := rfl
@[simp] theorem exec_tfmt (f : FR) (w : W1) (s : State) :
    exec (.tfmt f w) s = execTfmt f w s := rfl
@[simp] theorem exec_tlease (f : FR) (w : W1) (s : State) :
    exec (.tlease f w) s = execTlease f w s := rfl
@[simp] theorem exec_tfree (f : FR) (w : W1) (s : State) :
    exec (.tfree f w) s = execTfree f w s := rfl
@[simp] theorem exec_tbmap (f : FR) (w : W1) (s : State) :
    exec (.tbmap f w) s = execTbmap f w s := rfl
@[simp] theorem exec_trsm (f : FR) (w : W1) (s : State) :
    exec (.trsm f w) s = execTrsm f w s := rfl
@[simp] theorem exec_ibset (g : BitVec 4) (r : BitVec 10) (imm : BitVec 20) (s : State) :
    exec (.ibset g r imm) s = execIbset g r imm s := rfl
@[simp] theorem exec_xcmp (g : BitVec 4) (d a : BitVec 12) (voff : BitVec 16) (s : State) :
    exec (.xcmp g d a voff) s = execXcmp g d a voff s := rfl
@[simp] theorem exec_bundleIssue (s : State) :
    exec (.bundleIssue) s = execBundleIssue s := rfl
@[simp] theorem exec_resultArrival (who : GRef) (index : Nat) (s : State) :
    exec (.resultArrival who index) s = execResultArrival who index s := rfl
@[simp] theorem exec_breakpointHit (index : Nat) (s : State) :
    exec (.breakpointHit index) s = execBreakpointHit index s := rfl
@[simp] theorem exec_homeSliceOperation (op : SliceOp) (s : State) :
    exec (.homeSliceOperation op) s = execHomeSliceOperation op s := rfl
@[simp] theorem exec_waitcTimeout (who : GRef) (s : State) :
    exec (.waitcTimeout who) s = execWaitcTimeout who s := rfl
@[simp] theorem exec_shelfEntryError (who : GRef) (s : State) :
    exec (.shelfEntryError who) s = execShelfEntryError who s := rfl
@[simp] theorem exec_faorSetTimeout (pa : Nat) (s : State) :
    exec (.faorSetTimeout pa) s = execFaorSetTimeout pa s := rfl
@[simp] theorem exec_remoteCheckReturn (who : GRef) (answer : Option Trap) (s : State) :
    exec (.remoteCheckReturn who answer) s = execRemoteCheckReturn who answer s := rfl
@[simp] theorem exec_engineOperationComplete (id : Nat) (s : State) :
    exec (.engineOperationComplete id) s = execEngineOperationComplete id s := rfl
@[simp] theorem exec_tileChildComplete (who : GRef) (record child : Nat) (s : State) :
    exec (.tileChildComplete who record child) s = execTileChildComplete who record child s := rfl
@[simp] theorem exec_tileChildFault (who : GRef) (record child : Nat) (report : TileReport) (s : State) :
    exec (.tileChildFault who record child report) s = execTileChildFault who record child report s := rfl
@[simp] theorem exec_leaseTenureEnd (core : Nat) (s : State) :
    exec (.leaseTenureEnd core) s = execLeaseTenureEnd core s := rfl
@[simp] theorem exec_icinvComplete (id : Nat) (s : State) :
    exec (.icinvComplete id) s = execIcinvComplete id s := rfl
@[simp] theorem exec_translationStubCall (who : GRef) (callee : Nat) (s : State) :
    exec (.translationStubCall who callee) s = execTranslationStubCall who callee s := rfl
@[simp] theorem exec_xlatTimeout (who : GRef) (s : State) :
    exec (.xlatTimeout who) s = execXlatTimeout who s := rfl
@[simp] theorem exec_hotRetranslation (id : Nat) (s : State) :
    exec (.hotRetranslation id) s = execHotRetranslation id s := rfl
@[simp] theorem exec_translatorKernelStart (s : State) :
    exec (.translatorKernelStart) s = execTranslatorKernelStart s := rfl
@[simp] theorem exec_bind (ctx index : Nat) (s : State) :
    exec (.bind ctx index) s = execBind ctx index s := rfl
@[simp] theorem exec_loadRequest (ctx : Nat) (s : State) :
    exec (.loadRequest ctx) s = execLoadRequest ctx s := rfl
@[simp] theorem exec_unloadRequest (ctx : Nat) (s : State) :
    exec (.unloadRequest ctx) s = execUnloadRequest ctx s := rfl
@[simp] theorem exec_privateGrowth (who : GRef) (granted : Bool) (ptes : List (Nat × BitVec 64)) (perLane : Nat) (s : State) :
    exec (.privateGrowth who granted ptes perLane) s = execPrivateGrowth who granted ptes perLane s := rfl
@[simp] theorem exec_nonresidentPageService (who : GRef) (granted : Bool) (ptes : List (Nat × BitVec 64)) (bytes : List (Nat × BitVec 8)) (s : State) :
    exec (.nonresidentPageService who granted ptes bytes) s = execNonresidentPageService who granted ptes bytes s := rfl
@[simp] theorem exec_mappingChange (ctx : Nat) (ptes : List (Nat × BitVec 64)) (nonresident : List Nat) (s : State) :
    exec (.mappingChange ctx ptes nonresident) s = execMappingChange ctx ptes nonresident s := rfl
@[simp] theorem exec_contextEnd (ctx : Nat) (s : State) :
    exec (.contextEnd ctx) s = execContextEnd ctx s := rfl
@[simp] theorem exec_coreDump (ctx : Nat) (s : State) :
    exec (.coreDump ctx) s = execCoreDump ctx s := rfl
@[simp] theorem exec_replayLogExtend (who : GRef) (granted : Bool) (s : State) :
    exec (.replayLogExtend who granted) s = execReplayLogExtend who granted s := rfl
@[simp] theorem exec_deviceQueueWake (queue : Nat) (s : State) :
    exec (.deviceQueueWake queue) s = execDeviceQueueWake queue s := rfl
@[simp] theorem exec_counterWatchWake (line : Nat) (s : State) :
    exec (.counterWatchWake line) s = execCounterWatchWake line s := rfl
@[simp] theorem exec_blockPlacement (die : Nat) (s : State) :
    exec (.blockPlacement die) s = execBlockPlacement die s := rfl
@[simp] theorem exec_placementWaitExpiry (launch : Nat) (s : State) :
    exec (.placementWaitExpiry launch) s = execPlacementWaitExpiry launch s := rfl
@[simp] theorem exec_priorityStarvationExpiry (die : Nat) (s : State) :
    exec (.priorityStarvationExpiry die) s = execPriorityStarvationExpiry die s := rfl
@[simp] theorem exec_runtimePreemptRequest (launch block bound : Nat) (s : State) :
    exec (.runtimePreemptRequest launch block bound) s = execRuntimePreemptRequest launch block bound s := rfl
@[simp] theorem exec_drainBoundExpiry (launch block : Nat) (s : State) :
    exec (.drainBoundExpiry launch block) s = execDrainBoundExpiry launch block s := rfl
@[simp] theorem exec_preemptSave (launch block : Nat) (s : State) :
    exec (.preemptSave launch block) s = execPreemptSave launch block s := rfl
@[simp] theorem exec_preemptFlush (launch block : Nat) (s : State) :
    exec (.preemptFlush launch block) s = execPreemptFlush launch block s := rfl
@[simp] theorem exec_blockResume (launch block : Nat) (s : State) :
    exec (.blockResume launch block) s = execBlockResume launch block s := rfl
@[simp] theorem exec_launchComplete (launch : Nat) (s : State) :
    exec (.launchComplete launch) s = execLaunchComplete launch s := rfl
@[simp] theorem exec_completionActionRetry (launch : Nat) (s : State) :
    exec (.completionActionRetry launch) s = execCompletionActionRetry launch s := rfl
@[simp] theorem exec_pL1Entry (core : Nat) (s : State) :
    exec (.pL1Entry core) s = execPL1Entry core s := rfl
@[simp] theorem exec_pL2Entry (core : Nat) (s : State) :
    exec (.pL2Entry core) s = execPL2Entry core s := rfl
@[simp] theorem exec_pL3Entry (die : Nat) (s : State) :
    exec (.pL3Entry die) s = execPL3Entry die s := rfl
@[simp] theorem exec_pL4Entry (s : State) :
    exec (.pL4Entry) s = execPL4Entry s := rfl
@[simp] theorem exec_powerWake (unit : PowerUnit) (s : State) :
    exec (.powerWake unit) s = execPowerWake unit s := rfl
@[simp] theorem exec_hostApertureEnqueue (queue offset : Nat) (bytes : List (BitVec 8)) (s : State) :
    exec (.hostApertureEnqueue queue offset bytes) s = execHostApertureEnqueue queue offset bytes s := rfl
@[simp] theorem exec_hostMemWrite (pa : Nat) (bytes : List (BitVec 8)) (s : State) :
    exec (.hostMemWrite pa bytes) s = execHostMemWrite pa bytes s := rfl
@[simp] theorem exec_hostMemRead (pa count : Nat) (s : State) :
    exec (.hostMemRead pa count) s = execHostMemRead pa count s := rfl
@[simp] theorem exec_pcapWrite (watts : Nat) (s : State) :
    exec (.pcapWrite watts) s = execPcapWrite watts s := rfl
@[simp] theorem exec_resetWrite (value : BitVec 32) (s : State) :
    exec (.resetWrite value) s = execResetWrite value s := rfl
@[simp] theorem exec_mgmtRegisterWrite (register : MgmtReg) (value : BitVec 64) (s : State) :
    exec (.mgmtRegisterWrite register value) s = execMgmtRegisterWrite register value s := rfl
@[simp] theorem exec_getVersion (s : State) :
    exec (.getVersion) s = execGetVersion s := rfl
@[simp] theorem exec_getCapabilities (s : State) :
    exec (.getCapabilities) s = execGetCapabilities s := rfl
@[simp] theorem exec_negotiateAlgorithms (offered : List SpdmAlg) (s : State) :
    exec (.negotiateAlgorithms offered) s = execNegotiateAlgorithms offered s := rfl
@[simp] theorem exec_getDigests (s : State) :
    exec (.getDigests) s = execGetDigests s := rfl
@[simp] theorem exec_getCertificate (slot : Nat) (s : State) :
    exec (.getCertificate slot) s = execGetCertificate slot s := rfl
@[simp] theorem exec_challenge (slot nonce : Nat) (s : State) :
    exec (.challenge slot nonce) s = execChallenge slot nonce s := rfl
@[simp] theorem exec_getMeasurements (slot : Nat) (s : State) :
    exec (.getMeasurements slot) s = execGetMeasurements slot s := rfl
@[simp] theorem exec_keyExchange (session : Nat) (s : State) :
    exec (.keyExchange session) s = execKeyExchange session s := rfl
@[simp] theorem exec_finish (at_ : InSession) (s : State) :
    exec (.finish at_) s = execFinish at_ s := rfl
@[simp] theorem exec_keyUpdate (at_ : InSession) (link : Option Nat) (s : State) :
    exec (.keyUpdate at_ link) s = execKeyUpdate at_ link s := rfl
@[simp] theorem exec_endSession (at_ : InSession) (s : State) :
    exec (.endSession at_) s = execEndSession at_ s := rfl
@[simp] theorem exec_trustDomainLoad (at_ : InSession) (digests : List Nat) (s : State) :
    exec (.trustDomainLoad at_ digests) s = execTrustDomainLoad at_ digests s := rfl
@[simp] theorem exec_powerOnReset (s : State) :
    exec (.powerOnReset) s = execPowerOnReset s := rfl
@[simp] theorem exec_bootStage1 (slotA slotB : BootImage) (s : State) :
    exec (.bootStage1 slotA slotB) s = execBootStage1 slotA slotB s := rfl
@[simp] theorem exec_bootStage2Complete (runtime translator : BootImage) (setup : BootSetup) (s : State) :
    exec (.bootStage2Complete runtime translator setup) s = execBootStage2Complete runtime translator setup s := rfl
@[simp] theorem exec_scrub (line : Nat) (seen corrected : List (BitVec 8)) (s : State) :
    exec (.scrub line seen corrected) s = execScrub line seen corrected s := rfl
@[simp] theorem exec_dieStateError (die : Nat) (s : State) :
    exec (.dieStateError die) s = execDieStateError die s := rfl
@[simp] theorem exec_thermalShutdown (s : State) :
    exec (.thermalShutdown) s = execThermalShutdown s := rfl
@[simp] theorem exec_dbgStop (q : DbgReq) (s : State) :
    exec (.dbgStop q) s = execDbgStop q s := rfl
@[simp] theorem exec_dbgResume (q : DbgReq) (s : State) :
    exec (.dbgResume q) s = execDbgResume q s := rfl
@[simp] theorem exec_dbgStep (q : DbgReq) (s : State) :
    exec (.dbgStep q) s = execDbgStep q s := rfl
@[simp] theorem exec_setbp (q : DbgReq) (s : State) :
    exec (.setbp q) s = execSetbp q s := rfl
@[simp] theorem exec_setwp (q : DbgReq) (s : State) :
    exec (.setwp q) s = execSetwp q s := rfl
@[simp] theorem exec_dbgRead (q : DbgReq) (s : State) :
    exec (.dbgRead q) s = execDbgRead q s := rfl
@[simp] theorem exec_dbgWrite (q : DbgReq) (s : State) :
    exec (.dbgWrite q) s = execDbgWrite q s := rfl
@[simp] theorem exec_detach (q : DbgReq) (s : State) :
    exec (.detach q) s = execDetach q s := rfl
@[simp] theorem exec_profSample (q : ProfReq) (s : State) :
    exec (.profSample q) s = execProfSample q s := rfl
@[simp] theorem exec_profTypes (q : ProfReq) (s : State) :
    exec (.profTypes q) s = execProfTypes q s := rfl
@[simp] theorem exec_profFilter (q : ProfReq) (s : State) :
    exec (.profFilter q) s = execProfFilter q s := rfl
@[simp] theorem exec_arraytot (q : ProfReq) (s : State) :
    exec (.arraytot q) s = execArraytot q s := rfl
@[simp] theorem exec_arrayclr (q : ProfReq) (s : State) :
    exec (.arrayclr q) s = execArrayclr q s := rfl
@[simp] theorem exec_profPort (q : ProfReq) (s : State) :
    exec (.profPort q) s = execProfPort q s := rfl
@[simp] theorem exec_pcSample (core part : Nat) (s : State) :
    exec (.pcSample core part) s = execPcSample core part s := rfl
@[simp] theorem exec_tracePortSend (s : State) :
    exec (.tracePortSend) s = execTracePortSend s := rfl
@[simp] theorem exec_flitReceive (link : Nat) (flit : Flit) (s : State) :
    exec (.flitReceive link flit) s = execFlitReceive link flit s := rfl
@[simp] theorem exec_lnak (link seq : Nat) (s : State) :
    exec (.lnak link seq) s = execLnak link seq s := rfl
@[simp] theorem exec_linkRetrain (link : Nat) (trained : Option Bool) (s : State) :
    exec (.linkRetrain link trained) s = execLinkRetrain link trained s := rfl
@[simp] theorem exec_requestForward (element port : Nat) (m : Msg) (s : State) :
    exec (.requestForward element port m) s = execRequestForward element port m s := rfl
@[simp] theorem exec_replyRetrace (element : Nat) (m : Msg) (s : State) :
    exec (.replyRetrace element m) s = execReplyRetrace element m s := rfl
@[simp] theorem exec_waitBufferTimeout (element port entry : Nat) (s : State) :
    exec (.waitBufferTimeout element port entry) s = execWaitBufferTimeout element port entry s := rfl
@[simp] theorem exec_rd (m : Msg) (s : State) :
    exec (.rd m) s = execRd m s := rfl
@[simp] theorem exec_wr (m : Msg) (s : State) :
    exec (.wr m) s = execWr m s := rfl
@[simp] theorem exec_stfMessage (m : Msg) (s : State) :
    exec (.stfMessage m) s = execStfMessage m s := rfl
@[simp] theorem exec_atom (m : Msg) (s : State) :
    exec (.atom m) s = execAtom m s := rfl
@[simp] theorem exec_faorMessage (m : Msg) (s : State) :
    exec (.faorMessage m) s = execFaorMessage m s := rfl
@[simp] theorem exec_ring (m : Msg) (s : State) :
    exec (.ring m) s = execRing m s := rfl
@[simp] theorem exec_checkMessage (m : Msg) (s : State) :
    exec (.checkMessage m) s = execCheckMessage m s := rfl
@[simp] theorem exec_tileMessage (m : Msg) (s : State) :
    exec (.tileMessage m) s = execTileMessage m s := rfl
@[simp] theorem exec_xpkg (p : Package) (s : State) :
    exec (.xpkg p) s = execXpkg p s := rfl
@[simp] theorem exec_data (m : Msg) (s : State) :
    exec (.data m) s = execData m s := rfl
@[simp] theorem exec_done (m : Msg) (s : State) :
    exec (.done m) s = execDone m s := rfl
@[simp] theorem exec_value (m : Msg) (s : State) :
    exec (.value m) s = execValue m s := rfl
@[simp] theorem exec_faultReply (m : Msg) (s : State) :
    exec (.faultReply m) s = execFaultReply m s := rfl
@[simp] theorem exec_wake (m : Msg) (s : State) :
    exec (.wake m) s = execWake m s := rfl
@[simp] theorem exec_sack (m : Msg) (s : State) :
    exec (.sack m) s = execSack m s := rfl
@[simp] theorem exec_sendMessage (m : Msg) (s : State) :
    exec (.sendMessage m) s = execSendMessage m s := rfl
@[simp] theorem exec_sendRetry (who : GRef) (index : Nat) (s : State) :
    exec (.sendRetry who index) s = execSendRetry who index s := rfl
@[simp] theorem exec_sendTimeout (who : GRef) (index : Nat) (s : State) :
    exec (.sendTimeout who index) s = execSendTimeout who index s := rfl
@[simp] theorem exec_fabricReplyTimeout (tag : Nat) (s : State) :
    exec (.fabricReplyTimeout tag) s = execFabricReplyTimeout tag s := rfl
@[simp] theorem exec_mgmt (b : MgmtBody) (s : State) :
    exec (.mgmt b) s = execMgmt b s := rfl
@[simp] theorem exec_null (link ack : Nat) (s : State) :
    exec (.null link ack) s = execNull link ack s := rfl
@[simp] theorem exec_svcSleepExpiry (who : GRef) (s : State) :
    exec (.svcSleepExpiry who) s = execSvcSleepExpiry who s := rfl
@[simp] theorem exec_translationInstall (t : Translation) (s : State) :
    exec (.translationInstall t) s = execTranslationInstall t s := rfl
@[simp] theorem exec_wakeComplete (unit : PowerUnit) (s : State) :
    exec (.wakeComplete unit) s = execWakeComplete unit s := rfl
@[simp] theorem exec_junctionTemperatureChange (die celsius : Nat) (s : State) :
    exec (.junctionTemperatureChange die celsius) s = execJunctionTemperatureChange die celsius s := rfl
@[simp] theorem exec_queueAllotment (queue : Nat) (receive : Bool) (ctx : Nat) (enable hosten : Bool) (s : State) :
    exec (.queueAllotment queue receive ctx enable hosten) s = execQueueAllotment queue receive ctx enable hosten s := rfl
@[simp] theorem exec_replayLogEnable (launch base size : Nat) (s : State) :
    exec (.replayLogEnable launch base size) s = execReplayLogEnable launch base size s := rfl
@[simp] theorem exec_replay (launch block : Nat) (s : State) :
    exec (.replay launch block) s = execReplay launch block s := rfl

end Sys2Proof.Machine
end

