-- ==== Sys2Proof/Laws/Regs.lean ====
section
/-! SUPPORT. The laws of the registers: what a read after a write gives in each class, which fields a write leaves
alone, and where moving lanes puts their program counters. -/

namespace Sys2Proof.Machine

/-! ### Hard-wired registers and reads after writes -/

@[simp] theorem Regs.getS_zero (r : Regs) : r.getS 0 = 0 := rfl
@[simp] theorem Regs.getK_zero (r : Regs) : r.getK 0 = BitVec.allOnes 32 := rfl
@[simp] theorem Regs.getN_zero (r : Regs) : r.getN 0 = 0 := rfl

theorem Regs.getS_setS (r : Regs) (i j : Nat) (v : BitVec 64) :
    (r.setS i v).getS j = if j = i ∧ i ≠ 0 then v else r.getS j := by
  unfold Regs.setS Regs.getS
  by_cases hi : i = 0 <;> by_cases hj : j = 0 <;> simp_all [BMap.get_set] <;> omega

theorem Regs.getK_setK (r : Regs) (i j : Nat) (v : BitVec 32) :
    (r.setK i v).getK j = if j = i ∧ i ≠ 0 then v else r.getK j := by
  unfold Regs.setK Regs.getK
  by_cases hi : i = 0 <;> by_cases hj : j = 0 <;> simp_all [BMap.get_set] <;> omega

theorem Regs.getN_setN (r : Regs) (i j : Nat) (v : BitVec 15) :
    (r.setN i v).getN j = if j = i ∧ i ≠ 0 then v else r.getN j := by
  unfold Regs.setN Regs.getN
  by_cases hi : i = 0 <;> by_cases hj : j = 0 <;> simp_all [BMap.get_set] <;> omega

theorem Regs.getV_setV (r : Regs) (i l j m : Nat) (v : BitVec 32) :
    (r.setV i l v).getV j m = if 32 * j + m = 32 * i + l then v else r.getV j m := by
  simp [Regs.setV, Regs.getV, BMap.get_set]

theorem Regs.getPcv_setPcv (r : Regs) (i j : Nat) (v : BitVec 64) :
    (r.setPcv i v).getPcv j = if j = i then v else r.getPcv j := by
  simp [Regs.setPcv, Regs.getPcv, BMap.get_set]

theorem Regs.getPcv_setPc (r : Regs) (i j a : Nat) :
    (r.setPc i a).getPcv j = if j = i then BitVec.ofNat 64 (a % 2 ^ 57) else r.getPcv j :=
  r.getPcv_setPcv i j _

/-! ### What a write leaves alone -/

theorem Regs.setS_eq (r : Regs) (i : Nat) (v : BitVec 64) :
    r.setS i v = { r with s := (r.setS i v).s } := by
  unfold Regs.setS; split <;> rfl

theorem Regs.setK_eq (r : Regs) (i : Nat) (v : BitVec 32) :
    r.setK i v = { r with k := (r.setK i v).k } := by
  unfold Regs.setK; split <;> rfl

theorem Regs.setN_eq (r : Regs) (i : Nat) (v : BitVec 15) :
    r.setN i v = { r with n := (r.setN i v).n } := by
  unfold Regs.setN; split <;> rfl

@[simp] theorem Regs.setS_pcv (r : Regs) (i : Nat) (v : BitVec 64) : (r.setS i v).pcv = r.pcv := by
  rw [r.setS_eq]
@[simp] theorem Regs.setS_v (r : Regs) (i : Nat) (v : BitVec 64) : (r.setS i v).v = r.v := by
  rw [r.setS_eq]
@[simp] theorem Regs.setS_k (r : Regs) (i : Nat) (v : BitVec 64) : (r.setS i v).k = r.k := by
  rw [r.setS_eq]
@[simp] theorem Regs.setK_pcv (r : Regs) (i : Nat) (v : BitVec 32) : (r.setK i v).pcv = r.pcv := by
  rw [r.setK_eq]
@[simp] theorem Regs.setK_v (r : Regs) (i : Nat) (v : BitVec 32) : (r.setK i v).v = r.v := by
  rw [r.setK_eq]
@[simp] theorem Regs.setK_s (r : Regs) (i : Nat) (v : BitVec 32) : (r.setK i v).s = r.s := by
  rw [r.setK_eq]
@[simp] theorem Regs.setN_pcv (r : Regs) (i : Nat) (v : BitVec 15) : (r.setN i v).pcv = r.pcv := by
  rw [r.setN_eq]
@[simp] theorem Regs.setV_pcv (r : Regs) (i l : Nat) (v : BitVec 32) : (r.setV i l v).pcv = r.pcv := rfl
@[simp] theorem Regs.setV_s (r : Regs) (i l : Nat) (v : BitVec 32) : (r.setV i l v).s = r.s := rfl
@[simp] theorem Regs.setV_k (r : Regs) (i l : Nat) (v : BitVec 32) : (r.setV i l v).k = r.k := rfl

/-! ### Moving lanes -/

theorem Regs.moveTo_eq (r : Regs) (ls : List Nat) (a : Nat) :
    r.moveTo ls a = { r with pcv := (r.moveTo ls a).pcv } := by
  unfold Regs.moveTo
  induction ls generalizing r with
  | nil => rfl
  | cons l t ih => rw [List.foldl_cons, ih]; rfl

/-- Every lane named is moved, and no other. -/
theorem Regs.getPcv_moveTo (r : Regs) (ls : List Nat) (a l : Nat) :
    (r.moveTo ls a).getPcv l = if l ∈ ls then BitVec.ofNat 64 (a % 2 ^ 57) else r.getPcv l := by
  unfold Regs.moveTo
  induction ls generalizing r with
  | nil => simp
  | cons x t ih =>
    rw [List.foldl_cons, ih, Regs.getPcv_setPc]
    by_cases h : l ∈ t <;> by_cases h' : l = x <;> simp [h, h']

theorem Regs.getPcv_congr {r r' : Regs} (h : r'.pcv = r.pcv) (l : Nat) : r'.getPcv l = r.getPcv l := by
  simp [Regs.getPcv, h]

/-- Lanes that take part are lanes below 32. -/
theorem Regs.taking_lt {r : Regs} {l : Nat} (h : l ∈ r.taking) : l < 32 := by
  unfold Regs.taking at h
  split at h
  · simp at h
  · simp [Regs.live, lanes] at h; omega

theorem Regs.active_sub {r : Regs} {g : BitVec 4} {l : Nat} (h : l ∈ r.active g) : l ∈ r.taking := by
  simp [Regs.active] at h; exact h.1

theorem Regs.active_lt {r : Regs} {g : BitVec 4} {l : Nat} (h : l ∈ r.active g) : l < 32 :=
  Regs.taking_lt (Regs.active_sub h)

/-- A group with an active lane has an issue address. -/
theorem Regs.issueAddr_of_active {r : Regs} {g : BitVec 4} (h : r.active g ≠ []) :
    ∃ a, r.issueAddr = some a := by
  cases h' : r.issueAddr with
  | some a => exact ⟨a, rfl⟩
  | none => simp [Regs.active, Regs.taking, h'] at h

theorem lanes_nodup : lanes.Nodup := List.nodup_range

theorem Regs.active_nodup (r : Regs) (g : BitVec 4) : (r.active g).Nodup := by
  unfold Regs.active Regs.taking Regs.live
  split
  · simp
  · exact ((lanes_nodup.filter _).filter _).filter _

/-! ### Elements of vectors (R38) -/

theorem Regs.setElem_eq (r : Regs) (t reg l c : Nat) :
    r.setElem t reg l c = { r with v := (r.setElem t reg l c).v } := by
  unfold Regs.setElem
  split <;> rfl

theorem Regs.setElems_eq (r : Regs) (t reg : Nat) (xs : List (Nat × Nat)) :
    r.setElems t reg xs = { r with v := (r.setElems t reg xs).v } := by
  unfold Regs.setElems
  induction xs generalizing r with
  | nil => rfl
  | cons x u ih => rw [List.foldl_cons, ih, Regs.setElem_eq]

@[simp] theorem Regs.setElems_pcv (r : Regs) (t reg : Nat) (xs : List (Nat × Nat)) :
    (r.setElems t reg xs).pcv = r.pcv := by rw [r.setElems_eq]

/-- The register and lane that a key of the vector file names are unique. -/
theorem vkey_inj {i j l m : Nat} (hl : l < 32) (hm : m < 32) : 32 * i + l = 32 * j + m ↔ i = j ∧ l = m := by
  omega

theorem Regs.getV_setElem (r : Regs) (t reg l c : Nat) {j m : Nat} (hl : l < 32) (hm : m < 32) :
    (r.setElem t reg l c).getV j m =
      if m = l ∧ j = reg then
        (if wideTy t then (BitVec.ofNat 64 c).extractLsb' 0 32 else BitVec.ofNat 32 (extendTo 32 t c))
      else if m = l ∧ j = reg + 1 ∧ wideTy t then (BitVec.ofNat 64 c).extractLsb' 32 32
      else r.getV j m := by
  unfold Regs.setElem Regs.setV64
  split <;> simp only [Regs.getV_setV, vkey_inj hm hl, *]
  · by_cases h : m = l <;> by_cases h2 : j = reg <;> by_cases h3 : j = reg + 1 <;> simp_all
  · by_cases h : m = l <;> by_cases h2 : j = reg <;> simp_all

/-- What writing elements to distinct lanes leaves in the vector file. -/
theorem Regs.getV_setElems (r : Regs) (t reg : Nat) (f : Nat → Nat) (ls : List Nat) {j m : Nat}
    (hls : ∀ l ∈ ls, l < 32) (hm : m < 32) :
    (r.setElems t reg (ls.map fun l => (l, f l))).getV j m =
      if m ∈ ls ∧ j = reg then
        (if wideTy t then (BitVec.ofNat 64 (f m)).extractLsb' 0 32 else BitVec.ofNat 32 (extendTo 32 t (f m)))
      else if m ∈ ls ∧ j = reg + 1 ∧ wideTy t then (BitVec.ofNat 64 (f m)).extractLsb' 32 32
      else r.getV j m := by
  unfold Regs.setElems
  induction ls generalizing r with
  | nil => simp
  | cons x u ih =>
    simp only [List.map_cons, List.foldl_cons]
    rw [ih _ (fun l h => hls l (List.mem_cons_of_mem _ h)), Regs.getV_setElem _ _ _ _ _ (hls x (by simp)) hm]
    by_cases h : m ∈ u <;> by_cases h1 : m = x <;> by_cases h2 : j = reg <;> by_cases h3 : j = reg + 1 <;>
      by_cases h4 : wideTy t <;> simp_all

/-! ### Predicate bits -/

theorem Regs.setKBit_eq (r : Regs) (i l : Nat) (b : Bool) :
    r.setKBit i l b = { r with k := (r.setKBit i l b).k } := by
  unfold Regs.setKBit; rw [Regs.setK_eq]

theorem Regs.setKBits_eq (r : Regs) (i : Nat) (xs : List (Nat × Bool)) :
    r.setKBits i xs = { r with k := (r.setKBits i xs).k } := by
  unfold Regs.setKBits
  induction xs generalizing r with
  | nil => rfl
  | cons x u ih => rw [List.foldl_cons, ih, Regs.setKBit_eq]

@[simp] theorem Regs.setKBits_pcv (r : Regs) (i : Nat) (xs : List (Nat × Bool)) :
    (r.setKBits i xs).pcv = r.pcv := by rw [r.setKBits_eq]

theorem Regs.getK_setKBit_ne (r : Regs) {i j : Nat} (l : Nat) (b : Bool) (h : j ≠ i) :
    (r.setKBit i l b).getK j = r.getK j := by
  simp [Regs.setKBit, Regs.getK_setK, h]

theorem Regs.getK_setKBits_ne (r : Regs) {i j : Nat} (xs : List (Nat × Bool)) (h : j ≠ i) :
    (r.setKBits i xs).getK j = r.getK j := by
  unfold Regs.setKBits
  induction xs generalizing r with
  | nil => rfl
  | cons x u ih => rw [List.foldl_cons, ih, Regs.getK_setKBit_ne _ _ _ h]

/-- One bit of a predicate register after a write of one bit; k0 keeps its ones. -/
theorem Regs.getLsbD_setKBit (r : Regs) (i l m : Nat) (b : Bool) (hi : i ≠ 0) (hl : l < 32) (hm : m < 32) :
    ((r.setKBit i l b).getK i).getLsbD m = if m = l then b else (r.getK i).getLsbD m := by
  have hb : (BitVec.ofNat 32 (2 ^ l)).getLsbD m = decide (l = m) := by
    rw [BitVec.getLsbD_ofNat, Nat.testBit_two_pow]; simp [hm]
  have hne : m ≠ l → l ≠ m := fun h e => h e.symm
  cases b <;> by_cases h : m = l <;>
    simp_all [Regs.setKBit, Regs.getK_setK, -BitVec.getLsbD_eq_getElem]

theorem Regs.getLsbD_setKBits (r : Regs) (i m : Nat) (f : Nat → Bool) (ls : List Nat) (hi : i ≠ 0)
    (hls : ∀ l ∈ ls, l < 32) (hm : m < 32) :
    ((r.setKBits i (ls.map fun l => (l, f l))).getK i).getLsbD m =
      if m ∈ ls then f m else (r.getK i).getLsbD m := by
  unfold Regs.setKBits
  induction ls generalizing r with
  | nil => simp
  | cons x u ih =>
    simp only [List.map_cons, List.foldl_cons]
    rw [ih _ (fun l h => hls l (List.mem_cons_of_mem _ h)), Regs.getLsbD_setKBit _ _ _ _ _ hi (hls x (by simp)) hm]
    by_cases h : m ∈ u <;> by_cases h1 : m = x <;> simp_all

end Sys2Proof.Machine
end

