-- ==== Sys2Proof/Laws/Ops.lean ====
section
/-! SUPPORT. What the shared operations can do: the reading of sources, the popping of queues, the issue of an
instruction that changes its group's registers, and of one that has an effect of its own. -/

namespace Sys2Proof.Machine

/-! ### Sources (R16) -/

theorem State.logFind_none {s : State} (h : s.rlog = none) (kind lane : Nat) : s.logFind kind lane = none := by
  simp [State.logFind, h]

theorem State.logFull_none {s : State} (h : s.rlog = none) : s.logFull = false := by simp [State.logFull, h]
theorem State.logging_none {s : State} (h : s.rlog = none) : s.logging = false := by simp [State.logging, h]
theorem State.replaying_none {s : State} (h : s.rlog = none) : s.replaying = false := by
  simp [State.replaying, h]

/-- A bound queue register whose queue holds an entry reads its head. -/
theorem State.peekQ_ready {s : State} {g : BitVec 4} {srcs : List Nat} (h : s.Ready g srcs) {r : Nat}
    (hr : r ∈ srcs) (hq : 4088 ≤ r) : s.peekQ r = .ok (s.source r) := by
  unfold State.peekQ
  rw [State.logFind_none h.noLog]
  have hb := h.bound r hr hq
  have hf := h.filled r hr hq
  unfold State.source
  cases hn : NMap.get s.g.qbind (r - 4088) with
  | zero => exact absurd hn hb
  | succ q =>
    rw [hn] at hf
    simp only [Nat.add_sub_cancel] at hf ⊢
    cases he : (SMap.get default s.rxq q).entries with
    | nil => exact absurd he hf
    | cons v t => simp only [hq, if_true, hn, he, Nat.add_sub_cancel, List.head?_cons, Option.getD_some]

/-- The queue registers named, once each. -/
def qNames (srcs : List Nat) : List Nat := (srcs.filter isQ).eraseDups

theorem mem_qNames {srcs : List Nat} {r : Nat} : r ∈ qNames srcs ↔ r ∈ srcs ∧ 4088 ≤ r := by
  simp [qNames, isQ]

/-- Each of a ready group's bound queue registers gives the head of its queue. -/
theorem State.peeks_ready {s : State} {g : BitVec 4} {srcs : List Nat} (h : s.Ready g srcs) :
    ∀ qs : List Nat, (∀ r ∈ qs, r ∈ qNames srcs) →
      qs.mapM (fun r => (s.peekQ r).map (r, ·)) = .ok (qs.map fun r => (r, s.source r))
  | [], _ => rfl
  | r :: rest, named => by
    have hr := mem_qNames.1 (named r (by simp))
    rw [List.mapM_cons, State.peekQ_ready h hr.1 hr.2, State.peeks_ready h rest (fun q hq => named q (by simp [hq]))]
    rfl

theorem State.peekAll_ready {s : State} {g : BitVec 4} {srcs : List Nat} (h : s.Ready g srcs) :
    s.peekAll srcs = .ok ((qNames srcs).map fun r => (r, s.source r)) := by
  have h1 : s.unbound srcs = false := by
    simp only [State.unbound, isQ, List.any_eq_false]
    intro r hr
    by_cases hq : 4088 ≤ r <;> simp [hq]
    exact h.bound r hr hq
  have h2 := State.peeks_ready h (qNames srcs) fun _ hr => hr
  unfold State.peekAll
  simp only [qNames] at h1 h2 ⊢
  simp only [h1, State.logFull_none h.noLog, Bool.and_false]
  exact h2

/-- A source named by the instruction reads `State.source`. -/
theorem State.srcS_ready (s : State) (srcs : List Nat) {r : Nat} (hr : r ∈ srcs) :
    s.srcS ((qNames srcs).map fun r => (r, s.source r)) r = s.source r := by
  unfold State.srcS
  by_cases hq : 4088 ≤ r
  · have hm : r ∈ qNames srcs := mem_qNames.2 ⟨hr, hq⟩
    have : ((qNames srcs).map fun r => (r, s.source r)).find? (fun x => x.1 == r) = some (r, s.source r) := by
      generalize qNames srcs = l at hm
      induction l with
      | nil => simp at hm
      | cons x t ih =>
        by_cases hx : x = r
        · simp [hx]
        · simp only [List.map_cons, List.find?_cons]
          rw [show (x == r) = false by simpa using hx]
          exact ih (by simpa [Ne.symm hx] using hm)
    rw [this]
  · have : ((qNames srcs).map fun r => (r, s.source r)).find? (fun x => x.1 == r) = none := by
      rw [List.find?_eq_none]
      intro x hx
      simp only [List.mem_map, mem_qNames] at hx
      obtain ⟨y, ⟨-, hy⟩, rfl⟩ := hx
      simp; omega
    rw [this]
    simp [State.source, hq]

/-! ### Queues -/

theorem State.popQ_eq (s : State) (r : Nat) : s.popQ r = { s with rxq := (s.popQ r).rxq } := by
  unfold State.popQ; split <;> rfl

theorem State.popQ_entries (s : State) (r q : Nat) :
    SMap.get default (s.popQ r).rxq q =
      { SMap.get default s.rxq q with
        entries := (SMap.get default s.rxq q).entries.drop (if NMap.get s.g.qbind (r - 4088) = q + 1 then 1 else 0) } := by
  unfold State.popQ
  cases h : NMap.get s.g.qbind (r - 4088) with
  | zero => simp
  | succ p =>
    simp only [SMap.get_set]
    by_cases hq : q = p
    · subst hq; simp
    · have : ¬ p = q := fun e => hq e.symm
      simp [hq, this]

theorem State.popList_eq (s : State) (l : List (Nat × BitVec 64)) :
    l.foldl (fun s x => s.popQ x.1) s = { s with rxq := (l.foldl (fun s x => State.popQ s x.1) s).rxq } := by
  induction l generalizing s with
  | nil => rfl
  | cons x t ih => rw [List.foldl_cons, ih, State.popQ_eq]

theorem State.popList_entries (s : State) (l : List (Nat × BitVec 64)) (q : Nat) :
    SMap.get default (l.foldl (fun s x => State.popQ s x.1) s).rxq q =
      { SMap.get default s.rxq q with
        entries := (SMap.get default s.rxq q).entries.drop
          ((l.filter fun x => NMap.get s.g.qbind (x.1 - 4088) == q + 1).length) } := by
  induction l generalizing s with
  | nil => simp
  | cons x t ih =>
    rw [List.foldl_cons, ih, State.popQ_entries]
    have hg : (s.popQ x.1).g = s.g := by rw [State.popQ_eq]
    rw [hg]
    by_cases h : NMap.get s.g.qbind (x.1 - 4088) = q + 1 <;> simp [h, List.drop_drop, Nat.add_comm]

theorem State.popAll_noLog {s : State} (h : s.rlog = none) (n : Nat) (qv : List (Nat × BitVec 64)) :
    s.popAll n qv = qv.foldl (fun s x => State.popQ s x.1) s := by
  unfold State.popAll
  cases qv with
  | nil => rfl
  | cons x t =>
    have hl : ((x :: t).foldl (fun s x => State.popQ s x.1) s).rlog = none := by
      rw [State.popList_eq]; exact h
    rw [List.isEmpty_cons, if_neg (by simp), State.replaying_none h, if_neg (by simp), State.logFrom,
      State.logging_none hl, if_neg (by simp), State.logAll, State.logging_none hl, if_neg (by simp)]

theorem State.popAll_popped {s u : State} {srcs : List Nat} (h : u.rlog = none)
    (hq : u.rxq = s.rxq) (hb : u.g.qbind = s.g.qbind) (n q : Nat) :
    SMap.get default (u.popAll n ((qNames srcs).map fun r => (r, s.source r))).rxq q =
      { SMap.get default s.rxq q with
        entries := (SMap.get default s.rxq q).entries.drop (s.named srcs q) } := by
  rw [State.popAll_noLog h, State.popList_entries, hq, hb]
  have hc : ((qNames srcs).filter fun r => NMap.get s.g.qbind (r - 4088) == q + 1).length = s.named srcs q := rfl
  rw [List.filter_map, List.length_map]
  rw [show ((fun x : Nat × BitVec 64 => NMap.get s.g.qbind (x.1 - 4088) == q + 1) ∘ fun r => (r, s.source r)) =
    fun r => NMap.get s.g.qbind (r - 4088) == q + 1 from rfl, hc]

/-! ### Issue -/

/-- A ready group performs the effect, then pops, waits for nothing and advances. -/
theorem State.issue_ok {s : State} {g : BitVec 4} {len : Nat} {srcs : List Nat}
    {body : List Nat → (Nat → BitVec 64) → State → Eff} {s' : State} (h : s.Ready g srcs)
    (hb : body (s.g.r.active g) (s.srcS ((qNames srcs).map fun r => (r, s.source r))) s = .ok s') :
    s.issue g len srcs body = State.complete s s' ((qNames srcs).map fun r => (r, s.source r)) len := by
  unfold State.issue
  have : (s.g.r.active g).isEmpty = false := by simpa using h.active
  simp [this, State.peekAll_ready h, hb]

/-- With no active lane an instruction only advances (R11, R66). -/
theorem State.issue_idle {s : State} {g : BitVec 4} {len : Nat} {srcs : List Nat}
    {body : List Nat → (Nat → BitVec 64) → State → Eff} (h : s.g.r.active g = []) :
    s.issue g len srcs body = State.complete s s [] len := by
  unfold State.issue; simp [h]

/-- What completing leaves: the effect's state with the queues popped, its group advanced and waiting for
nothing. -/
theorem State.complete_eq {s u : State} (h : u.rlog = none) (qv : List (Nat × BitVec 64)) (len : Nat) :
    State.complete s u qv len =
      { u with
        rxq := (u.popAll s.g.logged qv).rxq
        g := { u.g with pend := .idle, kept := none, stall := .none, r := (match s.g.r.issueAddr with
          | none => u.g.r
          | some a => u.g.r.moveTo s.g.r.taking (a + len)) } } := by
  unfold State.complete
  have hp : u.popAll s.g.logged qv = { u with rxq := (u.popAll s.g.logged qv).rxq } := by
    rw [State.popAll_noLog h, State.popList_eq]
  rw [hp]
  all_goals (cases s.g.r.issueAddr <;> rfl)

/-- An instruction that changes only registers, and no program counter: it issues, and its group's registers are
those of its effect but for the program counters. -/
theorem State.issue_regs {s : State} {g : BitVec 4} {len : Nat} {srcs : List Nat} {f : Regs → Regs}
    {body : List Nat → (Nat → BitVec 64) → State → Eff} (h : s.Ready g srcs)
    (hb : body (s.g.r.active g) (s.srcS ((qNames srcs).map fun r => (r, s.source r))) s = .ok (s.mapR f))
    (hp : (f s.g.r).pcv = s.g.r.pcv) :
    ∃ t, s.issue g len srcs body = t ∧ Issued s t srcs len ∧
      t.g.r = { f s.g.r with pcv := t.g.r.pcv } := by
  obtain ⟨a, ha⟩ := Regs.issueAddr_of_active h.active
  have hl : (s.mapR f).rlog = none := h.noLog
  refine ⟨_, rfl, ?_, ?_⟩ <;> rw [State.issue_ok h hb, State.complete_eq hl] <;> simp only [ha]
  · refine ⟨⟨?_, ?_⟩, ?_, rfl, rfl, fun _ => rfl⟩
    · intro l hl'
      simp only [Regs.getPcv_moveTo, hl', if_true, State.pc, ha, Option.getD_some]
    · intro l hl'
      simp only [Regs.getPcv_moveTo, hl', if_false]
      exact Regs.getPcv_congr hp l
    · intro q
      exact State.popAll_popped (s := s) (u := s.mapR f) hl rfl rfl _ q
  · rw [Regs.moveTo_eq]; rfl

/-- An instruction whose own effect leaves the state `u` completes in `u` moved on. -/
theorem State.issue_completed {s u : State} {g : BitVec 4} {len : Nat} {srcs : List Nat}
    {body : List Nat → (Nat → BitVec 64) → State → Eff} (h : s.Ready g srcs)
    (hb : body (s.g.r.active g) (s.srcS ((qNames srcs).map fun r => (r, s.source r))) s = .ok u)
    (hu : u.rlog = none) :
    ∃ t, s.issue g len srcs body = t ∧ Completed s u t srcs len := by
  obtain ⟨a, ha⟩ := Regs.issueAddr_of_active h.active
  refine ⟨_, rfl, ?_⟩
  rw [State.issue_ok h hb, State.complete_eq hu]
  simp only [ha]
  refine ⟨fun l hl => ?_, fun l hl => ?_, fun q => ?_, ?_⟩
  · simp only [Regs.getPcv_moveTo, hl, if_true, State.pc, ha, Option.getD_some]
  · simp only [Regs.getPcv_moveTo, hl, if_false]
  · have key : ∀ (qv : List (Nat × BitVec 64)), qv.map Prod.fst = qNames srcs →
        SMap.get default (u.popAll s.g.logged qv).rxq q = { SMap.get default u.rxq q with
          entries := (SMap.get default u.rxq q).entries.drop (u.named srcs q) } := by
      intro qv hqv
      rw [State.popAll_noLog hu, State.popList_entries]
      have : (qv.filter fun x => NMap.get u.g.qbind (x.1 - 4088) == q + 1).length = u.named srcs q := by
        unfold State.named
        rw [show (srcs.filter fun r => decide (4088 ≤ r)).eraseDups = qNames srcs from rfl, ← hqv, List.filter_map,
          List.length_map]
        rfl
      rw [this]
    exact key _ (by simp [Function.comp_def])
  · rw [Regs.moveTo_eq]

/-- With no active lane only program counters change. -/
theorem State.complete_idle {s : State} (len : Nat) :
    Issued s (State.complete s s [] len) [] len ∧ OnlyPc s.g.r (State.complete s s [] len).g.r := by
  have hp : s.popAll s.g.logged [] = s := rfl
  have hn : ∀ q, s.named [] q = 0 := fun q => by simp [State.named]
  unfold State.complete
  rw [hp]
  cases ha : s.g.r.issueAddr with
  | none =>
    have ht : s.g.r.taking = [] := by unfold Regs.taking; rw [ha]
    refine ⟨⟨⟨?_, fun l _ => rfl⟩, fun q => ?_, rfl, rfl, fun _ => rfl⟩, rfl⟩
    · intro l hl; rw [ht] at hl; simp at hl
    · rw [hn]; simp
  | some a =>
    refine ⟨⟨⟨fun l hl => ?_, fun l hl => ?_⟩, fun q => ?_, rfl, rfl, fun _ => rfl⟩, ?_⟩
    · simp only [Regs.getPcv_moveTo, hl, if_true, State.pc, ha, Option.getD_some]
    · simp only [Regs.getPcv_moveTo, hl, if_false]
    · rw [hn]; simp
    · unfold OnlyPc; simp only []; rw [Regs.moveTo_eq]

/-- A ready group's transfer: its registers are those that the transfer gives. -/
theorem State.issueJump_ok {s : State} {g : BitVec 4} {srcs : List Nat}
    {body : List Nat → (Nat → BitVec 64) → Regs → Except Trap Regs} {r : Regs} (h : s.Ready g srcs)
    (hb : body (s.g.r.active g) (s.srcS ((qNames srcs).map fun r => (r, s.source r))) s.g.r = .ok r) :
    ∃ t, s.issueJump g srcs body = t ∧ t.g.r = r ∧ Popped s t srcs ∧ GroupKept s t ∧
      t = { s with g := t.g, rxq := t.rxq } ∧ MemoryKept s t := by
  have he : (s.g.r.active g).isEmpty = false := by simpa using h.active
  unfold State.issueJump
  simp only [he, State.peekAll_ready h, hb, Bool.false_eq_true, if_false]
  refine ⟨_, rfl, rfl, fun q => ?_, ?_, ?_, fun a => ?_⟩
  · exact State.popAll_popped (s := s) h.noLog rfl rfl _ q
  all_goals rw [State.popAll_noLog h.noLog, State.popList_eq]
  · rfl

/-- A transfer that faults takes its fault with nothing changed. -/
theorem State.issueJump_trap {s : State} {g : BitVec 4} {srcs : List Nat}
    {body : List Nat → (Nat → BitVec 64) → Regs → Except Trap Regs} {f : Trap} (h : s.Ready g srcs)
    (hb : body (s.g.r.active g) (s.srcS ((qNames srcs).map fun r => (r, s.source r))) s.g.r = .error f) :
    s.issueJump g srcs body = s.stopWith (.trap f) := by
  have he : (s.g.r.active g).isEmpty = false := by simpa using h.active
  unfold State.issueJump
  simp only [he, State.peekAll_ready h, hb, Bool.false_eq_true, if_false]

/-- The same for the forms issued through `issueRegs`. -/
theorem State.issueRegs_spec {s : State} {g : BitVec 4} {srcs : List Nat}
    {f : List Nat → (Nat → BitVec 64) → Regs → Regs} (h : s.Ready g srcs)
    (hp : ∀ act rd (r : Regs), (f act rd r).pcv = r.pcv) :
    ∃ t rd, s.issueRegs g srcs f = t ∧ Issued s t srcs 8 ∧ (∀ r ∈ srcs, rd r = s.source r) ∧
      t.g.r = { f (s.g.r.active g) rd s.g.r with pcv := t.g.r.pcv } := by
  obtain ⟨t, h1, h2, h3⟩ := State.issue_regs (len := 8) (body := fun act rd s => .ok (s.mapR (f act rd))) h rfl
    (hp _ _ _)
  exact ⟨t, _, h1, h2, fun r hr => State.srcS_ready s srcs hr, h3⟩

end Sys2Proof.Machine
end

