-- ==== Sys2Proof/Laws/State.lean ====
section
/-! SUPPORT. What the named updates of the state leave alone: one lemma for each field and update, so that no proof
unfolds a record update. -/

namespace Sys2Proof.Machine

section
variable (s : State)

@[simp] theorem State.mapR_tick (f : Regs → Regs) : (s.mapR f).tick = s.tick := rfl
@[simp] theorem State.mapR_clk (f : Regs → Regs) : (s.mapR f).clk = s.clk := rfl
@[simp] theorem State.mapR_gtime (f : Regs → Regs) : (s.mapR f).gtime = s.gtime := rfl
@[simp] theorem State.mapR_free (f : Regs → Regs) : (s.mapR f).free = s.free := rfl
@[simp] theorem State.mapR_devloc (f : Regs → Regs) : (s.mapR f).devloc = s.devloc := rfl
@[simp] theorem State.mapR_mem (f : Regs → Regs) : (s.mapR f).mem = s.mem := rfl
@[simp] theorem State.mapR_poison (f : Regs → Regs) : (s.mapR f).poison = s.poison := rfl
@[simp] theorem State.mapR_others (f : Regs → Regs) : (s.mapR f).others = s.others := rfl
@[simp] theorem State.mapR_blocks (f : Regs → Regs) : (s.mapR f).blocks = s.blocks := rfl
@[simp] theorem State.mapR_ctxs (f : Regs → Regs) : (s.mapR f).ctxs = s.ctxs := rfl
@[simp] theorem State.mapR_rxq (f : Regs → Regs) : (s.mapR f).rxq = s.rxq := rfl
@[simp] theorem State.mapR_shelf (f : Regs → Regs) : (s.mapR f).shelf = s.shelf := rfl
@[simp] theorem State.mapR_sets (f : Regs → Regs) : (s.mapR f).sets = s.sets := rfl
@[simp] theorem State.mapR_joins (f : Regs → Regs) : (s.mapR f).joins = s.joins := rfl
@[simp] theorem State.mapR_faorIn (f : Regs → Regs) : (s.mapR f).faorIn = s.faorIn := rfl
@[simp] theorem State.mapR_fab (f : Regs → Regs) : (s.mapR f).fab = s.fab := rfl
@[simp] theorem State.mapR_launches (f : Regs → Regs) : (s.mapR f).launches = s.launches := rfl
@[simp] theorem State.mapR_oldLogs (f : Regs → Regs) : (s.mapR f).oldLogs = s.oldLogs := rfl
@[simp] theorem State.mapR_learned (f : Regs → Regs) : (s.mapR f).learned = s.learned := rfl
@[simp] theorem State.mapR_trace (f : Regs → Regs) : (s.mapR f).trace = s.trace := rfl
@[simp] theorem State.mapR_cores (f : Regs → Regs) : (s.mapR f).cores = s.cores := rfl
@[simp] theorem State.mapR_xlats (f : Regs → Regs) : (s.mapR f).xlats = s.xlats := rfl
@[simp] theorem State.mapR_icinvs (f : Regs → Regs) : (s.mapR f).icinvs = s.icinvs := rfl
@[simp] theorem State.mapR_icinvNext (f : Regs → Regs) : (s.mapR f).icinvNext = s.icinvNext := rfl
@[simp] theorem State.mapR_jobs (f : Regs → Regs) : (s.mapR f).jobs = s.jobs := rfl
@[simp] theorem State.mapR_jobNext (f : Regs → Regs) : (s.mapR f).jobNext = s.jobNext := rfl
@[simp] theorem State.mapR_stages (f : Regs → Regs) : (s.mapR f).stages = s.stages := rfl
@[simp] theorem State.mapR_leases (f : Regs → Regs) : (s.mapR f).leases = s.leases := rfl
@[simp] theorem State.mapR_execQ (f : Regs → Regs) : (s.mapR f).execQ = s.execQ := rfl
@[simp] theorem State.mapR_podSets (f : Regs → Regs) : (s.mapR f).podSets = s.podSets := rfl
@[simp] theorem State.mapR_podRes (f : Regs → Regs) : (s.mapR f).podRes = s.podRes := rfl
@[simp] theorem State.mapR_queues (f : Regs → Regs) : (s.mapR f).queues = s.queues := rfl
@[simp] theorem State.mapR_queueTable (f : Regs → Regs) : (s.mapR f).queueTable = s.queueTable := rfl
@[simp] theorem State.mapR_wants (f : Regs → Regs) : (s.mapR f).wants = s.wants := rfl
@[simp] theorem State.mapR_launchNext (f : Regs → Regs) : (s.mapR f).launchNext = s.launchNext := rfl
@[simp] theorem State.mapR_routers (f : Regs → Regs) : (s.mapR f).routers = s.routers := rfl
@[simp] theorem State.mapR_plans (f : Regs → Regs) : (s.mapR f).plans = s.plans := rfl
@[simp] theorem State.mapR_dies (f : Regs → Regs) : (s.mapR f).dies = s.dies := rfl
@[simp] theorem State.mapR_devPower (f : Regs → Regs) : (s.mapR f).devPower = s.devPower := rfl
@[simp] theorem State.mapR_devWakeAt (f : Regs → Regs) : (s.mapR f).devWakeAt = s.devWakeAt := rfl
@[simp] theorem State.mapR_devSince (f : Regs → Regs) : (s.mapR f).devSince = s.devSince := rfl
@[simp] theorem State.mapR_objects (f : Regs → Regs) : (s.mapR f).objects = s.objects := rfl
@[simp] theorem State.mapR_frames (f : Regs → Regs) : (s.mapR f).frames = s.frames := rfl
@[simp] theorem State.mapR_freed (f : Regs → Regs) : (s.mapR f).freed = s.freed := rfl
@[simp] theorem State.mapR_unmaps (f : Regs → Regs) : (s.mapR f).unmaps = s.unmaps := rfl
@[simp] theorem State.mapR_mapWaits (f : Regs → Regs) : (s.mapR f).mapWaits = s.mapWaits := rfl
@[simp] theorem State.mapR_pins (f : Regs → Regs) : (s.mapR f).pins = s.pins := rfl
@[simp] theorem State.mapR_pageWaits (f : Regs → Regs) : (s.mapR f).pageWaits = s.pageWaits := rfl
@[simp] theorem State.mapR_profiles (f : Regs → Regs) : (s.mapR f).profiles = s.profiles := rfl
@[simp] theorem State.mapR_olds (f : Regs → Regs) : (s.mapR f).olds = s.olds := rfl
@[simp] theorem State.mapR_boot (f : Regs → Regs) : (s.mapR f).boot = s.boot := rfl
@[simp] theorem State.mapR_host (f : Regs → Regs) : (s.mapR f).host = s.host := rfl
@[simp] theorem State.mapR_relcount (f : Regs → Regs) : (s.mapR f).relcount = s.relcount := rfl
@[simp] theorem State.mapR_agenda (f : Regs → Regs) : (s.mapR f).agenda = s.agenda := rfl

@[simp] theorem State.setStall_tick (r : Stall) : (s.setStall r).tick = s.tick := rfl
@[simp] theorem State.setStall_clk (r : Stall) : (s.setStall r).clk = s.clk := rfl
@[simp] theorem State.setStall_gtime (r : Stall) : (s.setStall r).gtime = s.gtime := rfl
@[simp] theorem State.setStall_free (r : Stall) : (s.setStall r).free = s.free := rfl
@[simp] theorem State.setStall_devloc (r : Stall) : (s.setStall r).devloc = s.devloc := rfl
@[simp] theorem State.setStall_mem (r : Stall) : (s.setStall r).mem = s.mem := rfl
@[simp] theorem State.setStall_poison (r : Stall) : (s.setStall r).poison = s.poison := rfl
@[simp] theorem State.setStall_others (r : Stall) : (s.setStall r).others = s.others := rfl
@[simp] theorem State.setStall_blocks (r : Stall) : (s.setStall r).blocks = s.blocks := rfl
@[simp] theorem State.setStall_ctxs (r : Stall) : (s.setStall r).ctxs = s.ctxs := rfl
@[simp] theorem State.setStall_rxq (r : Stall) : (s.setStall r).rxq = s.rxq := rfl
@[simp] theorem State.setStall_shelf (r : Stall) : (s.setStall r).shelf = s.shelf := rfl
@[simp] theorem State.setStall_sets (r : Stall) : (s.setStall r).sets = s.sets := rfl
@[simp] theorem State.setStall_joins (r : Stall) : (s.setStall r).joins = s.joins := rfl
@[simp] theorem State.setStall_faorIn (r : Stall) : (s.setStall r).faorIn = s.faorIn := rfl
@[simp] theorem State.setStall_fab (r : Stall) : (s.setStall r).fab = s.fab := rfl
@[simp] theorem State.setStall_launches (r : Stall) : (s.setStall r).launches = s.launches := rfl
@[simp] theorem State.setStall_oldLogs (r : Stall) : (s.setStall r).oldLogs = s.oldLogs := rfl
@[simp] theorem State.setStall_learned (r : Stall) : (s.setStall r).learned = s.learned := rfl
@[simp] theorem State.setStall_trace (r : Stall) : (s.setStall r).trace = s.trace := rfl
@[simp] theorem State.setStall_cores (r : Stall) : (s.setStall r).cores = s.cores := rfl
@[simp] theorem State.setStall_xlats (r : Stall) : (s.setStall r).xlats = s.xlats := rfl
@[simp] theorem State.setStall_icinvs (r : Stall) : (s.setStall r).icinvs = s.icinvs := rfl
@[simp] theorem State.setStall_icinvNext (r : Stall) : (s.setStall r).icinvNext = s.icinvNext := rfl
@[simp] theorem State.setStall_jobs (r : Stall) : (s.setStall r).jobs = s.jobs := rfl
@[simp] theorem State.setStall_jobNext (r : Stall) : (s.setStall r).jobNext = s.jobNext := rfl
@[simp] theorem State.setStall_stages (r : Stall) : (s.setStall r).stages = s.stages := rfl
@[simp] theorem State.setStall_leases (r : Stall) : (s.setStall r).leases = s.leases := rfl
@[simp] theorem State.setStall_execQ (r : Stall) : (s.setStall r).execQ = s.execQ := rfl
@[simp] theorem State.setStall_podSets (r : Stall) : (s.setStall r).podSets = s.podSets := rfl
@[simp] theorem State.setStall_podRes (r : Stall) : (s.setStall r).podRes = s.podRes := rfl
@[simp] theorem State.setStall_queues (r : Stall) : (s.setStall r).queues = s.queues := rfl
@[simp] theorem State.setStall_queueTable (r : Stall) : (s.setStall r).queueTable = s.queueTable := rfl
@[simp] theorem State.setStall_wants (r : Stall) : (s.setStall r).wants = s.wants := rfl
@[simp] theorem State.setStall_launchNext (r : Stall) : (s.setStall r).launchNext = s.launchNext := rfl
@[simp] theorem State.setStall_routers (r : Stall) : (s.setStall r).routers = s.routers := rfl
@[simp] theorem State.setStall_plans (r : Stall) : (s.setStall r).plans = s.plans := rfl
@[simp] theorem State.setStall_dies (r : Stall) : (s.setStall r).dies = s.dies := rfl
@[simp] theorem State.setStall_devPower (r : Stall) : (s.setStall r).devPower = s.devPower := rfl
@[simp] theorem State.setStall_devWakeAt (r : Stall) : (s.setStall r).devWakeAt = s.devWakeAt := rfl
@[simp] theorem State.setStall_devSince (r : Stall) : (s.setStall r).devSince = s.devSince := rfl
@[simp] theorem State.setStall_objects (r : Stall) : (s.setStall r).objects = s.objects := rfl
@[simp] theorem State.setStall_frames (r : Stall) : (s.setStall r).frames = s.frames := rfl
@[simp] theorem State.setStall_freed (r : Stall) : (s.setStall r).freed = s.freed := rfl
@[simp] theorem State.setStall_unmaps (r : Stall) : (s.setStall r).unmaps = s.unmaps := rfl
@[simp] theorem State.setStall_mapWaits (r : Stall) : (s.setStall r).mapWaits = s.mapWaits := rfl
@[simp] theorem State.setStall_pins (r : Stall) : (s.setStall r).pins = s.pins := rfl
@[simp] theorem State.setStall_pageWaits (r : Stall) : (s.setStall r).pageWaits = s.pageWaits := rfl
@[simp] theorem State.setStall_profiles (r : Stall) : (s.setStall r).profiles = s.profiles := rfl
@[simp] theorem State.setStall_olds (r : Stall) : (s.setStall r).olds = s.olds := rfl
@[simp] theorem State.setStall_boot (r : Stall) : (s.setStall r).boot = s.boot := rfl
@[simp] theorem State.setStall_host (r : Stall) : (s.setStall r).host = s.host := rfl
@[simp] theorem State.setStall_relcount (r : Stall) : (s.setStall r).relcount = s.relcount := rfl
@[simp] theorem State.setStall_agenda (r : Stall) : (s.setStall r).agenda = s.agenda := rfl

@[simp] theorem State.waiting_tick (r : Stall) : (s.waiting r).tick = s.tick := rfl
@[simp] theorem State.waiting_clk (r : Stall) : (s.waiting r).clk = s.clk := rfl
@[simp] theorem State.waiting_gtime (r : Stall) : (s.waiting r).gtime = s.gtime := rfl
@[simp] theorem State.waiting_free (r : Stall) : (s.waiting r).free = s.free := rfl
@[simp] theorem State.waiting_devloc (r : Stall) : (s.waiting r).devloc = s.devloc := rfl
@[simp] theorem State.waiting_mem (r : Stall) : (s.waiting r).mem = s.mem := rfl
@[simp] theorem State.waiting_poison (r : Stall) : (s.waiting r).poison = s.poison := rfl
@[simp] theorem State.waiting_others (r : Stall) : (s.waiting r).others = s.others := rfl
@[simp] theorem State.waiting_blocks (r : Stall) : (s.waiting r).blocks = s.blocks := rfl
@[simp] theorem State.waiting_ctxs (r : Stall) : (s.waiting r).ctxs = s.ctxs := rfl
@[simp] theorem State.waiting_rxq (r : Stall) : (s.waiting r).rxq = s.rxq := rfl
@[simp] theorem State.waiting_shelf (r : Stall) : (s.waiting r).shelf = s.shelf := rfl
@[simp] theorem State.waiting_sets (r : Stall) : (s.waiting r).sets = s.sets := rfl
@[simp] theorem State.waiting_joins (r : Stall) : (s.waiting r).joins = s.joins := rfl
@[simp] theorem State.waiting_faorIn (r : Stall) : (s.waiting r).faorIn = s.faorIn := rfl
@[simp] theorem State.waiting_fab (r : Stall) : (s.waiting r).fab = s.fab := rfl
@[simp] theorem State.waiting_launches (r : Stall) : (s.waiting r).launches = s.launches := rfl
@[simp] theorem State.waiting_oldLogs (r : Stall) : (s.waiting r).oldLogs = s.oldLogs := rfl
@[simp] theorem State.waiting_learned (r : Stall) : (s.waiting r).learned = s.learned := rfl
@[simp] theorem State.waiting_trace (r : Stall) : (s.waiting r).trace = s.trace := rfl
@[simp] theorem State.waiting_cores (r : Stall) : (s.waiting r).cores = s.cores := rfl
@[simp] theorem State.waiting_xlats (r : Stall) : (s.waiting r).xlats = s.xlats := rfl
@[simp] theorem State.waiting_icinvs (r : Stall) : (s.waiting r).icinvs = s.icinvs := rfl
@[simp] theorem State.waiting_icinvNext (r : Stall) : (s.waiting r).icinvNext = s.icinvNext := rfl
@[simp] theorem State.waiting_jobs (r : Stall) : (s.waiting r).jobs = s.jobs := rfl
@[simp] theorem State.waiting_jobNext (r : Stall) : (s.waiting r).jobNext = s.jobNext := rfl
@[simp] theorem State.waiting_stages (r : Stall) : (s.waiting r).stages = s.stages := rfl
@[simp] theorem State.waiting_leases (r : Stall) : (s.waiting r).leases = s.leases := rfl
@[simp] theorem State.waiting_execQ (r : Stall) : (s.waiting r).execQ = s.execQ := rfl
@[simp] theorem State.waiting_podSets (r : Stall) : (s.waiting r).podSets = s.podSets := rfl
@[simp] theorem State.waiting_podRes (r : Stall) : (s.waiting r).podRes = s.podRes := rfl
@[simp] theorem State.waiting_queues (r : Stall) : (s.waiting r).queues = s.queues := rfl
@[simp] theorem State.waiting_queueTable (r : Stall) : (s.waiting r).queueTable = s.queueTable := rfl
@[simp] theorem State.waiting_wants (r : Stall) : (s.waiting r).wants = s.wants := rfl
@[simp] theorem State.waiting_launchNext (r : Stall) : (s.waiting r).launchNext = s.launchNext := rfl
@[simp] theorem State.waiting_routers (r : Stall) : (s.waiting r).routers = s.routers := rfl
@[simp] theorem State.waiting_plans (r : Stall) : (s.waiting r).plans = s.plans := rfl
@[simp] theorem State.waiting_dies (r : Stall) : (s.waiting r).dies = s.dies := rfl
@[simp] theorem State.waiting_devPower (r : Stall) : (s.waiting r).devPower = s.devPower := rfl
@[simp] theorem State.waiting_devWakeAt (r : Stall) : (s.waiting r).devWakeAt = s.devWakeAt := rfl
@[simp] theorem State.waiting_devSince (r : Stall) : (s.waiting r).devSince = s.devSince := rfl
@[simp] theorem State.waiting_objects (r : Stall) : (s.waiting r).objects = s.objects := rfl
@[simp] theorem State.waiting_frames (r : Stall) : (s.waiting r).frames = s.frames := rfl
@[simp] theorem State.waiting_freed (r : Stall) : (s.waiting r).freed = s.freed := rfl
@[simp] theorem State.waiting_unmaps (r : Stall) : (s.waiting r).unmaps = s.unmaps := rfl
@[simp] theorem State.waiting_mapWaits (r : Stall) : (s.waiting r).mapWaits = s.mapWaits := rfl
@[simp] theorem State.waiting_pins (r : Stall) : (s.waiting r).pins = s.pins := rfl
@[simp] theorem State.waiting_pageWaits (r : Stall) : (s.waiting r).pageWaits = s.pageWaits := rfl
@[simp] theorem State.waiting_profiles (r : Stall) : (s.waiting r).profiles = s.profiles := rfl
@[simp] theorem State.waiting_olds (r : Stall) : (s.waiting r).olds = s.olds := rfl
@[simp] theorem State.waiting_boot (r : Stall) : (s.waiting r).boot = s.boot := rfl
@[simp] theorem State.waiting_host (r : Stall) : (s.waiting r).host = s.host := rfl
@[simp] theorem State.waiting_relcount (r : Stall) : (s.waiting r).relcount = s.relcount := rfl
@[simp] theorem State.waiting_agenda (r : Stall) : (s.waiting r).agenda = s.agenda := rfl

@[simp] theorem State.putScratch_tick (a n v : Nat) : (s.putScratch a n v).tick = s.tick := rfl
@[simp] theorem State.putScratch_clk (a n v : Nat) : (s.putScratch a n v).clk = s.clk := rfl
@[simp] theorem State.putScratch_gtime (a n v : Nat) : (s.putScratch a n v).gtime = s.gtime := rfl
@[simp] theorem State.putScratch_free (a n v : Nat) : (s.putScratch a n v).free = s.free := rfl
@[simp] theorem State.putScratch_devloc (a n v : Nat) : (s.putScratch a n v).devloc = s.devloc := rfl
@[simp] theorem State.putScratch_mem (a n v : Nat) : (s.putScratch a n v).mem = s.mem := rfl
@[simp] theorem State.putScratch_poison (a n v : Nat) : (s.putScratch a n v).poison = s.poison := rfl
@[simp] theorem State.putScratch_g (a n v : Nat) : (s.putScratch a n v).g = s.g := rfl
@[simp] theorem State.putScratch_others (a n v : Nat) : (s.putScratch a n v).others = s.others := rfl
@[simp] theorem State.putScratch_ctxs (a n v : Nat) : (s.putScratch a n v).ctxs = s.ctxs := rfl
@[simp] theorem State.putScratch_rxq (a n v : Nat) : (s.putScratch a n v).rxq = s.rxq := rfl
@[simp] theorem State.putScratch_shelf (a n v : Nat) : (s.putScratch a n v).shelf = s.shelf := rfl
@[simp] theorem State.putScratch_sets (a n v : Nat) : (s.putScratch a n v).sets = s.sets := rfl
@[simp] theorem State.putScratch_joins (a n v : Nat) : (s.putScratch a n v).joins = s.joins := rfl
@[simp] theorem State.putScratch_faorIn (a n v : Nat) : (s.putScratch a n v).faorIn = s.faorIn := rfl
@[simp] theorem State.putScratch_fab (a n v : Nat) : (s.putScratch a n v).fab = s.fab := rfl
@[simp] theorem State.putScratch_launches (a n v : Nat) : (s.putScratch a n v).launches = s.launches := rfl
@[simp] theorem State.putScratch_oldLogs (a n v : Nat) : (s.putScratch a n v).oldLogs = s.oldLogs := rfl
@[simp] theorem State.putScratch_learned (a n v : Nat) : (s.putScratch a n v).learned = s.learned := rfl
@[simp] theorem State.putScratch_trace (a n v : Nat) : (s.putScratch a n v).trace = s.trace := rfl
@[simp] theorem State.putScratch_cores (a n v : Nat) : (s.putScratch a n v).cores = s.cores := rfl
@[simp] theorem State.putScratch_xlats (a n v : Nat) : (s.putScratch a n v).xlats = s.xlats := rfl
@[simp] theorem State.putScratch_icinvs (a n v : Nat) : (s.putScratch a n v).icinvs = s.icinvs := rfl
@[simp] theorem State.putScratch_icinvNext (a n v : Nat) : (s.putScratch a n v).icinvNext = s.icinvNext := rfl
@[simp] theorem State.putScratch_jobs (a n v : Nat) : (s.putScratch a n v).jobs = s.jobs := rfl
@[simp] theorem State.putScratch_jobNext (a n v : Nat) : (s.putScratch a n v).jobNext = s.jobNext := rfl
@[simp] theorem State.putScratch_stages (a n v : Nat) : (s.putScratch a n v).stages = s.stages := rfl
@[simp] theorem State.putScratch_leases (a n v : Nat) : (s.putScratch a n v).leases = s.leases := rfl
@[simp] theorem State.putScratch_execQ (a n v : Nat) : (s.putScratch a n v).execQ = s.execQ := rfl
@[simp] theorem State.putScratch_podSets (a n v : Nat) : (s.putScratch a n v).podSets = s.podSets := rfl
@[simp] theorem State.putScratch_podRes (a n v : Nat) : (s.putScratch a n v).podRes = s.podRes := rfl
@[simp] theorem State.putScratch_queues (a n v : Nat) : (s.putScratch a n v).queues = s.queues := rfl
@[simp] theorem State.putScratch_queueTable (a n v : Nat) : (s.putScratch a n v).queueTable = s.queueTable := rfl
@[simp] theorem State.putScratch_wants (a n v : Nat) : (s.putScratch a n v).wants = s.wants := rfl
@[simp] theorem State.putScratch_launchNext (a n v : Nat) : (s.putScratch a n v).launchNext = s.launchNext := rfl
@[simp] theorem State.putScratch_routers (a n v : Nat) : (s.putScratch a n v).routers = s.routers := rfl
@[simp] theorem State.putScratch_plans (a n v : Nat) : (s.putScratch a n v).plans = s.plans := rfl
@[simp] theorem State.putScratch_dies (a n v : Nat) : (s.putScratch a n v).dies = s.dies := rfl
@[simp] theorem State.putScratch_devPower (a n v : Nat) : (s.putScratch a n v).devPower = s.devPower := rfl
@[simp] theorem State.putScratch_devWakeAt (a n v : Nat) : (s.putScratch a n v).devWakeAt = s.devWakeAt := rfl
@[simp] theorem State.putScratch_devSince (a n v : Nat) : (s.putScratch a n v).devSince = s.devSince := rfl
@[simp] theorem State.putScratch_objects (a n v : Nat) : (s.putScratch a n v).objects = s.objects := rfl
@[simp] theorem State.putScratch_frames (a n v : Nat) : (s.putScratch a n v).frames = s.frames := rfl
@[simp] theorem State.putScratch_freed (a n v : Nat) : (s.putScratch a n v).freed = s.freed := rfl
@[simp] theorem State.putScratch_unmaps (a n v : Nat) : (s.putScratch a n v).unmaps = s.unmaps := rfl
@[simp] theorem State.putScratch_mapWaits (a n v : Nat) : (s.putScratch a n v).mapWaits = s.mapWaits := rfl
@[simp] theorem State.putScratch_pins (a n v : Nat) : (s.putScratch a n v).pins = s.pins := rfl
@[simp] theorem State.putScratch_pageWaits (a n v : Nat) : (s.putScratch a n v).pageWaits = s.pageWaits := rfl
@[simp] theorem State.putScratch_profiles (a n v : Nat) : (s.putScratch a n v).profiles = s.profiles := rfl
@[simp] theorem State.putScratch_olds (a n v : Nat) : (s.putScratch a n v).olds = s.olds := rfl
@[simp] theorem State.putScratch_boot (a n v : Nat) : (s.putScratch a n v).boot = s.boot := rfl
@[simp] theorem State.putScratch_host (a n v : Nat) : (s.putScratch a n v).host = s.host := rfl
@[simp] theorem State.putScratch_relcount (a n v : Nat) : (s.putScratch a n v).relcount = s.relcount := rfl
@[simp] theorem State.putScratch_agenda (a n v : Nat) : (s.putScratch a n v).agenda = s.agenda := rfl

@[simp] theorem State.putPriv_tick (a n v : Nat) : (s.putPriv a n v).tick = s.tick := rfl
@[simp] theorem State.putPriv_clk (a n v : Nat) : (s.putPriv a n v).clk = s.clk := rfl
@[simp] theorem State.putPriv_gtime (a n v : Nat) : (s.putPriv a n v).gtime = s.gtime := rfl
@[simp] theorem State.putPriv_free (a n v : Nat) : (s.putPriv a n v).free = s.free := rfl
@[simp] theorem State.putPriv_devloc (a n v : Nat) : (s.putPriv a n v).devloc = s.devloc := rfl
@[simp] theorem State.putPriv_mem (a n v : Nat) : (s.putPriv a n v).mem = s.mem := rfl
@[simp] theorem State.putPriv_poison (a n v : Nat) : (s.putPriv a n v).poison = s.poison := rfl
@[simp] theorem State.putPriv_others (a n v : Nat) : (s.putPriv a n v).others = s.others := rfl
@[simp] theorem State.putPriv_blocks (a n v : Nat) : (s.putPriv a n v).blocks = s.blocks := rfl
@[simp] theorem State.putPriv_ctxs (a n v : Nat) : (s.putPriv a n v).ctxs = s.ctxs := rfl
@[simp] theorem State.putPriv_rxq (a n v : Nat) : (s.putPriv a n v).rxq = s.rxq := rfl
@[simp] theorem State.putPriv_shelf (a n v : Nat) : (s.putPriv a n v).shelf = s.shelf := rfl
@[simp] theorem State.putPriv_sets (a n v : Nat) : (s.putPriv a n v).sets = s.sets := rfl
@[simp] theorem State.putPriv_joins (a n v : Nat) : (s.putPriv a n v).joins = s.joins := rfl
@[simp] theorem State.putPriv_faorIn (a n v : Nat) : (s.putPriv a n v).faorIn = s.faorIn := rfl
@[simp] theorem State.putPriv_fab (a n v : Nat) : (s.putPriv a n v).fab = s.fab := rfl
@[simp] theorem State.putPriv_launches (a n v : Nat) : (s.putPriv a n v).launches = s.launches := rfl
@[simp] theorem State.putPriv_oldLogs (a n v : Nat) : (s.putPriv a n v).oldLogs = s.oldLogs := rfl
@[simp] theorem State.putPriv_learned (a n v : Nat) : (s.putPriv a n v).learned = s.learned := rfl
@[simp] theorem State.putPriv_trace (a n v : Nat) : (s.putPriv a n v).trace = s.trace := rfl
@[simp] theorem State.putPriv_cores (a n v : Nat) : (s.putPriv a n v).cores = s.cores := rfl
@[simp] theorem State.putPriv_xlats (a n v : Nat) : (s.putPriv a n v).xlats = s.xlats := rfl
@[simp] theorem State.putPriv_icinvs (a n v : Nat) : (s.putPriv a n v).icinvs = s.icinvs := rfl
@[simp] theorem State.putPriv_icinvNext (a n v : Nat) : (s.putPriv a n v).icinvNext = s.icinvNext := rfl
@[simp] theorem State.putPriv_jobs (a n v : Nat) : (s.putPriv a n v).jobs = s.jobs := rfl
@[simp] theorem State.putPriv_jobNext (a n v : Nat) : (s.putPriv a n v).jobNext = s.jobNext := rfl
@[simp] theorem State.putPriv_stages (a n v : Nat) : (s.putPriv a n v).stages = s.stages := rfl
@[simp] theorem State.putPriv_leases (a n v : Nat) : (s.putPriv a n v).leases = s.leases := rfl
@[simp] theorem State.putPriv_execQ (a n v : Nat) : (s.putPriv a n v).execQ = s.execQ := rfl
@[simp] theorem State.putPriv_podSets (a n v : Nat) : (s.putPriv a n v).podSets = s.podSets := rfl
@[simp] theorem State.putPriv_podRes (a n v : Nat) : (s.putPriv a n v).podRes = s.podRes := rfl
@[simp] theorem State.putPriv_queues (a n v : Nat) : (s.putPriv a n v).queues = s.queues := rfl
@[simp] theorem State.putPriv_queueTable (a n v : Nat) : (s.putPriv a n v).queueTable = s.queueTable := rfl
@[simp] theorem State.putPriv_wants (a n v : Nat) : (s.putPriv a n v).wants = s.wants := rfl
@[simp] theorem State.putPriv_launchNext (a n v : Nat) : (s.putPriv a n v).launchNext = s.launchNext := rfl
@[simp] theorem State.putPriv_routers (a n v : Nat) : (s.putPriv a n v).routers = s.routers := rfl
@[simp] theorem State.putPriv_plans (a n v : Nat) : (s.putPriv a n v).plans = s.plans := rfl
@[simp] theorem State.putPriv_dies (a n v : Nat) : (s.putPriv a n v).dies = s.dies := rfl
@[simp] theorem State.putPriv_devPower (a n v : Nat) : (s.putPriv a n v).devPower = s.devPower := rfl
@[simp] theorem State.putPriv_devWakeAt (a n v : Nat) : (s.putPriv a n v).devWakeAt = s.devWakeAt := rfl
@[simp] theorem State.putPriv_devSince (a n v : Nat) : (s.putPriv a n v).devSince = s.devSince := rfl
@[simp] theorem State.putPriv_objects (a n v : Nat) : (s.putPriv a n v).objects = s.objects := rfl
@[simp] theorem State.putPriv_frames (a n v : Nat) : (s.putPriv a n v).frames = s.frames := rfl
@[simp] theorem State.putPriv_freed (a n v : Nat) : (s.putPriv a n v).freed = s.freed := rfl
@[simp] theorem State.putPriv_unmaps (a n v : Nat) : (s.putPriv a n v).unmaps = s.unmaps := rfl
@[simp] theorem State.putPriv_mapWaits (a n v : Nat) : (s.putPriv a n v).mapWaits = s.mapWaits := rfl
@[simp] theorem State.putPriv_pins (a n v : Nat) : (s.putPriv a n v).pins = s.pins := rfl
@[simp] theorem State.putPriv_pageWaits (a n v : Nat) : (s.putPriv a n v).pageWaits = s.pageWaits := rfl
@[simp] theorem State.putPriv_profiles (a n v : Nat) : (s.putPriv a n v).profiles = s.profiles := rfl
@[simp] theorem State.putPriv_olds (a n v : Nat) : (s.putPriv a n v).olds = s.olds := rfl
@[simp] theorem State.putPriv_boot (a n v : Nat) : (s.putPriv a n v).boot = s.boot := rfl
@[simp] theorem State.putPriv_host (a n v : Nat) : (s.putPriv a n v).host = s.host := rfl
@[simp] theorem State.putPriv_relcount (a n v : Nat) : (s.putPriv a n v).relcount = s.relcount := rfl
@[simp] theorem State.putPriv_agenda (a n v : Nat) : (s.putPriv a n v).agenda = s.agenda := rfl

@[simp] theorem State.updBlock_tick (l b : Nat) (f : Block → Block) : (s.updBlock l b f).tick = s.tick := rfl
@[simp] theorem State.updBlock_clk (l b : Nat) (f : Block → Block) : (s.updBlock l b f).clk = s.clk := rfl
@[simp] theorem State.updBlock_gtime (l b : Nat) (f : Block → Block) : (s.updBlock l b f).gtime = s.gtime := rfl
@[simp] theorem State.updBlock_free (l b : Nat) (f : Block → Block) : (s.updBlock l b f).free = s.free := rfl
@[simp] theorem State.updBlock_devloc (l b : Nat) (f : Block → Block) : (s.updBlock l b f).devloc = s.devloc := rfl
@[simp] theorem State.updBlock_mem (l b : Nat) (f : Block → Block) : (s.updBlock l b f).mem = s.mem := rfl
@[simp] theorem State.updBlock_poison (l b : Nat) (f : Block → Block) : (s.updBlock l b f).poison = s.poison := rfl
@[simp] theorem State.updBlock_g (l b : Nat) (f : Block → Block) : (s.updBlock l b f).g = s.g := rfl
@[simp] theorem State.updBlock_others (l b : Nat) (f : Block → Block) : (s.updBlock l b f).others = s.others := rfl
@[simp] theorem State.updBlock_ctxs (l b : Nat) (f : Block → Block) : (s.updBlock l b f).ctxs = s.ctxs := rfl
@[simp] theorem State.updBlock_rxq (l b : Nat) (f : Block → Block) : (s.updBlock l b f).rxq = s.rxq := rfl
@[simp] theorem State.updBlock_shelf (l b : Nat) (f : Block → Block) : (s.updBlock l b f).shelf = s.shelf := rfl
@[simp] theorem State.updBlock_sets (l b : Nat) (f : Block → Block) : (s.updBlock l b f).sets = s.sets := rfl
@[simp] theorem State.updBlock_joins (l b : Nat) (f : Block → Block) : (s.updBlock l b f).joins = s.joins := rfl
@[simp] theorem State.updBlock_faorIn (l b : Nat) (f : Block → Block) : (s.updBlock l b f).faorIn = s.faorIn := rfl
@[simp] theorem State.updBlock_fab (l b : Nat) (f : Block → Block) : (s.updBlock l b f).fab = s.fab := rfl
@[simp] theorem State.updBlock_launches (l b : Nat) (f : Block → Block) : (s.updBlock l b f).launches = s.launches := rfl
@[simp] theorem State.updBlock_oldLogs (l b : Nat) (f : Block → Block) : (s.updBlock l b f).oldLogs = s.oldLogs := rfl
@[simp] theorem State.updBlock_learned (l b : Nat) (f : Block → Block) : (s.updBlock l b f).learned = s.learned := rfl
@[simp] theorem State.updBlock_trace (l b : Nat) (f : Block → Block) : (s.updBlock l b f).trace = s.trace := rfl
@[simp] theorem State.updBlock_cores (l b : Nat) (f : Block → Block) : (s.updBlock l b f).cores = s.cores := rfl
@[simp] theorem State.updBlock_xlats (l b : Nat) (f : Block → Block) : (s.updBlock l b f).xlats = s.xlats := rfl
@[simp] theorem State.updBlock_icinvs (l b : Nat) (f : Block → Block) : (s.updBlock l b f).icinvs = s.icinvs := rfl
@[simp] theorem State.updBlock_icinvNext (l b : Nat) (f : Block → Block) : (s.updBlock l b f).icinvNext = s.icinvNext := rfl
@[simp] theorem State.updBlock_jobs (l b : Nat) (f : Block → Block) : (s.updBlock l b f).jobs = s.jobs := rfl
@[simp] theorem State.updBlock_jobNext (l b : Nat) (f : Block → Block) : (s.updBlock l b f).jobNext = s.jobNext := rfl
@[simp] theorem State.updBlock_stages (l b : Nat) (f : Block → Block) : (s.updBlock l b f).stages = s.stages := rfl
@[simp] theorem State.updBlock_leases (l b : Nat) (f : Block → Block) : (s.updBlock l b f).leases = s.leases := rfl
@[simp] theorem State.updBlock_execQ (l b : Nat) (f : Block → Block) : (s.updBlock l b f).execQ = s.execQ := rfl
@[simp] theorem State.updBlock_podSets (l b : Nat) (f : Block → Block) : (s.updBlock l b f).podSets = s.podSets := rfl
@[simp] theorem State.updBlock_podRes (l b : Nat) (f : Block → Block) : (s.updBlock l b f).podRes = s.podRes := rfl
@[simp] theorem State.updBlock_queues (l b : Nat) (f : Block → Block) : (s.updBlock l b f).queues = s.queues := rfl
@[simp] theorem State.updBlock_queueTable (l b : Nat) (f : Block → Block) : (s.updBlock l b f).queueTable = s.queueTable := rfl
@[simp] theorem State.updBlock_wants (l b : Nat) (f : Block → Block) : (s.updBlock l b f).wants = s.wants := rfl
@[simp] theorem State.updBlock_launchNext (l b : Nat) (f : Block → Block) : (s.updBlock l b f).launchNext = s.launchNext := rfl
@[simp] theorem State.updBlock_routers (l b : Nat) (f : Block → Block) : (s.updBlock l b f).routers = s.routers := rfl
@[simp] theorem State.updBlock_plans (l b : Nat) (f : Block → Block) : (s.updBlock l b f).plans = s.plans := rfl
@[simp] theorem State.updBlock_dies (l b : Nat) (f : Block → Block) : (s.updBlock l b f).dies = s.dies := rfl
@[simp] theorem State.updBlock_devPower (l b : Nat) (f : Block → Block) : (s.updBlock l b f).devPower = s.devPower := rfl
@[simp] theorem State.updBlock_devWakeAt (l b : Nat) (f : Block → Block) : (s.updBlock l b f).devWakeAt = s.devWakeAt := rfl
@[simp] theorem State.updBlock_devSince (l b : Nat) (f : Block → Block) : (s.updBlock l b f).devSince = s.devSince := rfl
@[simp] theorem State.updBlock_objects (l b : Nat) (f : Block → Block) : (s.updBlock l b f).objects = s.objects := rfl
@[simp] theorem State.updBlock_frames (l b : Nat) (f : Block → Block) : (s.updBlock l b f).frames = s.frames := rfl
@[simp] theorem State.updBlock_freed (l b : Nat) (f : Block → Block) : (s.updBlock l b f).freed = s.freed := rfl
@[simp] theorem State.updBlock_unmaps (l b : Nat) (f : Block → Block) : (s.updBlock l b f).unmaps = s.unmaps := rfl
@[simp] theorem State.updBlock_mapWaits (l b : Nat) (f : Block → Block) : (s.updBlock l b f).mapWaits = s.mapWaits := rfl
@[simp] theorem State.updBlock_pins (l b : Nat) (f : Block → Block) : (s.updBlock l b f).pins = s.pins := rfl
@[simp] theorem State.updBlock_pageWaits (l b : Nat) (f : Block → Block) : (s.updBlock l b f).pageWaits = s.pageWaits := rfl
@[simp] theorem State.updBlock_profiles (l b : Nat) (f : Block → Block) : (s.updBlock l b f).profiles = s.profiles := rfl
@[simp] theorem State.updBlock_olds (l b : Nat) (f : Block → Block) : (s.updBlock l b f).olds = s.olds := rfl
@[simp] theorem State.updBlock_boot (l b : Nat) (f : Block → Block) : (s.updBlock l b f).boot = s.boot := rfl
@[simp] theorem State.updBlock_host (l b : Nat) (f : Block → Block) : (s.updBlock l b f).host = s.host := rfl
@[simp] theorem State.updBlock_relcount (l b : Nat) (f : Block → Block) : (s.updBlock l b f).relcount = s.relcount := rfl
@[simp] theorem State.updBlock_agenda (l b : Nat) (f : Block → Block) : (s.updBlock l b f).agenda = s.agenda := rfl

@[simp] theorem State.updCtx_tick (c : Nat) (f : Ctx → Ctx) : (s.updCtx c f).tick = s.tick := rfl
@[simp] theorem State.updCtx_clk (c : Nat) (f : Ctx → Ctx) : (s.updCtx c f).clk = s.clk := rfl
@[simp] theorem State.updCtx_gtime (c : Nat) (f : Ctx → Ctx) : (s.updCtx c f).gtime = s.gtime := rfl
@[simp] theorem State.updCtx_free (c : Nat) (f : Ctx → Ctx) : (s.updCtx c f).free = s.free := rfl
@[simp] theorem State.updCtx_devloc (c : Nat) (f : Ctx → Ctx) : (s.updCtx c f).devloc = s.devloc := rfl
@[simp] theorem State.updCtx_mem (c : Nat) (f : Ctx → Ctx) : (s.updCtx c f).mem = s.mem := rfl
@[simp] theorem State.updCtx_poison (c : Nat) (f : Ctx → Ctx) : (s.updCtx c f).poison = s.poison := rfl
@[simp] theorem State.updCtx_g (c : Nat) (f : Ctx → Ctx) : (s.updCtx c f).g = s.g := rfl
@[simp] theorem State.updCtx_others (c : Nat) (f : Ctx → Ctx) : (s.updCtx c f).others = s.others := rfl
@[simp] theorem State.updCtx_blocks (c : Nat) (f : Ctx → Ctx) : (s.updCtx c f).blocks = s.blocks := rfl
@[simp] theorem State.updCtx_rxq (c : Nat) (f : Ctx → Ctx) : (s.updCtx c f).rxq = s.rxq := rfl
@[simp] theorem State.updCtx_shelf (c : Nat) (f : Ctx → Ctx) : (s.updCtx c f).shelf = s.shelf := rfl
@[simp] theorem State.updCtx_sets (c : Nat) (f : Ctx → Ctx) : (s.updCtx c f).sets = s.sets := rfl
@[simp] theorem State.updCtx_joins (c : Nat) (f : Ctx → Ctx) : (s.updCtx c f).joins = s.joins := rfl
@[simp] theorem State.updCtx_faorIn (c : Nat) (f : Ctx → Ctx) : (s.updCtx c f).faorIn = s.faorIn := rfl
@[simp] theorem State.updCtx_fab (c : Nat) (f : Ctx → Ctx) : (s.updCtx c f).fab = s.fab := rfl
@[simp] theorem State.updCtx_launches (c : Nat) (f : Ctx → Ctx) : (s.updCtx c f).launches = s.launches := rfl
@[simp] theorem State.updCtx_oldLogs (c : Nat) (f : Ctx → Ctx) : (s.updCtx c f).oldLogs = s.oldLogs := rfl
@[simp] theorem State.updCtx_learned (c : Nat) (f : Ctx → Ctx) : (s.updCtx c f).learned = s.learned := rfl
@[simp] theorem State.updCtx_trace (c : Nat) (f : Ctx → Ctx) : (s.updCtx c f).trace = s.trace := rfl
@[simp] theorem State.updCtx_cores (c : Nat) (f : Ctx → Ctx) : (s.updCtx c f).cores = s.cores := rfl
@[simp] theorem State.updCtx_xlats (c : Nat) (f : Ctx → Ctx) : (s.updCtx c f).xlats = s.xlats := rfl
@[simp] theorem State.updCtx_icinvs (c : Nat) (f : Ctx → Ctx) : (s.updCtx c f).icinvs = s.icinvs := rfl
@[simp] theorem State.updCtx_icinvNext (c : Nat) (f : Ctx → Ctx) : (s.updCtx c f).icinvNext = s.icinvNext := rfl
@[simp] theorem State.updCtx_jobs (c : Nat) (f : Ctx → Ctx) : (s.updCtx c f).jobs = s.jobs := rfl
@[simp] theorem State.updCtx_jobNext (c : Nat) (f : Ctx → Ctx) : (s.updCtx c f).jobNext = s.jobNext := rfl
@[simp] theorem State.updCtx_stages (c : Nat) (f : Ctx → Ctx) : (s.updCtx c f).stages = s.stages := rfl
@[simp] theorem State.updCtx_leases (c : Nat) (f : Ctx → Ctx) : (s.updCtx c f).leases = s.leases := rfl
@[simp] theorem State.updCtx_execQ (c : Nat) (f : Ctx → Ctx) : (s.updCtx c f).execQ = s.execQ := rfl
@[simp] theorem State.updCtx_podSets (c : Nat) (f : Ctx → Ctx) : (s.updCtx c f).podSets = s.podSets := rfl
@[simp] theorem State.updCtx_podRes (c : Nat) (f : Ctx → Ctx) : (s.updCtx c f).podRes = s.podRes := rfl
@[simp] theorem State.updCtx_queues (c : Nat) (f : Ctx → Ctx) : (s.updCtx c f).queues = s.queues := rfl
@[simp] theorem State.updCtx_queueTable (c : Nat) (f : Ctx → Ctx) : (s.updCtx c f).queueTable = s.queueTable := rfl
@[simp] theorem State.updCtx_wants (c : Nat) (f : Ctx → Ctx) : (s.updCtx c f).wants = s.wants := rfl
@[simp] theorem State.updCtx_launchNext (c : Nat) (f : Ctx → Ctx) : (s.updCtx c f).launchNext = s.launchNext := rfl
@[simp] theorem State.updCtx_routers (c : Nat) (f : Ctx → Ctx) : (s.updCtx c f).routers = s.routers := rfl
@[simp] theorem State.updCtx_plans (c : Nat) (f : Ctx → Ctx) : (s.updCtx c f).plans = s.plans := rfl
@[simp] theorem State.updCtx_dies (c : Nat) (f : Ctx → Ctx) : (s.updCtx c f).dies = s.dies := rfl
@[simp] theorem State.updCtx_devPower (c : Nat) (f : Ctx → Ctx) : (s.updCtx c f).devPower = s.devPower := rfl
@[simp] theorem State.updCtx_devWakeAt (c : Nat) (f : Ctx → Ctx) : (s.updCtx c f).devWakeAt = s.devWakeAt := rfl
@[simp] theorem State.updCtx_devSince (c : Nat) (f : Ctx → Ctx) : (s.updCtx c f).devSince = s.devSince := rfl
@[simp] theorem State.updCtx_objects (c : Nat) (f : Ctx → Ctx) : (s.updCtx c f).objects = s.objects := rfl
@[simp] theorem State.updCtx_frames (c : Nat) (f : Ctx → Ctx) : (s.updCtx c f).frames = s.frames := rfl
@[simp] theorem State.updCtx_freed (c : Nat) (f : Ctx → Ctx) : (s.updCtx c f).freed = s.freed := rfl
@[simp] theorem State.updCtx_unmaps (c : Nat) (f : Ctx → Ctx) : (s.updCtx c f).unmaps = s.unmaps := rfl
@[simp] theorem State.updCtx_mapWaits (c : Nat) (f : Ctx → Ctx) : (s.updCtx c f).mapWaits = s.mapWaits := rfl
@[simp] theorem State.updCtx_pins (c : Nat) (f : Ctx → Ctx) : (s.updCtx c f).pins = s.pins := rfl
@[simp] theorem State.updCtx_pageWaits (c : Nat) (f : Ctx → Ctx) : (s.updCtx c f).pageWaits = s.pageWaits := rfl
@[simp] theorem State.updCtx_profiles (c : Nat) (f : Ctx → Ctx) : (s.updCtx c f).profiles = s.profiles := rfl
@[simp] theorem State.updCtx_olds (c : Nat) (f : Ctx → Ctx) : (s.updCtx c f).olds = s.olds := rfl
@[simp] theorem State.updCtx_boot (c : Nat) (f : Ctx → Ctx) : (s.updCtx c f).boot = s.boot := rfl
@[simp] theorem State.updCtx_host (c : Nat) (f : Ctx → Ctx) : (s.updCtx c f).host = s.host := rfl
@[simp] theorem State.updCtx_relcount (c : Nat) (f : Ctx → Ctx) : (s.updCtx c f).relcount = s.relcount := rfl
@[simp] theorem State.updCtx_agenda (c : Nat) (f : Ctx → Ctx) : (s.updCtx c f).agenda = s.agenda := rfl

@[simp] theorem State.later_tick (i : Instr) : (s.later i).tick = s.tick := rfl
@[simp] theorem State.later_clk (i : Instr) : (s.later i).clk = s.clk := rfl
@[simp] theorem State.later_gtime (i : Instr) : (s.later i).gtime = s.gtime := rfl
@[simp] theorem State.later_free (i : Instr) : (s.later i).free = s.free := rfl
@[simp] theorem State.later_devloc (i : Instr) : (s.later i).devloc = s.devloc := rfl
@[simp] theorem State.later_mem (i : Instr) : (s.later i).mem = s.mem := rfl
@[simp] theorem State.later_poison (i : Instr) : (s.later i).poison = s.poison := rfl
@[simp] theorem State.later_g (i : Instr) : (s.later i).g = s.g := rfl
@[simp] theorem State.later_others (i : Instr) : (s.later i).others = s.others := rfl
@[simp] theorem State.later_blocks (i : Instr) : (s.later i).blocks = s.blocks := rfl
@[simp] theorem State.later_ctxs (i : Instr) : (s.later i).ctxs = s.ctxs := rfl
@[simp] theorem State.later_rxq (i : Instr) : (s.later i).rxq = s.rxq := rfl
@[simp] theorem State.later_shelf (i : Instr) : (s.later i).shelf = s.shelf := rfl
@[simp] theorem State.later_sets (i : Instr) : (s.later i).sets = s.sets := rfl
@[simp] theorem State.later_joins (i : Instr) : (s.later i).joins = s.joins := rfl
@[simp] theorem State.later_faorIn (i : Instr) : (s.later i).faorIn = s.faorIn := rfl
@[simp] theorem State.later_fab (i : Instr) : (s.later i).fab = s.fab := rfl
@[simp] theorem State.later_launches (i : Instr) : (s.later i).launches = s.launches := rfl
@[simp] theorem State.later_oldLogs (i : Instr) : (s.later i).oldLogs = s.oldLogs := rfl
@[simp] theorem State.later_learned (i : Instr) : (s.later i).learned = s.learned := rfl
@[simp] theorem State.later_trace (i : Instr) : (s.later i).trace = s.trace := rfl
@[simp] theorem State.later_cores (i : Instr) : (s.later i).cores = s.cores := rfl
@[simp] theorem State.later_xlats (i : Instr) : (s.later i).xlats = s.xlats := rfl
@[simp] theorem State.later_icinvs (i : Instr) : (s.later i).icinvs = s.icinvs := rfl
@[simp] theorem State.later_icinvNext (i : Instr) : (s.later i).icinvNext = s.icinvNext := rfl
@[simp] theorem State.later_jobs (i : Instr) : (s.later i).jobs = s.jobs := rfl
@[simp] theorem State.later_jobNext (i : Instr) : (s.later i).jobNext = s.jobNext := rfl
@[simp] theorem State.later_stages (i : Instr) : (s.later i).stages = s.stages := rfl
@[simp] theorem State.later_leases (i : Instr) : (s.later i).leases = s.leases := rfl
@[simp] theorem State.later_execQ (i : Instr) : (s.later i).execQ = s.execQ := rfl
@[simp] theorem State.later_podSets (i : Instr) : (s.later i).podSets = s.podSets := rfl
@[simp] theorem State.later_podRes (i : Instr) : (s.later i).podRes = s.podRes := rfl
@[simp] theorem State.later_queues (i : Instr) : (s.later i).queues = s.queues := rfl
@[simp] theorem State.later_queueTable (i : Instr) : (s.later i).queueTable = s.queueTable := rfl
@[simp] theorem State.later_wants (i : Instr) : (s.later i).wants = s.wants := rfl
@[simp] theorem State.later_launchNext (i : Instr) : (s.later i).launchNext = s.launchNext := rfl
@[simp] theorem State.later_routers (i : Instr) : (s.later i).routers = s.routers := rfl
@[simp] theorem State.later_plans (i : Instr) : (s.later i).plans = s.plans := rfl
@[simp] theorem State.later_dies (i : Instr) : (s.later i).dies = s.dies := rfl
@[simp] theorem State.later_devPower (i : Instr) : (s.later i).devPower = s.devPower := rfl
@[simp] theorem State.later_devWakeAt (i : Instr) : (s.later i).devWakeAt = s.devWakeAt := rfl
@[simp] theorem State.later_devSince (i : Instr) : (s.later i).devSince = s.devSince := rfl
@[simp] theorem State.later_objects (i : Instr) : (s.later i).objects = s.objects := rfl
@[simp] theorem State.later_frames (i : Instr) : (s.later i).frames = s.frames := rfl
@[simp] theorem State.later_freed (i : Instr) : (s.later i).freed = s.freed := rfl
@[simp] theorem State.later_unmaps (i : Instr) : (s.later i).unmaps = s.unmaps := rfl
@[simp] theorem State.later_mapWaits (i : Instr) : (s.later i).mapWaits = s.mapWaits := rfl
@[simp] theorem State.later_pins (i : Instr) : (s.later i).pins = s.pins := rfl
@[simp] theorem State.later_pageWaits (i : Instr) : (s.later i).pageWaits = s.pageWaits := rfl
@[simp] theorem State.later_profiles (i : Instr) : (s.later i).profiles = s.profiles := rfl
@[simp] theorem State.later_olds (i : Instr) : (s.later i).olds = s.olds := rfl
@[simp] theorem State.later_boot (i : Instr) : (s.later i).boot = s.boot := rfl
@[simp] theorem State.later_host (i : Instr) : (s.later i).host = s.host := rfl
@[simp] theorem State.later_relcount (i : Instr) : (s.later i).relcount = s.relcount := rfl

@[simp] theorem State.post_tick (m : Msg) : (s.post m).tick = s.tick := rfl
@[simp] theorem State.post_clk (m : Msg) : (s.post m).clk = s.clk := rfl
@[simp] theorem State.post_gtime (m : Msg) : (s.post m).gtime = s.gtime := rfl
@[simp] theorem State.post_free (m : Msg) : (s.post m).free = s.free := rfl
@[simp] theorem State.post_devloc (m : Msg) : (s.post m).devloc = s.devloc := rfl
@[simp] theorem State.post_mem (m : Msg) : (s.post m).mem = s.mem := rfl
@[simp] theorem State.post_poison (m : Msg) : (s.post m).poison = s.poison := rfl
@[simp] theorem State.post_g (m : Msg) : (s.post m).g = s.g := rfl
@[simp] theorem State.post_others (m : Msg) : (s.post m).others = s.others := rfl
@[simp] theorem State.post_blocks (m : Msg) : (s.post m).blocks = s.blocks := rfl
@[simp] theorem State.post_ctxs (m : Msg) : (s.post m).ctxs = s.ctxs := rfl
@[simp] theorem State.post_rxq (m : Msg) : (s.post m).rxq = s.rxq := rfl
@[simp] theorem State.post_shelf (m : Msg) : (s.post m).shelf = s.shelf := rfl
@[simp] theorem State.post_sets (m : Msg) : (s.post m).sets = s.sets := rfl
@[simp] theorem State.post_joins (m : Msg) : (s.post m).joins = s.joins := rfl
@[simp] theorem State.post_faorIn (m : Msg) : (s.post m).faorIn = s.faorIn := rfl
@[simp] theorem State.post_launches (m : Msg) : (s.post m).launches = s.launches := rfl
@[simp] theorem State.post_oldLogs (m : Msg) : (s.post m).oldLogs = s.oldLogs := rfl
@[simp] theorem State.post_learned (m : Msg) : (s.post m).learned = s.learned := rfl
@[simp] theorem State.post_trace (m : Msg) : (s.post m).trace = s.trace := rfl
@[simp] theorem State.post_cores (m : Msg) : (s.post m).cores = s.cores := rfl
@[simp] theorem State.post_xlats (m : Msg) : (s.post m).xlats = s.xlats := rfl
@[simp] theorem State.post_icinvs (m : Msg) : (s.post m).icinvs = s.icinvs := rfl
@[simp] theorem State.post_icinvNext (m : Msg) : (s.post m).icinvNext = s.icinvNext := rfl
@[simp] theorem State.post_jobs (m : Msg) : (s.post m).jobs = s.jobs := rfl
@[simp] theorem State.post_jobNext (m : Msg) : (s.post m).jobNext = s.jobNext := rfl
@[simp] theorem State.post_stages (m : Msg) : (s.post m).stages = s.stages := rfl
@[simp] theorem State.post_leases (m : Msg) : (s.post m).leases = s.leases := rfl
@[simp] theorem State.post_execQ (m : Msg) : (s.post m).execQ = s.execQ := rfl
@[simp] theorem State.post_podSets (m : Msg) : (s.post m).podSets = s.podSets := rfl
@[simp] theorem State.post_podRes (m : Msg) : (s.post m).podRes = s.podRes := rfl
@[simp] theorem State.post_queues (m : Msg) : (s.post m).queues = s.queues := rfl
@[simp] theorem State.post_queueTable (m : Msg) : (s.post m).queueTable = s.queueTable := rfl
@[simp] theorem State.post_wants (m : Msg) : (s.post m).wants = s.wants := rfl
@[simp] theorem State.post_launchNext (m : Msg) : (s.post m).launchNext = s.launchNext := rfl
@[simp] theorem State.post_routers (m : Msg) : (s.post m).routers = s.routers := rfl
@[simp] theorem State.post_plans (m : Msg) : (s.post m).plans = s.plans := rfl
@[simp] theorem State.post_dies (m : Msg) : (s.post m).dies = s.dies := rfl
@[simp] theorem State.post_devPower (m : Msg) : (s.post m).devPower = s.devPower := rfl
@[simp] theorem State.post_devWakeAt (m : Msg) : (s.post m).devWakeAt = s.devWakeAt := rfl
@[simp] theorem State.post_devSince (m : Msg) : (s.post m).devSince = s.devSince := rfl
@[simp] theorem State.post_objects (m : Msg) : (s.post m).objects = s.objects := rfl
@[simp] theorem State.post_frames (m : Msg) : (s.post m).frames = s.frames := rfl
@[simp] theorem State.post_freed (m : Msg) : (s.post m).freed = s.freed := rfl
@[simp] theorem State.post_unmaps (m : Msg) : (s.post m).unmaps = s.unmaps := rfl
@[simp] theorem State.post_mapWaits (m : Msg) : (s.post m).mapWaits = s.mapWaits := rfl
@[simp] theorem State.post_pins (m : Msg) : (s.post m).pins = s.pins := rfl
@[simp] theorem State.post_pageWaits (m : Msg) : (s.post m).pageWaits = s.pageWaits := rfl
@[simp] theorem State.post_profiles (m : Msg) : (s.post m).profiles = s.profiles := rfl
@[simp] theorem State.post_olds (m : Msg) : (s.post m).olds = s.olds := rfl
@[simp] theorem State.post_boot (m : Msg) : (s.post m).boot = s.boot := rfl
@[simp] theorem State.post_host (m : Msg) : (s.post m).host = s.host := rfl
@[simp] theorem State.post_relcount (m : Msg) : (s.post m).relcount = s.relcount := rfl
@[simp] theorem State.post_agenda (m : Msg) : (s.post m).agenda = s.agenda := rfl

@[simp] theorem State.updQueue_tick (q : Nat) (f : DQueue → DQueue) : (s.updQueue q f).tick = s.tick := rfl
@[simp] theorem State.updQueue_clk (q : Nat) (f : DQueue → DQueue) : (s.updQueue q f).clk = s.clk := rfl
@[simp] theorem State.updQueue_gtime (q : Nat) (f : DQueue → DQueue) : (s.updQueue q f).gtime = s.gtime := rfl
@[simp] theorem State.updQueue_free (q : Nat) (f : DQueue → DQueue) : (s.updQueue q f).free = s.free := rfl
@[simp] theorem State.updQueue_devloc (q : Nat) (f : DQueue → DQueue) : (s.updQueue q f).devloc = s.devloc := rfl
@[simp] theorem State.updQueue_mem (q : Nat) (f : DQueue → DQueue) : (s.updQueue q f).mem = s.mem := rfl
@[simp] theorem State.updQueue_poison (q : Nat) (f : DQueue → DQueue) : (s.updQueue q f).poison = s.poison := rfl
@[simp] theorem State.updQueue_g (q : Nat) (f : DQueue → DQueue) : (s.updQueue q f).g = s.g := rfl
@[simp] theorem State.updQueue_others (q : Nat) (f : DQueue → DQueue) : (s.updQueue q f).others = s.others := rfl
@[simp] theorem State.updQueue_blocks (q : Nat) (f : DQueue → DQueue) : (s.updQueue q f).blocks = s.blocks := rfl
@[simp] theorem State.updQueue_ctxs (q : Nat) (f : DQueue → DQueue) : (s.updQueue q f).ctxs = s.ctxs := rfl
@[simp] theorem State.updQueue_rxq (q : Nat) (f : DQueue → DQueue) : (s.updQueue q f).rxq = s.rxq := rfl
@[simp] theorem State.updQueue_shelf (q : Nat) (f : DQueue → DQueue) : (s.updQueue q f).shelf = s.shelf := rfl
@[simp] theorem State.updQueue_sets (q : Nat) (f : DQueue → DQueue) : (s.updQueue q f).sets = s.sets := rfl
@[simp] theorem State.updQueue_joins (q : Nat) (f : DQueue → DQueue) : (s.updQueue q f).joins = s.joins := rfl
@[simp] theorem State.updQueue_faorIn (q : Nat) (f : DQueue → DQueue) : (s.updQueue q f).faorIn = s.faorIn := rfl
@[simp] theorem State.updQueue_fab (q : Nat) (f : DQueue → DQueue) : (s.updQueue q f).fab = s.fab := rfl
@[simp] theorem State.updQueue_launches (q : Nat) (f : DQueue → DQueue) : (s.updQueue q f).launches = s.launches := rfl
@[simp] theorem State.updQueue_oldLogs (q : Nat) (f : DQueue → DQueue) : (s.updQueue q f).oldLogs = s.oldLogs := rfl
@[simp] theorem State.updQueue_learned (q : Nat) (f : DQueue → DQueue) : (s.updQueue q f).learned = s.learned := rfl
@[simp] theorem State.updQueue_trace (q : Nat) (f : DQueue → DQueue) : (s.updQueue q f).trace = s.trace := rfl
@[simp] theorem State.updQueue_cores (q : Nat) (f : DQueue → DQueue) : (s.updQueue q f).cores = s.cores := rfl
@[simp] theorem State.updQueue_xlats (q : Nat) (f : DQueue → DQueue) : (s.updQueue q f).xlats = s.xlats := rfl
@[simp] theorem State.updQueue_icinvs (q : Nat) (f : DQueue → DQueue) : (s.updQueue q f).icinvs = s.icinvs := rfl
@[simp] theorem State.updQueue_icinvNext (q : Nat) (f : DQueue → DQueue) : (s.updQueue q f).icinvNext = s.icinvNext := rfl
@[simp] theorem State.updQueue_jobs (q : Nat) (f : DQueue → DQueue) : (s.updQueue q f).jobs = s.jobs := rfl
@[simp] theorem State.updQueue_jobNext (q : Nat) (f : DQueue → DQueue) : (s.updQueue q f).jobNext = s.jobNext := rfl
@[simp] theorem State.updQueue_stages (q : Nat) (f : DQueue → DQueue) : (s.updQueue q f).stages = s.stages := rfl
@[simp] theorem State.updQueue_leases (q : Nat) (f : DQueue → DQueue) : (s.updQueue q f).leases = s.leases := rfl
@[simp] theorem State.updQueue_execQ (q : Nat) (f : DQueue → DQueue) : (s.updQueue q f).execQ = s.execQ := rfl
@[simp] theorem State.updQueue_podSets (q : Nat) (f : DQueue → DQueue) : (s.updQueue q f).podSets = s.podSets := rfl
@[simp] theorem State.updQueue_podRes (q : Nat) (f : DQueue → DQueue) : (s.updQueue q f).podRes = s.podRes := rfl
@[simp] theorem State.updQueue_queueTable (q : Nat) (f : DQueue → DQueue) : (s.updQueue q f).queueTable = s.queueTable := rfl
@[simp] theorem State.updQueue_wants (q : Nat) (f : DQueue → DQueue) : (s.updQueue q f).wants = s.wants := rfl
@[simp] theorem State.updQueue_launchNext (q : Nat) (f : DQueue → DQueue) : (s.updQueue q f).launchNext = s.launchNext := rfl
@[simp] theorem State.updQueue_routers (q : Nat) (f : DQueue → DQueue) : (s.updQueue q f).routers = s.routers := rfl
@[simp] theorem State.updQueue_plans (q : Nat) (f : DQueue → DQueue) : (s.updQueue q f).plans = s.plans := rfl
@[simp] theorem State.updQueue_dies (q : Nat) (f : DQueue → DQueue) : (s.updQueue q f).dies = s.dies := rfl
@[simp] theorem State.updQueue_devPower (q : Nat) (f : DQueue → DQueue) : (s.updQueue q f).devPower = s.devPower := rfl
@[simp] theorem State.updQueue_devWakeAt (q : Nat) (f : DQueue → DQueue) : (s.updQueue q f).devWakeAt = s.devWakeAt := rfl
@[simp] theorem State.updQueue_devSince (q : Nat) (f : DQueue → DQueue) : (s.updQueue q f).devSince = s.devSince := rfl
@[simp] theorem State.updQueue_objects (q : Nat) (f : DQueue → DQueue) : (s.updQueue q f).objects = s.objects := rfl
@[simp] theorem State.updQueue_frames (q : Nat) (f : DQueue → DQueue) : (s.updQueue q f).frames = s.frames := rfl
@[simp] theorem State.updQueue_freed (q : Nat) (f : DQueue → DQueue) : (s.updQueue q f).freed = s.freed := rfl
@[simp] theorem State.updQueue_unmaps (q : Nat) (f : DQueue → DQueue) : (s.updQueue q f).unmaps = s.unmaps := rfl
@[simp] theorem State.updQueue_mapWaits (q : Nat) (f : DQueue → DQueue) : (s.updQueue q f).mapWaits = s.mapWaits := rfl
@[simp] theorem State.updQueue_pins (q : Nat) (f : DQueue → DQueue) : (s.updQueue q f).pins = s.pins := rfl
@[simp] theorem State.updQueue_pageWaits (q : Nat) (f : DQueue → DQueue) : (s.updQueue q f).pageWaits = s.pageWaits := rfl
@[simp] theorem State.updQueue_profiles (q : Nat) (f : DQueue → DQueue) : (s.updQueue q f).profiles = s.profiles := rfl
@[simp] theorem State.updQueue_olds (q : Nat) (f : DQueue → DQueue) : (s.updQueue q f).olds = s.olds := rfl
@[simp] theorem State.updQueue_boot (q : Nat) (f : DQueue → DQueue) : (s.updQueue q f).boot = s.boot := rfl
@[simp] theorem State.updQueue_host (q : Nat) (f : DQueue → DQueue) : (s.updQueue q f).host = s.host := rfl
@[simp] theorem State.updQueue_relcount (q : Nat) (f : DQueue → DQueue) : (s.updQueue q f).relcount = s.relcount := rfl
@[simp] theorem State.updQueue_agenda (q : Nat) (f : DQueue → DQueue) : (s.updQueue q f).agenda = s.agenda := rfl

@[simp] theorem State.setDie_tick (d : Nat) (f : DieSt → DieSt) : (s.setDie d f).tick = s.tick := rfl
@[simp] theorem State.setDie_clk (d : Nat) (f : DieSt → DieSt) : (s.setDie d f).clk = s.clk := rfl
@[simp] theorem State.setDie_gtime (d : Nat) (f : DieSt → DieSt) : (s.setDie d f).gtime = s.gtime := rfl
@[simp] theorem State.setDie_free (d : Nat) (f : DieSt → DieSt) : (s.setDie d f).free = s.free := rfl
@[simp] theorem State.setDie_devloc (d : Nat) (f : DieSt → DieSt) : (s.setDie d f).devloc = s.devloc := rfl
@[simp] theorem State.setDie_mem (d : Nat) (f : DieSt → DieSt) : (s.setDie d f).mem = s.mem := rfl
@[simp] theorem State.setDie_poison (d : Nat) (f : DieSt → DieSt) : (s.setDie d f).poison = s.poison := rfl
@[simp] theorem State.setDie_g (d : Nat) (f : DieSt → DieSt) : (s.setDie d f).g = s.g := rfl
@[simp] theorem State.setDie_others (d : Nat) (f : DieSt → DieSt) : (s.setDie d f).others = s.others := rfl
@[simp] theorem State.setDie_blocks (d : Nat) (f : DieSt → DieSt) : (s.setDie d f).blocks = s.blocks := rfl
@[simp] theorem State.setDie_ctxs (d : Nat) (f : DieSt → DieSt) : (s.setDie d f).ctxs = s.ctxs := rfl
@[simp] theorem State.setDie_rxq (d : Nat) (f : DieSt → DieSt) : (s.setDie d f).rxq = s.rxq := rfl
@[simp] theorem State.setDie_shelf (d : Nat) (f : DieSt → DieSt) : (s.setDie d f).shelf = s.shelf := rfl
@[simp] theorem State.setDie_sets (d : Nat) (f : DieSt → DieSt) : (s.setDie d f).sets = s.sets := rfl
@[simp] theorem State.setDie_joins (d : Nat) (f : DieSt → DieSt) : (s.setDie d f).joins = s.joins := rfl
@[simp] theorem State.setDie_faorIn (d : Nat) (f : DieSt → DieSt) : (s.setDie d f).faorIn = s.faorIn := rfl
@[simp] theorem State.setDie_fab (d : Nat) (f : DieSt → DieSt) : (s.setDie d f).fab = s.fab := rfl
@[simp] theorem State.setDie_launches (d : Nat) (f : DieSt → DieSt) : (s.setDie d f).launches = s.launches := rfl
@[simp] theorem State.setDie_oldLogs (d : Nat) (f : DieSt → DieSt) : (s.setDie d f).oldLogs = s.oldLogs := rfl
@[simp] theorem State.setDie_learned (d : Nat) (f : DieSt → DieSt) : (s.setDie d f).learned = s.learned := rfl
@[simp] theorem State.setDie_trace (d : Nat) (f : DieSt → DieSt) : (s.setDie d f).trace = s.trace := rfl
@[simp] theorem State.setDie_cores (d : Nat) (f : DieSt → DieSt) : (s.setDie d f).cores = s.cores := rfl
@[simp] theorem State.setDie_xlats (d : Nat) (f : DieSt → DieSt) : (s.setDie d f).xlats = s.xlats := rfl
@[simp] theorem State.setDie_icinvs (d : Nat) (f : DieSt → DieSt) : (s.setDie d f).icinvs = s.icinvs := rfl
@[simp] theorem State.setDie_icinvNext (d : Nat) (f : DieSt → DieSt) : (s.setDie d f).icinvNext = s.icinvNext := rfl
@[simp] theorem State.setDie_jobs (d : Nat) (f : DieSt → DieSt) : (s.setDie d f).jobs = s.jobs := rfl
@[simp] theorem State.setDie_jobNext (d : Nat) (f : DieSt → DieSt) : (s.setDie d f).jobNext = s.jobNext := rfl
@[simp] theorem State.setDie_stages (d : Nat) (f : DieSt → DieSt) : (s.setDie d f).stages = s.stages := rfl
@[simp] theorem State.setDie_leases (d : Nat) (f : DieSt → DieSt) : (s.setDie d f).leases = s.leases := rfl
@[simp] theorem State.setDie_execQ (d : Nat) (f : DieSt → DieSt) : (s.setDie d f).execQ = s.execQ := rfl
@[simp] theorem State.setDie_podSets (d : Nat) (f : DieSt → DieSt) : (s.setDie d f).podSets = s.podSets := rfl
@[simp] theorem State.setDie_podRes (d : Nat) (f : DieSt → DieSt) : (s.setDie d f).podRes = s.podRes := rfl
@[simp] theorem State.setDie_queues (d : Nat) (f : DieSt → DieSt) : (s.setDie d f).queues = s.queues := rfl
@[simp] theorem State.setDie_queueTable (d : Nat) (f : DieSt → DieSt) : (s.setDie d f).queueTable = s.queueTable := rfl
@[simp] theorem State.setDie_wants (d : Nat) (f : DieSt → DieSt) : (s.setDie d f).wants = s.wants := rfl
@[simp] theorem State.setDie_launchNext (d : Nat) (f : DieSt → DieSt) : (s.setDie d f).launchNext = s.launchNext := rfl
@[simp] theorem State.setDie_routers (d : Nat) (f : DieSt → DieSt) : (s.setDie d f).routers = s.routers := rfl
@[simp] theorem State.setDie_plans (d : Nat) (f : DieSt → DieSt) : (s.setDie d f).plans = s.plans := rfl
@[simp] theorem State.setDie_devPower (d : Nat) (f : DieSt → DieSt) : (s.setDie d f).devPower = s.devPower := rfl
@[simp] theorem State.setDie_devWakeAt (d : Nat) (f : DieSt → DieSt) : (s.setDie d f).devWakeAt = s.devWakeAt := rfl
@[simp] theorem State.setDie_devSince (d : Nat) (f : DieSt → DieSt) : (s.setDie d f).devSince = s.devSince := rfl
@[simp] theorem State.setDie_objects (d : Nat) (f : DieSt → DieSt) : (s.setDie d f).objects = s.objects := rfl
@[simp] theorem State.setDie_frames (d : Nat) (f : DieSt → DieSt) : (s.setDie d f).frames = s.frames := rfl
@[simp] theorem State.setDie_freed (d : Nat) (f : DieSt → DieSt) : (s.setDie d f).freed = s.freed := rfl
@[simp] theorem State.setDie_unmaps (d : Nat) (f : DieSt → DieSt) : (s.setDie d f).unmaps = s.unmaps := rfl
@[simp] theorem State.setDie_mapWaits (d : Nat) (f : DieSt → DieSt) : (s.setDie d f).mapWaits = s.mapWaits := rfl
@[simp] theorem State.setDie_pins (d : Nat) (f : DieSt → DieSt) : (s.setDie d f).pins = s.pins := rfl
@[simp] theorem State.setDie_pageWaits (d : Nat) (f : DieSt → DieSt) : (s.setDie d f).pageWaits = s.pageWaits := rfl
@[simp] theorem State.setDie_profiles (d : Nat) (f : DieSt → DieSt) : (s.setDie d f).profiles = s.profiles := rfl
@[simp] theorem State.setDie_olds (d : Nat) (f : DieSt → DieSt) : (s.setDie d f).olds = s.olds := rfl
@[simp] theorem State.setDie_boot (d : Nat) (f : DieSt → DieSt) : (s.setDie d f).boot = s.boot := rfl
@[simp] theorem State.setDie_host (d : Nat) (f : DieSt → DieSt) : (s.setDie d f).host = s.host := rfl
@[simp] theorem State.setDie_relcount (d : Nat) (f : DieSt → DieSt) : (s.setDie d f).relcount = s.relcount := rfl
@[simp] theorem State.setDie_agenda (d : Nat) (f : DieSt → DieSt) : (s.setDie d f).agenda = s.agenda := rfl

@[simp] theorem State.setCore_tick (c : Nat) (f : CoreSt → CoreSt) : (s.setCore c f).tick = s.tick := rfl
@[simp] theorem State.setCore_clk (c : Nat) (f : CoreSt → CoreSt) : (s.setCore c f).clk = s.clk := rfl
@[simp] theorem State.setCore_gtime (c : Nat) (f : CoreSt → CoreSt) : (s.setCore c f).gtime = s.gtime := rfl
@[simp] theorem State.setCore_free (c : Nat) (f : CoreSt → CoreSt) : (s.setCore c f).free = s.free := rfl
@[simp] theorem State.setCore_devloc (c : Nat) (f : CoreSt → CoreSt) : (s.setCore c f).devloc = s.devloc := rfl
@[simp] theorem State.setCore_mem (c : Nat) (f : CoreSt → CoreSt) : (s.setCore c f).mem = s.mem := rfl
@[simp] theorem State.setCore_poison (c : Nat) (f : CoreSt → CoreSt) : (s.setCore c f).poison = s.poison := rfl
@[simp] theorem State.setCore_g (c : Nat) (f : CoreSt → CoreSt) : (s.setCore c f).g = s.g := rfl
@[simp] theorem State.setCore_others (c : Nat) (f : CoreSt → CoreSt) : (s.setCore c f).others = s.others := rfl
@[simp] theorem State.setCore_blocks (c : Nat) (f : CoreSt → CoreSt) : (s.setCore c f).blocks = s.blocks := rfl
@[simp] theorem State.setCore_ctxs (c : Nat) (f : CoreSt → CoreSt) : (s.setCore c f).ctxs = s.ctxs := rfl
@[simp] theorem State.setCore_rxq (c : Nat) (f : CoreSt → CoreSt) : (s.setCore c f).rxq = s.rxq := rfl
@[simp] theorem State.setCore_shelf (c : Nat) (f : CoreSt → CoreSt) : (s.setCore c f).shelf = s.shelf := rfl
@[simp] theorem State.setCore_sets (c : Nat) (f : CoreSt → CoreSt) : (s.setCore c f).sets = s.sets := rfl
@[simp] theorem State.setCore_joins (c : Nat) (f : CoreSt → CoreSt) : (s.setCore c f).joins = s.joins := rfl
@[simp] theorem State.setCore_faorIn (c : Nat) (f : CoreSt → CoreSt) : (s.setCore c f).faorIn = s.faorIn := rfl
@[simp] theorem State.setCore_fab (c : Nat) (f : CoreSt → CoreSt) : (s.setCore c f).fab = s.fab := rfl
@[simp] theorem State.setCore_launches (c : Nat) (f : CoreSt → CoreSt) : (s.setCore c f).launches = s.launches := rfl
@[simp] theorem State.setCore_oldLogs (c : Nat) (f : CoreSt → CoreSt) : (s.setCore c f).oldLogs = s.oldLogs := rfl
@[simp] theorem State.setCore_learned (c : Nat) (f : CoreSt → CoreSt) : (s.setCore c f).learned = s.learned := rfl
@[simp] theorem State.setCore_trace (c : Nat) (f : CoreSt → CoreSt) : (s.setCore c f).trace = s.trace := rfl
@[simp] theorem State.setCore_xlats (c : Nat) (f : CoreSt → CoreSt) : (s.setCore c f).xlats = s.xlats := rfl
@[simp] theorem State.setCore_icinvs (c : Nat) (f : CoreSt → CoreSt) : (s.setCore c f).icinvs = s.icinvs := rfl
@[simp] theorem State.setCore_icinvNext (c : Nat) (f : CoreSt → CoreSt) : (s.setCore c f).icinvNext = s.icinvNext := rfl
@[simp] theorem State.setCore_jobs (c : Nat) (f : CoreSt → CoreSt) : (s.setCore c f).jobs = s.jobs := rfl
@[simp] theorem State.setCore_jobNext (c : Nat) (f : CoreSt → CoreSt) : (s.setCore c f).jobNext = s.jobNext := rfl
@[simp] theorem State.setCore_stages (c : Nat) (f : CoreSt → CoreSt) : (s.setCore c f).stages = s.stages := rfl
@[simp] theorem State.setCore_leases (c : Nat) (f : CoreSt → CoreSt) : (s.setCore c f).leases = s.leases := rfl
@[simp] theorem State.setCore_execQ (c : Nat) (f : CoreSt → CoreSt) : (s.setCore c f).execQ = s.execQ := rfl
@[simp] theorem State.setCore_podSets (c : Nat) (f : CoreSt → CoreSt) : (s.setCore c f).podSets = s.podSets := rfl
@[simp] theorem State.setCore_podRes (c : Nat) (f : CoreSt → CoreSt) : (s.setCore c f).podRes = s.podRes := rfl
@[simp] theorem State.setCore_queues (c : Nat) (f : CoreSt → CoreSt) : (s.setCore c f).queues = s.queues := rfl
@[simp] theorem State.setCore_queueTable (c : Nat) (f : CoreSt → CoreSt) : (s.setCore c f).queueTable = s.queueTable := rfl
@[simp] theorem State.setCore_wants (c : Nat) (f : CoreSt → CoreSt) : (s.setCore c f).wants = s.wants := rfl
@[simp] theorem State.setCore_launchNext (c : Nat) (f : CoreSt → CoreSt) : (s.setCore c f).launchNext = s.launchNext := rfl
@[simp] theorem State.setCore_routers (c : Nat) (f : CoreSt → CoreSt) : (s.setCore c f).routers = s.routers := rfl
@[simp] theorem State.setCore_plans (c : Nat) (f : CoreSt → CoreSt) : (s.setCore c f).plans = s.plans := rfl
@[simp] theorem State.setCore_dies (c : Nat) (f : CoreSt → CoreSt) : (s.setCore c f).dies = s.dies := rfl
@[simp] theorem State.setCore_devPower (c : Nat) (f : CoreSt → CoreSt) : (s.setCore c f).devPower = s.devPower := rfl
@[simp] theorem State.setCore_devWakeAt (c : Nat) (f : CoreSt → CoreSt) : (s.setCore c f).devWakeAt = s.devWakeAt := rfl
@[simp] theorem State.setCore_devSince (c : Nat) (f : CoreSt → CoreSt) : (s.setCore c f).devSince = s.devSince := rfl
@[simp] theorem State.setCore_objects (c : Nat) (f : CoreSt → CoreSt) : (s.setCore c f).objects = s.objects := rfl
@[simp] theorem State.setCore_frames (c : Nat) (f : CoreSt → CoreSt) : (s.setCore c f).frames = s.frames := rfl
@[simp] theorem State.setCore_freed (c : Nat) (f : CoreSt → CoreSt) : (s.setCore c f).freed = s.freed := rfl
@[simp] theorem State.setCore_unmaps (c : Nat) (f : CoreSt → CoreSt) : (s.setCore c f).unmaps = s.unmaps := rfl
@[simp] theorem State.setCore_mapWaits (c : Nat) (f : CoreSt → CoreSt) : (s.setCore c f).mapWaits = s.mapWaits := rfl
@[simp] theorem State.setCore_pins (c : Nat) (f : CoreSt → CoreSt) : (s.setCore c f).pins = s.pins := rfl
@[simp] theorem State.setCore_pageWaits (c : Nat) (f : CoreSt → CoreSt) : (s.setCore c f).pageWaits = s.pageWaits := rfl
@[simp] theorem State.setCore_profiles (c : Nat) (f : CoreSt → CoreSt) : (s.setCore c f).profiles = s.profiles := rfl
@[simp] theorem State.setCore_olds (c : Nat) (f : CoreSt → CoreSt) : (s.setCore c f).olds = s.olds := rfl
@[simp] theorem State.setCore_boot (c : Nat) (f : CoreSt → CoreSt) : (s.setCore c f).boot = s.boot := rfl
@[simp] theorem State.setCore_host (c : Nat) (f : CoreSt → CoreSt) : (s.setCore c f).host = s.host := rfl
@[simp] theorem State.setCore_relcount (c : Nat) (f : CoreSt → CoreSt) : (s.setCore c f).relcount = s.relcount := rfl
@[simp] theorem State.setCore_agenda (c : Nat) (f : CoreSt → CoreSt) : (s.setCore c f).agenda = s.agenda := rfl

@[simp] theorem State.setElem_tick (e : Nat) (x : Elem) : (s.setElem e x).tick = s.tick := rfl
@[simp] theorem State.setElem_clk (e : Nat) (x : Elem) : (s.setElem e x).clk = s.clk := rfl
@[simp] theorem State.setElem_gtime (e : Nat) (x : Elem) : (s.setElem e x).gtime = s.gtime := rfl
@[simp] theorem State.setElem_free (e : Nat) (x : Elem) : (s.setElem e x).free = s.free := rfl
@[simp] theorem State.setElem_devloc (e : Nat) (x : Elem) : (s.setElem e x).devloc = s.devloc := rfl
@[simp] theorem State.setElem_mem (e : Nat) (x : Elem) : (s.setElem e x).mem = s.mem := rfl
@[simp] theorem State.setElem_poison (e : Nat) (x : Elem) : (s.setElem e x).poison = s.poison := rfl
@[simp] theorem State.setElem_g (e : Nat) (x : Elem) : (s.setElem e x).g = s.g := rfl
@[simp] theorem State.setElem_others (e : Nat) (x : Elem) : (s.setElem e x).others = s.others := rfl
@[simp] theorem State.setElem_blocks (e : Nat) (x : Elem) : (s.setElem e x).blocks = s.blocks := rfl
@[simp] theorem State.setElem_ctxs (e : Nat) (x : Elem) : (s.setElem e x).ctxs = s.ctxs := rfl
@[simp] theorem State.setElem_rxq (e : Nat) (x : Elem) : (s.setElem e x).rxq = s.rxq := rfl
@[simp] theorem State.setElem_shelf (e : Nat) (x : Elem) : (s.setElem e x).shelf = s.shelf := rfl
@[simp] theorem State.setElem_sets (e : Nat) (x : Elem) : (s.setElem e x).sets = s.sets := rfl
@[simp] theorem State.setElem_joins (e : Nat) (x : Elem) : (s.setElem e x).joins = s.joins := rfl
@[simp] theorem State.setElem_faorIn (e : Nat) (x : Elem) : (s.setElem e x).faorIn = s.faorIn := rfl
@[simp] theorem State.setElem_launches (e : Nat) (x : Elem) : (s.setElem e x).launches = s.launches := rfl
@[simp] theorem State.setElem_oldLogs (e : Nat) (x : Elem) : (s.setElem e x).oldLogs = s.oldLogs := rfl
@[simp] theorem State.setElem_learned (e : Nat) (x : Elem) : (s.setElem e x).learned = s.learned := rfl
@[simp] theorem State.setElem_trace (e : Nat) (x : Elem) : (s.setElem e x).trace = s.trace := rfl
@[simp] theorem State.setElem_cores (e : Nat) (x : Elem) : (s.setElem e x).cores = s.cores := rfl
@[simp] theorem State.setElem_xlats (e : Nat) (x : Elem) : (s.setElem e x).xlats = s.xlats := rfl
@[simp] theorem State.setElem_icinvs (e : Nat) (x : Elem) : (s.setElem e x).icinvs = s.icinvs := rfl
@[simp] theorem State.setElem_icinvNext (e : Nat) (x : Elem) : (s.setElem e x).icinvNext = s.icinvNext := rfl
@[simp] theorem State.setElem_jobs (e : Nat) (x : Elem) : (s.setElem e x).jobs = s.jobs := rfl
@[simp] theorem State.setElem_jobNext (e : Nat) (x : Elem) : (s.setElem e x).jobNext = s.jobNext := rfl
@[simp] theorem State.setElem_stages (e : Nat) (x : Elem) : (s.setElem e x).stages = s.stages := rfl
@[simp] theorem State.setElem_leases (e : Nat) (x : Elem) : (s.setElem e x).leases = s.leases := rfl
@[simp] theorem State.setElem_execQ (e : Nat) (x : Elem) : (s.setElem e x).execQ = s.execQ := rfl
@[simp] theorem State.setElem_podSets (e : Nat) (x : Elem) : (s.setElem e x).podSets = s.podSets := rfl
@[simp] theorem State.setElem_podRes (e : Nat) (x : Elem) : (s.setElem e x).podRes = s.podRes := rfl
@[simp] theorem State.setElem_queues (e : Nat) (x : Elem) : (s.setElem e x).queues = s.queues := rfl
@[simp] theorem State.setElem_queueTable (e : Nat) (x : Elem) : (s.setElem e x).queueTable = s.queueTable := rfl
@[simp] theorem State.setElem_wants (e : Nat) (x : Elem) : (s.setElem e x).wants = s.wants := rfl
@[simp] theorem State.setElem_launchNext (e : Nat) (x : Elem) : (s.setElem e x).launchNext = s.launchNext := rfl
@[simp] theorem State.setElem_routers (e : Nat) (x : Elem) : (s.setElem e x).routers = s.routers := rfl
@[simp] theorem State.setElem_plans (e : Nat) (x : Elem) : (s.setElem e x).plans = s.plans := rfl
@[simp] theorem State.setElem_dies (e : Nat) (x : Elem) : (s.setElem e x).dies = s.dies := rfl
@[simp] theorem State.setElem_devPower (e : Nat) (x : Elem) : (s.setElem e x).devPower = s.devPower := rfl
@[simp] theorem State.setElem_devWakeAt (e : Nat) (x : Elem) : (s.setElem e x).devWakeAt = s.devWakeAt := rfl
@[simp] theorem State.setElem_devSince (e : Nat) (x : Elem) : (s.setElem e x).devSince = s.devSince := rfl
@[simp] theorem State.setElem_objects (e : Nat) (x : Elem) : (s.setElem e x).objects = s.objects := rfl
@[simp] theorem State.setElem_frames (e : Nat) (x : Elem) : (s.setElem e x).frames = s.frames := rfl
@[simp] theorem State.setElem_freed (e : Nat) (x : Elem) : (s.setElem e x).freed = s.freed := rfl
@[simp] theorem State.setElem_unmaps (e : Nat) (x : Elem) : (s.setElem e x).unmaps = s.unmaps := rfl
@[simp] theorem State.setElem_mapWaits (e : Nat) (x : Elem) : (s.setElem e x).mapWaits = s.mapWaits := rfl
@[simp] theorem State.setElem_pins (e : Nat) (x : Elem) : (s.setElem e x).pins = s.pins := rfl
@[simp] theorem State.setElem_pageWaits (e : Nat) (x : Elem) : (s.setElem e x).pageWaits = s.pageWaits := rfl
@[simp] theorem State.setElem_profiles (e : Nat) (x : Elem) : (s.setElem e x).profiles = s.profiles := rfl
@[simp] theorem State.setElem_olds (e : Nat) (x : Elem) : (s.setElem e x).olds = s.olds := rfl
@[simp] theorem State.setElem_boot (e : Nat) (x : Elem) : (s.setElem e x).boot = s.boot := rfl
@[simp] theorem State.setElem_host (e : Nat) (x : Elem) : (s.setElem e x).host = s.host := rfl
@[simp] theorem State.setElem_relcount (e : Nat) (x : Elem) : (s.setElem e x).relcount = s.relcount := rfl
@[simp] theorem State.setElem_agenda (e : Nat) (x : Elem) : (s.setElem e x).agenda = s.agenda := rfl

@[simp] theorem State.setLink_tick (n : Nat) (l : Link) : (s.setLink n l).tick = s.tick := rfl
@[simp] theorem State.setLink_clk (n : Nat) (l : Link) : (s.setLink n l).clk = s.clk := rfl
@[simp] theorem State.setLink_gtime (n : Nat) (l : Link) : (s.setLink n l).gtime = s.gtime := rfl
@[simp] theorem State.setLink_free (n : Nat) (l : Link) : (s.setLink n l).free = s.free := rfl
@[simp] theorem State.setLink_devloc (n : Nat) (l : Link) : (s.setLink n l).devloc = s.devloc := rfl
@[simp] theorem State.setLink_mem (n : Nat) (l : Link) : (s.setLink n l).mem = s.mem := rfl
@[simp] theorem State.setLink_poison (n : Nat) (l : Link) : (s.setLink n l).poison = s.poison := rfl
@[simp] theorem State.setLink_g (n : Nat) (l : Link) : (s.setLink n l).g = s.g := rfl
@[simp] theorem State.setLink_others (n : Nat) (l : Link) : (s.setLink n l).others = s.others := rfl
@[simp] theorem State.setLink_blocks (n : Nat) (l : Link) : (s.setLink n l).blocks = s.blocks := rfl
@[simp] theorem State.setLink_ctxs (n : Nat) (l : Link) : (s.setLink n l).ctxs = s.ctxs := rfl
@[simp] theorem State.setLink_rxq (n : Nat) (l : Link) : (s.setLink n l).rxq = s.rxq := rfl
@[simp] theorem State.setLink_shelf (n : Nat) (l : Link) : (s.setLink n l).shelf = s.shelf := rfl
@[simp] theorem State.setLink_sets (n : Nat) (l : Link) : (s.setLink n l).sets = s.sets := rfl
@[simp] theorem State.setLink_joins (n : Nat) (l : Link) : (s.setLink n l).joins = s.joins := rfl
@[simp] theorem State.setLink_faorIn (n : Nat) (l : Link) : (s.setLink n l).faorIn = s.faorIn := rfl
@[simp] theorem State.setLink_launches (n : Nat) (l : Link) : (s.setLink n l).launches = s.launches := rfl
@[simp] theorem State.setLink_oldLogs (n : Nat) (l : Link) : (s.setLink n l).oldLogs = s.oldLogs := rfl
@[simp] theorem State.setLink_learned (n : Nat) (l : Link) : (s.setLink n l).learned = s.learned := rfl
@[simp] theorem State.setLink_trace (n : Nat) (l : Link) : (s.setLink n l).trace = s.trace := rfl
@[simp] theorem State.setLink_cores (n : Nat) (l : Link) : (s.setLink n l).cores = s.cores := rfl
@[simp] theorem State.setLink_xlats (n : Nat) (l : Link) : (s.setLink n l).xlats = s.xlats := rfl
@[simp] theorem State.setLink_icinvs (n : Nat) (l : Link) : (s.setLink n l).icinvs = s.icinvs := rfl
@[simp] theorem State.setLink_icinvNext (n : Nat) (l : Link) : (s.setLink n l).icinvNext = s.icinvNext := rfl
@[simp] theorem State.setLink_jobs (n : Nat) (l : Link) : (s.setLink n l).jobs = s.jobs := rfl
@[simp] theorem State.setLink_jobNext (n : Nat) (l : Link) : (s.setLink n l).jobNext = s.jobNext := rfl
@[simp] theorem State.setLink_stages (n : Nat) (l : Link) : (s.setLink n l).stages = s.stages := rfl
@[simp] theorem State.setLink_leases (n : Nat) (l : Link) : (s.setLink n l).leases = s.leases := rfl
@[simp] theorem State.setLink_execQ (n : Nat) (l : Link) : (s.setLink n l).execQ = s.execQ := rfl
@[simp] theorem State.setLink_podSets (n : Nat) (l : Link) : (s.setLink n l).podSets = s.podSets := rfl
@[simp] theorem State.setLink_podRes (n : Nat) (l : Link) : (s.setLink n l).podRes = s.podRes := rfl
@[simp] theorem State.setLink_queues (n : Nat) (l : Link) : (s.setLink n l).queues = s.queues := rfl
@[simp] theorem State.setLink_queueTable (n : Nat) (l : Link) : (s.setLink n l).queueTable = s.queueTable := rfl
@[simp] theorem State.setLink_wants (n : Nat) (l : Link) : (s.setLink n l).wants = s.wants := rfl
@[simp] theorem State.setLink_launchNext (n : Nat) (l : Link) : (s.setLink n l).launchNext = s.launchNext := rfl
@[simp] theorem State.setLink_routers (n : Nat) (l : Link) : (s.setLink n l).routers = s.routers := rfl
@[simp] theorem State.setLink_plans (n : Nat) (l : Link) : (s.setLink n l).plans = s.plans := rfl
@[simp] theorem State.setLink_dies (n : Nat) (l : Link) : (s.setLink n l).dies = s.dies := rfl
@[simp] theorem State.setLink_devPower (n : Nat) (l : Link) : (s.setLink n l).devPower = s.devPower := rfl
@[simp] theorem State.setLink_devWakeAt (n : Nat) (l : Link) : (s.setLink n l).devWakeAt = s.devWakeAt := rfl
@[simp] theorem State.setLink_devSince (n : Nat) (l : Link) : (s.setLink n l).devSince = s.devSince := rfl
@[simp] theorem State.setLink_objects (n : Nat) (l : Link) : (s.setLink n l).objects = s.objects := rfl
@[simp] theorem State.setLink_frames (n : Nat) (l : Link) : (s.setLink n l).frames = s.frames := rfl
@[simp] theorem State.setLink_freed (n : Nat) (l : Link) : (s.setLink n l).freed = s.freed := rfl
@[simp] theorem State.setLink_unmaps (n : Nat) (l : Link) : (s.setLink n l).unmaps = s.unmaps := rfl
@[simp] theorem State.setLink_mapWaits (n : Nat) (l : Link) : (s.setLink n l).mapWaits = s.mapWaits := rfl
@[simp] theorem State.setLink_pins (n : Nat) (l : Link) : (s.setLink n l).pins = s.pins := rfl
@[simp] theorem State.setLink_pageWaits (n : Nat) (l : Link) : (s.setLink n l).pageWaits = s.pageWaits := rfl
@[simp] theorem State.setLink_profiles (n : Nat) (l : Link) : (s.setLink n l).profiles = s.profiles := rfl
@[simp] theorem State.setLink_olds (n : Nat) (l : Link) : (s.setLink n l).olds = s.olds := rfl
@[simp] theorem State.setLink_boot (n : Nat) (l : Link) : (s.setLink n l).boot = s.boot := rfl
@[simp] theorem State.setLink_host (n : Nat) (l : Link) : (s.setLink n l).host = s.host := rfl
@[simp] theorem State.setLink_relcount (n : Nat) (l : Link) : (s.setLink n l).relcount = s.relcount := rfl
@[simp] theorem State.setLink_agenda (n : Nat) (l : Link) : (s.setLink n l).agenda = s.agenda := rfl

@[simp] theorem State.setBoot_tick (f : Boot → Boot) : (s.setBoot f).tick = s.tick := rfl
@[simp] theorem State.setBoot_clk (f : Boot → Boot) : (s.setBoot f).clk = s.clk := rfl
@[simp] theorem State.setBoot_gtime (f : Boot → Boot) : (s.setBoot f).gtime = s.gtime := rfl
@[simp] theorem State.setBoot_free (f : Boot → Boot) : (s.setBoot f).free = s.free := rfl
@[simp] theorem State.setBoot_devloc (f : Boot → Boot) : (s.setBoot f).devloc = s.devloc := rfl
@[simp] theorem State.setBoot_mem (f : Boot → Boot) : (s.setBoot f).mem = s.mem := rfl
@[simp] theorem State.setBoot_poison (f : Boot → Boot) : (s.setBoot f).poison = s.poison := rfl
@[simp] theorem State.setBoot_g (f : Boot → Boot) : (s.setBoot f).g = s.g := rfl
@[simp] theorem State.setBoot_others (f : Boot → Boot) : (s.setBoot f).others = s.others := rfl
@[simp] theorem State.setBoot_blocks (f : Boot → Boot) : (s.setBoot f).blocks = s.blocks := rfl
@[simp] theorem State.setBoot_ctxs (f : Boot → Boot) : (s.setBoot f).ctxs = s.ctxs := rfl
@[simp] theorem State.setBoot_rxq (f : Boot → Boot) : (s.setBoot f).rxq = s.rxq := rfl
@[simp] theorem State.setBoot_shelf (f : Boot → Boot) : (s.setBoot f).shelf = s.shelf := rfl
@[simp] theorem State.setBoot_sets (f : Boot → Boot) : (s.setBoot f).sets = s.sets := rfl
@[simp] theorem State.setBoot_joins (f : Boot → Boot) : (s.setBoot f).joins = s.joins := rfl
@[simp] theorem State.setBoot_faorIn (f : Boot → Boot) : (s.setBoot f).faorIn = s.faorIn := rfl
@[simp] theorem State.setBoot_fab (f : Boot → Boot) : (s.setBoot f).fab = s.fab := rfl
@[simp] theorem State.setBoot_launches (f : Boot → Boot) : (s.setBoot f).launches = s.launches := rfl
@[simp] theorem State.setBoot_oldLogs (f : Boot → Boot) : (s.setBoot f).oldLogs = s.oldLogs := rfl
@[simp] theorem State.setBoot_learned (f : Boot → Boot) : (s.setBoot f).learned = s.learned := rfl
@[simp] theorem State.setBoot_trace (f : Boot → Boot) : (s.setBoot f).trace = s.trace := rfl
@[simp] theorem State.setBoot_cores (f : Boot → Boot) : (s.setBoot f).cores = s.cores := rfl
@[simp] theorem State.setBoot_xlats (f : Boot → Boot) : (s.setBoot f).xlats = s.xlats := rfl
@[simp] theorem State.setBoot_icinvs (f : Boot → Boot) : (s.setBoot f).icinvs = s.icinvs := rfl
@[simp] theorem State.setBoot_icinvNext (f : Boot → Boot) : (s.setBoot f).icinvNext = s.icinvNext := rfl
@[simp] theorem State.setBoot_jobs (f : Boot → Boot) : (s.setBoot f).jobs = s.jobs := rfl
@[simp] theorem State.setBoot_jobNext (f : Boot → Boot) : (s.setBoot f).jobNext = s.jobNext := rfl
@[simp] theorem State.setBoot_stages (f : Boot → Boot) : (s.setBoot f).stages = s.stages := rfl
@[simp] theorem State.setBoot_leases (f : Boot → Boot) : (s.setBoot f).leases = s.leases := rfl
@[simp] theorem State.setBoot_execQ (f : Boot → Boot) : (s.setBoot f).execQ = s.execQ := rfl
@[simp] theorem State.setBoot_podSets (f : Boot → Boot) : (s.setBoot f).podSets = s.podSets := rfl
@[simp] theorem State.setBoot_podRes (f : Boot → Boot) : (s.setBoot f).podRes = s.podRes := rfl
@[simp] theorem State.setBoot_queues (f : Boot → Boot) : (s.setBoot f).queues = s.queues := rfl
@[simp] theorem State.setBoot_queueTable (f : Boot → Boot) : (s.setBoot f).queueTable = s.queueTable := rfl
@[simp] theorem State.setBoot_wants (f : Boot → Boot) : (s.setBoot f).wants = s.wants := rfl
@[simp] theorem State.setBoot_launchNext (f : Boot → Boot) : (s.setBoot f).launchNext = s.launchNext := rfl
@[simp] theorem State.setBoot_routers (f : Boot → Boot) : (s.setBoot f).routers = s.routers := rfl
@[simp] theorem State.setBoot_plans (f : Boot → Boot) : (s.setBoot f).plans = s.plans := rfl
@[simp] theorem State.setBoot_dies (f : Boot → Boot) : (s.setBoot f).dies = s.dies := rfl
@[simp] theorem State.setBoot_devPower (f : Boot → Boot) : (s.setBoot f).devPower = s.devPower := rfl
@[simp] theorem State.setBoot_devWakeAt (f : Boot → Boot) : (s.setBoot f).devWakeAt = s.devWakeAt := rfl
@[simp] theorem State.setBoot_devSince (f : Boot → Boot) : (s.setBoot f).devSince = s.devSince := rfl
@[simp] theorem State.setBoot_objects (f : Boot → Boot) : (s.setBoot f).objects = s.objects := rfl
@[simp] theorem State.setBoot_frames (f : Boot → Boot) : (s.setBoot f).frames = s.frames := rfl
@[simp] theorem State.setBoot_freed (f : Boot → Boot) : (s.setBoot f).freed = s.freed := rfl
@[simp] theorem State.setBoot_unmaps (f : Boot → Boot) : (s.setBoot f).unmaps = s.unmaps := rfl
@[simp] theorem State.setBoot_mapWaits (f : Boot → Boot) : (s.setBoot f).mapWaits = s.mapWaits := rfl
@[simp] theorem State.setBoot_pins (f : Boot → Boot) : (s.setBoot f).pins = s.pins := rfl
@[simp] theorem State.setBoot_pageWaits (f : Boot → Boot) : (s.setBoot f).pageWaits = s.pageWaits := rfl
@[simp] theorem State.setBoot_profiles (f : Boot → Boot) : (s.setBoot f).profiles = s.profiles := rfl
@[simp] theorem State.setBoot_olds (f : Boot → Boot) : (s.setBoot f).olds = s.olds := rfl
@[simp] theorem State.setBoot_host (f : Boot → Boot) : (s.setBoot f).host = s.host := rfl
@[simp] theorem State.setBoot_relcount (f : Boot → Boot) : (s.setBoot f).relcount = s.relcount := rfl
@[simp] theorem State.setBoot_agenda (f : Boot → Boot) : (s.setBoot f).agenda = s.agenda := rfl

@[simp] theorem State.mapR_g (f : Regs → Regs) : (s.mapR f).g = { s.g with r := f s.g.r } := rfl
@[simp] theorem State.setStall_g (r : Stall) : (s.setStall r).g = { s.g with stall := r } := rfl
@[simp] theorem State.waiting_g (r : Stall) : (s.waiting r).g = { s.g with stall := r } := rfl
@[simp] theorem State.later_agenda (i : Instr) : (s.later i).agenda = s.agenda ++ [i] := rfl
@[simp] theorem State.post_out (m : Msg) : (s.post m).fab.out = s.fab.out ++ [m] := rfl
@[simp] theorem State.post_links (m : Msg) : (s.post m).fab.links = s.fab.links := rfl
@[simp] theorem State.post_elems (m : Msg) : (s.post m).fab.elems = s.fab.elems := rfl
@[simp] theorem State.setLink_out (n : Nat) (l : Link) : (s.setLink n l).fab.out = s.fab.out := rfl
@[simp] theorem State.setLink_elems (n : Nat) (l : Link) : (s.setLink n l).fab.elems = s.fab.elems := rfl
@[simp] theorem State.setElem_out (e : Nat) (x : Elem) : (s.setElem e x).fab.out = s.fab.out := rfl
@[simp] theorem State.setElem_links (e : Nat) (x : Elem) : (s.setElem e x).fab.links = s.fab.links := rfl
@[simp] theorem State.setBoot_boot (f : Boot → Boot) : (s.setBoot f).boot = f s.boot := rfl

end

end Sys2Proof.Machine
end

