-- ==== Sys2Proof/Laws/Fault.lean ====
section
/-! SUPPORT. What taking a fault does (R169 to R172): the fault registers hold it, and it reaches its receiver. -/

namespace Sys2Proof.Machine

theorem causeCode_eq (c : Cause) : causeCode c = causeNumber c := by cases c <;> rfl

theorem State.flushDrop_eq (s : State) : s.flushDrop = { s with trace := s.flushDrop.trace } := by
  unfold State.flushDrop
  split <;> rfl

theorem State.putRecord_eq (s : State) (r : TraceRec) : s.putRecord r = { s with trace := (s.putRecord r).trace } := by
  unfold State.putRecord
  simp only []
  (repeat' split) <;> first
    | rfl
    | rw [State.flushDrop_eq]

theorem State.emitFor_eq (s : State) (g : Group) (type payload : Nat) :
    s.emitFor g type payload = { s with trace := (s.emitFor g type payload).trace } := by
  unfold State.emitFor State.emitAt
  split
  · exact State.putRecord_eq s _
  · rfl

theorem State.emit_eq (s : State) (type payload : Nat) :
    s.emit type payload = { s with trace := (s.emit type payload).trace } := State.emitFor_eq s s.g type payload

theorem State.countFault_eq (s : State) (c : Cause) :
    s.countFault c = { s with
      g := { s.g with pend := (s.countFault c).g.pend }, others := (s.countFault c).others
      agenda := (s.countFault c).agenda, shelf := (s.countFault c).shelf, mem := (s.countFault c).mem
      poison := (s.countFault c).poison } := by
  unfold State.countFault
  split
  · rw [State.countRel_eq]
  · rw [State.countRel_eq]
  · rfl

theorem State.countFault_none {s : State} {c : Cause} (h1 : c ≠ .mchk) (h2 : c = .check → s.relcount = 0) :
    s.countFault c = s := by
  unfold State.countFault
  split
  · exact absurd rfl h1
  · simp [State.countRel, h2 rfl]
  · rfl

/-- The focus group's fault ends its process. -/
theorem State.endProcess_spec (s : State) :
    s.endProcess.g = { s.g with pend := .idle, kept := none, stall := .fault } ∧
      .coreDump s.g.p.ctx ∈ s.endProcess.agenda := by
  constructor
  · rfl
  · simp [State.endProcess, State.later]

theorem SameView.frameFault {s t : State} (h : SameView s t) (hl : t.g.r.live = s.g.r.live) :
    t.frameFault = s.frameFault := by
  have hc : t.check = s.check := funext h.check
  unfold State.frameFault State.frameAcc
  rw [hc, hl, h.p]

/-- Writing a frame leaves the groups' registers and whatever the checks do not read of memory alone. -/
theorem State.countHint_g (s : State) (ctx : Nat) (f : Leaf) : (s.countHint ctx f).g = s.g := by
  unfold State.countHint; split <;> rfl

theorem State.touchPages_g (s : State) (ctx : Nat) (w : Bool) (fuel va n : Nat) :
    (s.touchPages ctx w fuel va n).g = s.g := by
  induction fuel generalizing s va n with
  | zero => rfl
  | succ k ih =>
    unfold State.touchPages
    split
    · rfl
    · rw [ih]
      split <;> rfl

theorem State.mark_g (s : State) (a : Acc) : (s.mark a).g = s.g := by
  unfold State.mark
  split
  · rfl
  · simp only []
    split
    · rfl
    · split
      · have key : ∀ (l : List Nat) (f : State → Nat → State) (w : State), (∀ w i, (f w i).g = w.g) →
            (l.foldl f w).g = w.g := by
          intro l
          induction l with
          | nil => intro f w _; rfl
          | cons x t ih => intro f w hf; rw [List.foldl_cons, ih f _ hf, hf]
        exact key _ _ s fun w i => State.touchPages_g w _ _ _ _ _
      · exact State.touchPages_g s _ _ _ _ _

theorem State.countHints_g (s : State) (l : List (Nat × Nat)) : (s.countHints l).g = s.g := by
  unfold State.countHints
  generalize l.eraseDups = l
  induction l generalizing s with
  | nil => rfl
  | cons p t ih =>
    rw [List.foldl_cons, ih]
    split
    · exact State.countHint_g _ _ _
    · rfl

theorem State.touch_g (s : State) (a : Acc) : (s.touch a).g = s.g := by
  unfold State.touch
  rw [State.countHints_g, State.mark_g]

theorem State.writeFrame_g (s : State) (lane : Nat) :
    (s.writeFrame lane).g = { s.g with
      pend := (s.writeFrame lane).g.pend, priv := (s.writeFrame lane).g.priv
      privPoison := (s.writeFrame lane).g.privPoison } := by
  unfold State.writeFrame
  split
  · rw [State.writeSpans_eq, State.touch_g]
  · rfl

theorem State.writeFrames_g (s : State) (l : List Nat) :
    (l.foldl State.writeFrame s).g = { s.g with
      pend := (l.foldl State.writeFrame s).g.pend, priv := (l.foldl State.writeFrame s).g.priv
      privPoison := (l.foldl State.writeFrame s).g.privPoison } := by
  induction l generalizing s with
  | nil => rfl
  | cons x t ih => rw [List.foldl_cons, ih, State.writeFrame_g]

/-- R169 to R171: taking a fault reaches its receiver. -/
theorem State.takeTrap_received (s : State) (f : Trap) (pc : Nat) : FaultReceived s (s.takeTrap f pc) f pc := by
  have e0 : (s.emit 0x0A (causeCode f.cause + (pc / 2 % 2 ^ 56) * 2 ^ 8 + f.va % 2 ^ 64 * 2 ^ 64)) =
      { s with trace := (s.emit 0x0A (causeCode f.cause + (pc / 2 % 2 ^ 56) * 2 ^ 8 + f.va % 2 ^ 64 * 2 ^ 64)).trace } :=
    State.emit_eq s _ _
  unfold State.takeTrap
  generalize s.emit 0x0A (causeCode f.cause + (pc / 2 % 2 ^ 56) * 2 ^ 8 + f.va % 2 ^ 64 * 2 ^ 64) = s0 at *
  have hg0 : s0.g = s.g := by rw [e0]
  obtain ⟨q, eg⟩ : ∃ q, (s0.countFault f.cause).g = { s.g with pend := q } :=
    ⟨_, by rw [State.countFault_eq, hg0]⟩
  have ectx : (s0.countFault f.cause).ctxs = s.ctxs := by rw [State.countFault_eq, e0]
  have edev : (s0.countFault f.cause).devloc = s.devloc := by rw [State.countFault_eq, e0]
  have ekeep : f.cause ≠ .mchk → (f.cause = .check → s.relcount = 0) → s0.countFault f.cause = s0 := by
    intro h1 h2
    refine State.countFault_none h1 fun h => ?_
    rw [e0]; exact h2 h
  have emem : f.cause ≠ .mchk → (f.cause = .check → s.relcount = 0) →
      (s0.countFault f.cause).mem = s.mem ∧ (s0.countFault f.cause).poison = s.poison ∧
        (s0.countFault f.cause).blocks = s.blocks := by
    intro h1 h2
    rw [ekeep h1 h2, e0]; exact ⟨rfl, rfl, rfl⟩
  generalize s0.countFault f.cause = s1 at *
  simp only []
  have hr : s1.g.r = s.g.r := by rw [eg]
  have held : ∀ r : Regs, r.faultcause = (s1.g.r.setFault f pc).faultcause →
      r.faultva = (s1.g.r.setFault f pc).faultva → r.faultpc = (s1.g.r.setFault f pc).faultpc →
      r.faultaux = (s1.g.r.setFault f pc).faultaux → FaultHeld r f pc := by
    intro r h1 h2 h3 h4
    exact ⟨by rw [h1, ← causeCode_eq]; rfl, by rw [h2]; rfl, by rw [h3]; rfl, by rw [h4]; rfl⟩
  by_cases hd : s.debugged = true
  · rw [if_pos hd]
    refine ⟨held _ rfl rfl rfl rfl, fun _ => ⟨rfl, rfl, ?_⟩, ?_, ?_⟩
    · show s1.g.r.pcv = s.g.r.pcv
      rw [hr]
    · intro h hn; exact absurd (hd.symm.trans hn) (by decide)
    · intro hn; exact absurd (hd.symm.trans hn) (by decide)
  · rw [if_neg hd]
    have hd' : s.debugged = false := by simpa using hd
    generalize hs2 : ({ s1 with g := { s1.g with r := s1.g.r.setFault f pc, pend := .idle, kept := none, stall := .none } } :
        State) = s2
    have hs2 := hs2.symm
    have ep := State.endProcess_spec s2
    split
    · rename_i hc
      simp only [Bool.and_eq_true, Bool.not_eq_true'] at hc
      obtain ⟨⟨h1, h2⟩, h3⟩ := hc
      unfold State.enterHandler
      obtain ⟨h, hh⟩ := Option.isSome_iff_exists.1 h1
      have hu : s2.g.u.trapEntry = some h := by rw [hs2]; simp only [eg]; exact hh
      rw [hu]
      simp only []
      have notproc : (s.g.u.trapEntry = none ∨ s.g.inHandler = true ∨ f.cause = .mchk ∨ f.cause = .img ∨
          f.cause = .xlat) → False := by
        rintro (h' | h' | h' | h' | h')
        · rw [hh] at h'; simp at h'
        · rw [h2] at h'; simp at h'
        all_goals rw [h'] at h3; simp [Cause.toHandler] at h3
      have hff : f.cause ≠ .mchk → (f.cause = .check → s.relcount = 0) → s2.frameFault = s.frameFault := by
        intro g1 g2
        rw [hs2]
        refine SameView.frameFault ⟨(emem g1 g2).1, (emem g1 g2).2.1, ectx, edev, (emem g1 g2).2.2, ?_, ?_, ?_, ?_⟩ ?_ <;>
          simp only [eg] <;> rfl
      cases hf : s2.frameFault with
      | none =>
        simp only []
        obtain ⟨q', p', m', hg⟩ : ∃ q' p' m', (s2.g.r.live.foldl State.writeFrame s2).g =
            { s2.g with pend := q', priv := p', privPoison := m' } := ⟨_, _, _, State.writeFrames_g s2 s2.g.r.live⟩
        generalize s2.g.r.live.foldl State.writeFrame s2 = s3 at *
        refine ⟨?_, fun h => absurd h hd, ?_, fun _ hp => absurd hp (fun h => (notproc h).elim)⟩
        · apply held <;> rw [Regs.moveTo_eq] <;> simp only [hg, hs2]
        · intro h' _ hh' _ _ _ _ _ _
          rw [hh] at hh'
          have : h' = h := (Option.some.inj hh').symm
          subst this
          refine ⟨rfl, rfl, rfl, fun l hl => ?_⟩
          simp only [Regs.getPcv_moveTo]
          have hlive : s3.g.r.live = s.g.r.live := by
            rw [hg, hs2]; simp only [hr]; rfl
          rw [hlive, if_pos hl]
      | some x =>
        simp only []
        have nohand : ∀ (u : State), FaultHeld u.g.r f pc → FaultReceived s u f pc := by
          intro u hu
          refine ⟨hu, fun h => absurd h hd, ?_, fun _ hp => (notproc hp).elim⟩
          intro h' _ _ _ g1 _ _ g2 g3
          rw [← hff g1 g2, hf] at g3; simp at g3
        split
        · apply nohand; rw [hs2]; exact held _ rfl rfl rfl rfl
        · apply nohand; rw [ep.1, hs2]; exact held _ rfl rfl rfl rfl
    · rename_i hc
      refine ⟨by rw [ep.1, hs2]; exact held _ rfl rfl rfl rfl, fun h => absurd h hd, ?_, fun _ _ => ?_⟩
      · intro h' _ hh hi g1 g2 g3 _ _
        exfalso; apply hc
        have : Cause.toHandler f.cause = true := by
          revert g1 g2 g3; cases f.cause <;> simp [Cause.toHandler]
        rw [hh, hi, this]; rfl
      · rw [ep.1]
        refine ⟨rfl, ?_⟩
        have := ep.2
        have hctx : s2.g.p.ctx = s.g.p.ctx := by rw [hs2]; simp only [eg]
        rwa [hctx] at this

/-- The counter of a cause, whatever the trace holds. -/
theorem State.countFault_trace (s : State) (tr : Trace) (c : Cause) :
    (({ s with trace := tr } : State).countFault c).mem = (s.countFault c).mem := by
  cases c
  case mchk => show (State.countRel _ 3 1).mem = (State.countRel s 3 1).mem; rw [State.countRel_mem, State.countRel_mem]
  case check => show (State.countRel _ 5 1).mem = (State.countRel s 5 1).mem; rw [State.countRel_mem, State.countRel_mem]
  all_goals rfl

/-- What a fault leaves alone. -/
theorem State.takeTrap_frame (s : State) (f : Trap) (pc : Nat) : FaultFrame s (s.takeTrap f pc) f pc := by
  have e0 := State.emit_eq s 0x0A (causeCode f.cause + (pc / 2 % 2 ^ 56) * 2 ^ 8 + f.va % 2 ^ 64 * 2 ^ 64)
  unfold State.takeTrap
  generalize s.emit 0x0A (causeCode f.cause + (pc / 2 % 2 ^ 56) * 2 ^ 8 + f.va % 2 ^ 64 * 2 ^ 64) = s0 at *
  obtain ⟨tr, rfl⟩ : ∃ tr, s0 = { s with trace := tr } := ⟨_, e0⟩
  have ec := State.countFault_eq { s with trace := tr } f.cause
  have em := State.countFault_trace s tr f.cause
  have en : f.cause ≠ .mchk → (f.cause = .check → s.relcount = 0) →
      ({ s with trace := tr } : State).countFault f.cause = { s with trace := tr } :=
    fun h1 h2 => State.countFault_none h1 h2
  have ew : ∃ tr', ({ s with trace := tr } : State).countFault f.cause =
      ({ s with trace := tr' } : State).countFault f.cause := ⟨tr, rfl⟩
  obtain ⟨tr', ew⟩ := ew
  generalize ({ s with trace := tr } : State).countFault f.cause = c at *
  obtain ⟨q, eg⟩ : ∃ q, c.g = { s.g with pend := q } := ⟨c.g.pend, by rw [ec]⟩
  simp only []
  by_cases hd : s.debugged = true
  · rw [if_pos hd]
    refine ⟨?_, ?_, fun _ => ⟨?_, ?_, ?_, em, fun h1 h2 => ?_⟩, fun h => absurd ?_ h⟩
    all_goals first
      | (rw [en h1 h2])
      | (simp only [eg, Regs.setFault])
  · rw [if_neg hd]
    generalize hs2 : ({ c with g := { c.g with r := c.g.r.setFault f pc, pend := .idle, kept := none, stall := .none } } :
        State) = s2
    have hs2 := hs2.symm
    have ended : FaultFrame s s2.endProcess f pc := by
      have g2 : s2.endProcess.g = { s2.g with pend := .idle, kept := none, stall := .fault } := rfl
      refine ⟨?_, ?_, fun _ => ⟨?_, ?_, ?_, ?_, fun h1 h2 => ?_⟩, fun h => absurd ?_ h⟩
      case refine_6 => rw [← em, hs2]; rfl
      case refine_7 => rw [hs2, en h1 h2]; rfl
      all_goals first
        | (simp only [hs2, eg, Regs.setFault]; done)
        | (simp only [g2, hs2, eg, Regs.setFault]; rfl)
    split
    · rename_i hc
      simp only [Bool.and_eq_true, Bool.not_eq_true'] at hc
      unfold State.enterHandler
      split
      · exact ended
      · split
        · obtain ⟨q', p', m', hg⟩ : ∃ q' p' m', (s2.g.r.live.foldl State.writeFrame s2).g =
            { s2.g with pend := q', priv := p', privPoison := m' } := ⟨_, _, _, State.writeFrames_g s2 s2.g.r.live⟩
          have hlive : s2.g.r.live = s.g.r.live := by rw [hs2]; simp only [eg]; rfl
          obtain ⟨s3, h3⟩ : ∃ s3, s3 = s2.g.r.live.foldl State.writeFrame s2 := ⟨_, rfl⟩
          rw [← h3] at hg ⊢
          refine ⟨?_, ?_, fun h => ?_, fun _ => ⟨tr', ?_⟩⟩
          · simp only []; rw [Regs.moveTo_eq]; simp only [hg, hs2, eg, Regs.setFault]
          · simp only [hg, hs2, eg]
          · simp only [hc.1.2] at h; exact absurd h (by decide)
          · simp only []
            rw [← ew, ← hlive, ← hs2, ← h3]; exact ⟨rfl, rfl, rfl, rfl, rfl⟩
        · split
          · refine ⟨?_, ?_, fun _ => ⟨?_, ?_, ?_, ?_, fun h1 h2 => ?_⟩, fun h => absurd ?_ h⟩
            case refine_6 => rw [← em, hs2]
            case refine_7 => rw [hs2, en h1 h2]
            all_goals first
              | (simp only [hs2, eg, Regs.setFault]; done)
              | (simp only [hs2, eg, Regs.setFault]; rfl)
          · exact ended
    · exact ended

/-- R169 to R171: taking a fault. -/
theorem State.takeTrap_faulted (s : State) (f : Trap) (pc : Nat) : Faulted s (s.takeTrap f pc) f pc :=
  { toFaultReceived := State.takeTrap_received s f pc, toFaultFrame := State.takeTrap_frame s f pc }

end Sys2Proof.Machine
end

