-- ==== Sys2Proof/Laws/Vector.lean ====
section
/-! SUPPORT. What a form that writes one v register in the active lanes, or one k register, does. -/

namespace Sys2Proof.Machine
open Sys2Proof.Num

theorem wide_iff (ty : BitVec 4) : wideTy ty.toNat = true ↔ widthOf ty = 64 := by
  revert ty; decide

theorem width_le (ty : BitVec 4) : widthOf ty ≤ 32 ∨ widthOf ty = 64 := by
  revert ty; decide

theorem tyWidth_eq {ty : BitVec 4} (h : ty ≠ 15#4) : tyWidth ty.toNat = widthOf ty := by
  revert ty; decide

/-- A lane's element is its value at the type's width. -/
theorem Regs.elem_eq (r : Regs) {ty : BitVec 4} (h : ty ≠ 15#4) (reg l : Nat) :
    r.elem ty.toNat reg l = (r.value ty reg l).toNat := by
  unfold Regs.elem Regs.value
  by_cases hw : widthOf ty = 64
  · rw [if_pos ((wide_iff ty).2 hw), if_pos hw, BitVec.toNat_setWidth, hw, Nat.mod_eq_of_lt (BitVec.isLt _)]
  · have : wideTy ty.toNat = false := by
      cases hc : wideTy ty.toNat
      · rfl
      · exact absurd ((wide_iff ty).1 hc) hw
    rw [this, if_neg hw, tyWidth_eq h]; simp

/-- A code placed in a register of 32 bits, for every type (R38). -/
theorem extend32_eq {ty : BitVec 4} (h : ty ≠ 15#4) (hw : widthOf ty ≠ 64) (c : Nat) :
    BitVec.ofNat 32 (extendTo 32 ty.toNat c) = placed 32 (isSigned ty) (BitVec.ofNat (widthOf ty) c) := by
  by_cases ht : ty.toNat ≤ 7
  · exact extendTo_eq ht ((width_le ty).resolve_right hw) c
  · have hs : isSigned ty = false := by revert ty; decide
    have hs' : (ty.toNat == 0 || ty.toNat == 2 || ty.toNat == 4 || ty.toNat == 6) = false := hs
    unfold extendTo placed
    rw [hs, hs', tyWidth_eq h]
    apply BitVec.eq_of_toNat_eq; simp

/-- Writing an element to each active lane: what the lanes hold, and what the write leaves alone. -/
theorem Regs.setElems_spec {r r' : Regs} {ty : BitVec 4} {g : BitVec 4} {d : Nat} {f : Nat → Nat} (ht : ty ≠ 15#4)
    (h : r' = { r.setElems ty.toNat d ((r.active g).map fun l => (l, f l)) with pcv := r'.pcv }) :
    OnlyV r r' (vRegs ty d) (r.active g) ∧
      ∀ l ∈ r.active g, r'.holds ty d l (BitVec.ofNat _ (f l)) := by
  have hv : ∀ i l, l < 32 → r'.getV i l =
      (r.setElems ty.toNat d ((r.active g).map fun l => (l, f l))).getV i l := fun i l _ => by rw [h]; rfl
  have hf : r' = { r with pcv := r'.pcv, v := r'.v } := by rw [h, Regs.setElems_eq]
  clear h
  have hg : ∀ i l, l < 32 → r'.getV i l = _ := fun i l hl =>
    (hv i l hl).trans (Regs.getV_setElems r ty.toNat d f _ (fun _ => Regs.active_lt) hl)
  clear hv
  refine ⟨⟨hf, ?_⟩, ?_⟩
  clear hf
  · intro i l hl hi
    rw [hg i l hl]
    by_cases hw : widthOf ty = 64
    · have hwide := (wide_iff ty).2 hw
      simp only [vRegs, hw, if_true, List.mem_cons, List.not_mem_nil, or_false] at hi
      by_cases hm : l ∈ r.active g <;> by_cases h1 : i = d <;> by_cases h2 : i = d + 1 <;> simp_all
    · have hwide : wideTy ty.toNat = false := by
        cases hc : wideTy ty.toNat
        · rfl
        · exact absurd ((wide_iff ty).1 hc) hw
      simp only [vRegs, hw, if_false, List.mem_cons, List.not_mem_nil, or_false] at hi
      by_cases hm : l ∈ r.active g <;> by_cases h1 : i = d <;> simp_all
  · intro l hl
    have hlt := Regs.active_lt hl
    unfold Regs.holds
    by_cases hw : widthOf ty = 64
    · have hwide := (wide_iff ty).2 hw
      rw [if_pos hw]
      unfold Regs.getV64
      rw [hg _ l hlt, hg _ l hlt]
      simp only [hl, hwide, true_and, and_self, if_true, Nat.succ_ne_self, if_false]
      have hs : (BitVec.ofNat (widthOf ty) (f l)).setWidth 64 = BitVec.ofNat 64 (f l) := by
        apply BitVec.eq_of_toNat_eq; simp only [BitVec.toNat_setWidth, BitVec.toNat_ofNat, hw, Nat.mod_mod]
      rw [hs]
      generalize BitVec.ofNat 64 (f l) = x
      apply BitVec.eq_of_getLsbD_eq
      intro i hi
      rw [BitVec.getLsbD_append]
      by_cases h32 : i < 32
      · simp [h32]
      · simp [h32, show i - 32 < 32 by omega, show 32 + (i - 32) = i by omega]
    · have hwide : wideTy ty.toNat = false := by
        cases hc : wideTy ty.toNat
        · rfl
        · exact absurd ((wide_iff ty).1 hc) hw
      rw [if_neg hw, hg _ l hlt]
      simp only [hl, hwide, true_and, if_true]
      exact extend32_eq ht hw _

/-- Under lane check an effect is performed when no recomputation differs (R34). -/
theorem State.checked_ok {s : State} {act : List Nat} (h : s.laneDiffs act = []) (f : Regs → Regs) :
    s.checked act f = .ok (s.mapR f) := by simp [State.checked, h]

/-- Without a difference, lane check changes nothing of an issue. -/
theorem State.vec_ready {s : State} {g : BitVec 4} {srcs : List Nat} (h : s.ReadyV g srcs) (e : RegEff) :
    s.vec g srcs e = s.issueRegs g srcs e := by
  rw [State.vec, State.issueRegs, State.issue_ok h.toReady (State.checked_ok h.agree _), State.issue_ok h.toReady rfl]

/-- An effect that writes elements of a type to the active lanes of one register. -/
theorem State.vec_writesV {s : State} {g : BitVec 4} {srcs : List Nat} {ty : BitVec 4} {d : BitVec 12} {e : RegEff}
    {f : List Nat → (Nat → BitVec 64) → Regs → Nat → Nat} {v : Nat → BitVec (widthOf ty)} (h : s.ReadyV g srcs)
    (ht : ty ≠ 15#4) (he : ∀ act rd r, e act rd r = r.setElems ty.toNat d.toNat (act.map fun l => (l, f act rd r l)))
    (hv : ∀ rd, (∀ r ∈ srcs, rd r = s.source r) → ∀ l ∈ s.g.r.active g,
      BitVec.ofNat _ (f (s.g.r.active g) rd s.g.r l) = v l) :
    ∃ t, (.next (s.vec g srcs e) : Out) = .next t ∧ WritesV s t srcs g ty d v := by
  obtain ⟨t, rd, h1, h2, h3, h4⟩ := State.issueRegs_spec (f := e) h.toReady (by simp [he])
  rw [he] at h4
  obtain ⟨h5, h6⟩ := Regs.setElems_spec ht h4
  refine ⟨t, by rw [State.vec_ready h, h1], h2, h5, fun l hl => ?_⟩
  have := h6 l hl
  rwa [hv rd h3 l hl] at this

/-- An effect that writes a bit of one k register in each active lane. -/
theorem State.vec_writesK {s : State} {g : BitVec 4} {srcs : List Nat} {d : BitVec 12} {e : RegEff}
    {f : List Nat → (Nat → BitVec 64) → Regs → Nat → Bool} {v : Nat → Bool} (h : s.ReadyV g srcs)
    (he : ∀ act rd r, e act rd r = r.setKBits d.toNat (act.map fun l => (l, f act rd r l)))
    (hv : ∀ rd, (∀ r ∈ srcs, rd r = s.source r) → ∀ l ∈ s.g.r.active g, f (s.g.r.active g) rd s.g.r l = v l) :
    ∃ t, (.next (s.vec g srcs e) : Out) = .next t ∧ WritesK s t srcs g d v := by
  obtain ⟨t, rd, h1, h2, h3, h4⟩ := State.issueRegs_spec (f := e) h.toReady (by simp [he])
  rw [he] at h4
  have hk : ∀ i, t.g.r.getK i =
      (s.g.r.setKBits d.toNat ((s.g.r.active g).map fun l => (l, f (s.g.r.active g) rd s.g.r l))).getK i :=
    fun i => by rw [h4]; rfl
  have hd : d.toNat = 0 ↔ d = 0#12 := by rw [← BitVec.toNat_inj]; simp
  refine ⟨t, by rw [State.vec_ready h, h1], h2, ⟨by rw [h4, Regs.setKBits_eq], fun i hi => ?_, fun l hl hn => ?_⟩,
    fun l hl => ?_⟩
  · rw [hk]; exact Regs.getK_setKBits_ne _ _ hi
  · by_cases h0 : d.toNat = 0
    · rw [h0]; rfl
    · rw [hk]
      exact (Regs.getLsbD_setKBits _ _ _ _ _ h0 (fun _ => Regs.active_lt) hl).trans (by rw [if_neg hn])
  · have hlt := Regs.active_lt hl
    by_cases h0 : d.toNat = 0
    · rw [h0, decide_eq_true (hd.1 h0), Bool.true_or, Regs.getK_zero, BitVec.getLsbD_allOnes, decide_eq_true hlt]
    · rw [hk, decide_eq_false fun e => h0 (hd.2 e), Bool.false_or, ← hv rd h3 l hl]
      exact (Regs.getLsbD_setKBits _ _ _ _ _ h0 (fun _ => Regs.active_lt) hlt).trans (by rw [if_pos hl])

end Sys2Proof.Machine
end

