-- ==== Sys2Proof/Tests/Slice0.lean ====
section
/-! SUPPORT. Tests of the model: the checks of R67 refuse an ill-formed term each, words written out from the spec's
encodings decode to their instructions, single steps give the spec's results, and for each statement with hypotheses
a state and operands meet all of them. Expected values are worked out from the spec's rules. -/

namespace Sys2Proof.Tests

open Sys2Proof Sys2Proof.Machine

set_option Elab.async false

/-- R70, R72, R76: words of the three-register scalar forms. -/
theorem test_decode_scalar :
    decodeWords 0x001005006FFA0043#64 0#64 = .add ⟨1, 5, 6, 4090, 0, 4, 3⟩ ∧
    decodeWords 0x011005006FFA0053#64 0#64 = .sub ⟨1, 5, 6, 4090, 0, 5, 3⟩ ∧
    decodeWords 0x021005006FFA0063#64 0#64 = .mul ⟨1, 5, 6, 4090, 0, 6, 3⟩ ∧
    decodeWords 0x031005006FFA0073#64 0#64 = .mulh ⟨1, 5, 6, 4090, 0, 7, 3⟩ ∧
    decodeWords 0x041005006FFA0043#64 0#64 = .div ⟨1, 5, 6, 4090, 0, 4, 3⟩ ∧
    decodeWords 0x051005006FFA0053#64 0#64 = .rem ⟨1, 5, 6, 4090, 0, 5, 3⟩ ∧
    decodeWords 0x061005006FFA0063#64 0#64 = .and ⟨1, 5, 6, 4090, 0, 6, 3⟩ ∧
    decodeWords 0x071005006FFA0073#64 0#64 = .or ⟨1, 5, 6, 4090, 0, 7, 3⟩ ∧
    decodeWords 0x081005006FFA0043#64 0#64 = .xor ⟨1, 5, 6, 4090, 0, 4, 3⟩ ∧
    decodeWords 0x091005006FFA0053#64 0#64 = .andn ⟨1, 5, 6, 4090, 0, 5, 3⟩ ∧
    decodeWords 0x0A1005006FFA0063#64 0#64 = .shl ⟨1, 5, 6, 4090, 0, 6, 3⟩ ∧
    decodeWords 0x0B1005006FFA0073#64 0#64 = .shr ⟨1, 5, 6, 4090, 0, 7, 3⟩ ∧
    decodeWords 0x0C1005006FFA0043#64 0#64 = .sar ⟨1, 5, 6, 4090, 0, 4, 3⟩ ∧
    decodeWords 0x0D1005006FFA0053#64 0#64 = .rot ⟨1, 5, 6, 4090, 0, 5, 3⟩ ∧
    decodeWords 0x0E1005006FFA0063#64 0#64 = .min ⟨1, 5, 6, 4090, 0, 6, 3⟩ ∧
    decodeWords 0x0F1005006FFA0073#64 0#64 = .max ⟨1, 5, 6, 4090, 0, 7, 3⟩ := by
  and_intros <;> rfl

/-- R70, R72, R76: words of the other scalar forms. -/
theorem test_decode_scalar_forms :
    decodeWords 0x1000040050060570#64 0#64 = .set ⟨0, 4, 5, 6, 5, 7, 0⟩ ∧
    decodeWords 0x1120040050000050#64 0#64 = .clz ⟨2, 4, 5, 0, 0, 5, 0⟩ ∧
    decodeWords 0x1120040050000160#64 0#64 = .ctz ⟨2, 4, 5, 0, 1, 6, 0⟩ ∧
    decodeWords 0x1120040050000270#64 0#64 = .popc ⟨2, 4, 5, 0, 2, 7, 0⟩ ∧
    decodeWords 0x1200010020030045#64 0#64 = .bfx ⟨0, 1, 2, 3, 4, 5⟩ ∧
    decodeWords 0x1300010020030046#64 0#64 = .bfi ⟨0, 1, 2, 3, 4, 6⟩ ∧
    decodeWords 0x1400010020030047#64 0#64 = .sel ⟨0, 1, 2, 3, 4, 7⟩ ∧
    decodeWords 0x159001002FFFFF06#64 0#64 = .addi ⟨9, 1, 2, 1048575, 0, 6⟩ ∧
    decodeWords 0x1600010021234524#64 0#64 = .logi ⟨0, 1, 2, 74565, 2, 4⟩ ∧
    decodeWords 0x1600030040003F46#64 0#64 = .shi ⟨0, 3, 4, 63, 4, 6⟩ ∧
    decodeWords 0x1700050008000000#64 0#64 = .lih ⟨0, 5, 0, 524288, 0, 0⟩ ∧
    decodeWords 0x1700050000000110#64 0#64 = .addpc ⟨0, 5, 0, 1, 1, 0⟩ ∧
    decodeWords 0x17000F0070467920#64 0#64 = .nset ⟨0, 15, 7, 18041, 2, 0⟩ ∧
    decodeWords 0x17000700F0000030#64 0#64 = .nget ⟨0, 7, 15, 0, 3, 0⟩ := by
  and_intros <;> rfl

/-- R70, R72, R76: words of the vector integer forms. -/
theorem test_decode_vector :
    decodeWords 0x18300800A00C0000#64 0#64 = .vadd ⟨3, 8, 10, 12, 0, 0, 0⟩ ∧
    decodeWords 0x19300800A00C0010#64 0#64 = .vsub ⟨3, 8, 10, 12, 0, 1, 0⟩ ∧
    decodeWords 0x1A300800A00C0020#64 0#64 = .vmul ⟨3, 8, 10, 12, 0, 2, 0⟩ ∧
    decodeWords 0x1B300800A00C0030#64 0#64 = .vmulh ⟨3, 8, 10, 12, 0, 3, 0⟩ ∧
    decodeWords 0x1D300800A00C0040#64 0#64 = .vmin ⟨3, 8, 10, 12, 0, 4, 0⟩ ∧
    decodeWords 0x1E300800A00C0050#64 0#64 = .vmax ⟨3, 8, 10, 12, 0, 5, 0⟩ ∧
    decodeWords 0x1C300800A00C00E6#64 0#64 = .vmad ⟨3, 8, 10, 12, 14, 6⟩ ∧
    decodeWords 0x1F300800A0000060#64 0#64 = .vabs ⟨3, 8, 10, 0, 0, 6, 0⟩ ∧
    decodeWords 0x20000800A00C0040#64 0#64 = .vand ⟨0, 8, 10, 12, 0, 4, 0⟩ ∧
    decodeWords 0x21000800A00C0040#64 0#64 = .vor ⟨0, 8, 10, 12, 0, 4, 0⟩ ∧
    decodeWords 0x22000800A00C0040#64 0#64 = .vxor ⟨0, 8, 10, 12, 0, 4, 0⟩ ∧
    decodeWords 0x23000800A0000070#64 0#64 = .vnot ⟨0, 8, 10, 0, 0, 7, 0⟩ ∧
    decodeWords 0x24000800A00B0060#64 0#64 = .vshl ⟨0, 8, 10, 11, 0, 6, 0⟩ ∧
    decodeWords 0x25000800A00B0060#64 0#64 = .vshr ⟨0, 8, 10, 11, 0, 6, 0⟩ ∧
    decodeWords 0x26000800A00B0060#64 0#64 = .vsar ⟨0, 8, 10, 11, 0, 6, 0⟩ := by
  and_intros <;> rfl

/-- R70, R72, R76: words of the other vector forms. -/
theorem test_decode_vector_forms :
    decodeWords 0x27000800A00B00D6#64 0#64 = .vbfx ⟨0, 8, 10, 11, 13, 6⟩ ∧
    decodeWords 0x28000800A00B00D7#64 0#64 = .vbfi ⟨0, 8, 10, 11, 13, 7⟩ ∧
    decodeWords 0x29000900A0000060#64 0#64 = .vclz ⟨0, 9, 10, 0, 0, 6, 0⟩ ∧
    decodeWords 0x29000900A0000140#64 0#64 = .vpopc ⟨0, 9, 10, 0, 1, 4, 0⟩ ∧
    decodeWords 0x2A000700900B0510#64 0#64 = .vcmp ⟨0, 7, 9, 11, 5, 1, 0⟩ ∧
    decodeWords 0x2B000800A00C007B#64 0#64 = .vsel ⟨0, 8, 10, 12, 7, 11⟩ ∧
    decodeWords 0x2C000800A00000A0#64 0#64 = .vmov ⟨0, 8, 10, 0, 0, 10, 0⟩ ∧
    decodeWords 0x2C0009FFF0000140#64 0#64 = .vbcast ⟨0, 9, 4095, 0, 1, 4, 0⟩ ∧
    decodeWords 0x2C00090050060250#64 0#64 = .viota ⟨0, 9, 5, 6, 2, 5, 0⟩ ∧
    decodeWords 0x2D000900A00B00C1#64 0#64 = .vdot4 ⟨0, 9, 10, 11, 12, 1⟩ ∧
    decodeWords 0x2E00070060050300#64 0#64 = .kop ⟨0, 7, 6, 5, 3, 0, 0⟩ ∧
    decodeWords 0x2F00630070000000#64 0#64 = .kmovTos ⟨0, 99, 7, 0, 0, 0, 0⟩ ∧
    decodeWords 0x2F00070630000100#64 0#64 = .kmovFroms ⟨0, 7, 99, 0, 1, 0, 0⟩ := by
  and_intros <;> rfl

/-- R70, R72, R76: words of the floating-point forms. -/
theorem test_decode_float :
    decodeWords 0x30000800A00C0080#64 0#64 = .vfadd ⟨0, 8, 10, 12, 0, 8, 0⟩ ∧
    decodeWords 0x31000800A00C0090#64 0#64 = .vfsub ⟨0, 8, 10, 12, 0, 9, 0⟩ ∧
    decodeWords 0x32000800A00C00A0#64 0#64 = .vfmul ⟨0, 8, 10, 12, 0, 10, 0⟩ ∧
    decodeWords 0x33300800900A008A#64 0#64 = .vfma ⟨3, 8, 9, 10, 8, 10⟩ ∧
    decodeWords 0x34000800A00C01B0#64 0#64 = .vfmin ⟨0, 8, 10, 12, 1, 11, 0⟩ ∧
    decodeWords 0x35000800A00C0090#64 0#64 = .vfmax ⟨0, 8, 10, 12, 0, 9, 0⟩ ∧
    decodeWords 0x36000700A00C07A0#64 0#64 = .vfcmp ⟨0, 7, 10, 12, 7, 10, 0⟩ ∧
    decodeWords 0x37000800A00C00A0#64 0#64 = .vfdiv ⟨0, 8, 10, 12, 0, 10, 0⟩ ∧
    decodeWords 0x38000800A00000B0#64 0#64 = .vfsqrt ⟨0, 8, 10, 0, 0, 11, 0⟩ ∧
    decodeWords 0x39000800A0000080#64 0#64 = .vrcp ⟨0, 8, 10, 0, 0, 8, 0⟩ ∧
    decodeWords 0x3A000800A0000090#64 0#64 = .vrsq ⟨0, 8, 10, 0, 0, 9, 0⟩ ∧
    decodeWords 0x3B000800A00000A0#64 0#64 = .vexp2 ⟨0, 8, 10, 0, 0, 10, 0⟩ ∧
    decodeWords 0x3C000800A0000080#64 0#64 = .vlog2 ⟨0, 8, 10, 0, 0, 8, 0⟩ ∧
    decodeWords 0x3D000800A0000090#64 0#64 = .vsin ⟨0, 8, 10, 0, 0, 9, 0⟩ ∧
    decodeWords 0x3E000800A00000A0#64 0#64 = .vcos ⟨0, 8, 10, 0, 0, 10, 0⟩ ∧
    decodeWords 0x3F000800A0000080#64 0#64 = .vtanh ⟨0, 8, 10, 0, 0, 8, 0⟩ := by
  and_intros <;> rfl

/-- R70, R72, R76: words of conversions and lane forms. -/
theorem test_decode_convert :
    decodeWords 0x40000800A00005A0#64 0#64 = .vround ⟨0, 8, 10, 0, 5, 10, 0⟩ ∧
    decodeWords 0x410014015000A2C0#64 0#64 = .vcvt ⟨0, 20, 21, 0, 162, 12, 0⟩ ∧
    decodeWords 0x42000800900AA8C0#64 0#64 = .vpack ⟨0, 8, 9, 10, 168, 12, 0⟩ ∧
    decodeWords 0x4300080090000CA0#64 0#64 = .vunpack ⟨0, 8, 9, 0, 12, 10, 0⟩ ∧
    decodeWords 0x44000800900A00A0#64 0#64 = .vscale ⟨0, 8, 9, 10, 0, 10, 0⟩ ∧
    decodeWords 0x48000800900A00A0#64 0#64 = .vperm ⟨0, 8, 9, 10, 0, 10, 0⟩ ∧
    decodeWords 0x49000800900A0240#64 0#64 = .vshfl ⟨0, 8, 9, 10, 2, 4, 0⟩ ∧
    decodeWords 0x4A00080090000530#64 0#64 = .vred ⟨0, 8, 9, 0, 5, 3, 0⟩ ∧
    decodeWords 0x4B00060070000040#64 0#64 = .vscan ⟨0, 6, 7, 0, 0, 4, 0⟩ ∧
    decodeWords 0x4C00060070000200#64 0#64 = .vvote ⟨0, 6, 7, 0, 2, 0, 0⟩ ∧
    decodeWords 0x4D101E01F0090200#64 0#64 = .vpart ⟨1, 30, 31, 9, 2, 0, 0⟩ := by
  and_intros <;> rfl

/-- R70, R72, R76: words of loads, stores and cache forms. -/
theorem test_decode_memory :
    decodeWords 0x50000C0050102311#64 0#64 = .ld ⟨0, 12, 5, 16, 2, 3, 1, 0, 1⟩ ∧
    decodeWords 0x51000C0050102313#64 0#64 = .ldi ⟨0, 12, 5, 16, 2, 3, 1, 1, 1⟩ ∧
    decodeWords 0x52000C0050102315#64 0#64 = .st ⟨0, 12, 5, 16, 2, 3, 1, 2, 1⟩ ∧
    decodeWords 0x53000C0050102317#64 0#64 = .sti ⟨0, 12, 5, 16, 2, 3, 1, 3, 1⟩ ∧
    decodeWords 0x54000C0050102319#64 0#64 = .vld ⟨0, 12, 5, 16, 2, 3, 1, 4, 1⟩ ∧
    decodeWords 0x55000C0050102311#64 0#64 = .vldi ⟨0, 12, 5, 16, 2, 3, 1, 0, 1⟩ ∧
    decodeWords 0x56000C0050102313#64 0#64 = .vst ⟨0, 12, 5, 16, 2, 3, 1, 1, 1⟩ ∧
    decodeWords 0x57000C0050102315#64 0#64 = .vsti ⟨0, 12, 5, 16, 2, 3, 1, 2, 1⟩ ∧
    decodeWords 0x58000C0050102317#64 0#64 = .vldc ⟨0, 12, 5, 16, 2, 3, 1, 3, 1⟩ ∧
    decodeWords 0x59000C0050102319#64 0#64 = .vstc ⟨0, 12, 5, 16, 2, 3, 1, 4, 1⟩ ∧
    decodeWords 0x5A00000050102300#64 0#64 = .pld ⟨0, 0, 5, 16, 2, 3, 0, 0, 0⟩ ∧
    decodeWords 0x5B00000050102300#64 0#64 = .cwb ⟨0, 0, 5, 16, 2, 3, 0, 0, 0⟩ ∧
    decodeWords 0x5C00000050102300#64 0#64 = .cinv ⟨0, 0, 5, 16, 2, 3, 0, 0, 0⟩ := by
  and_intros <;> rfl

/-- R70, R72, R76: words of control transfers and waits. -/
theorem test_decode_control :
    decodeWords 0x600000FFFFFFF800#64 0#64 = .br ⟨0, 0, 4294967288, 0⟩ ∧
    decodeWords 0x6110050000001003#64 0#64 = .brc ⟨1, 5, 16, 3⟩ ∧
    decodeWords 0x6210070000001001#64 0#64 = .brk ⟨1, 7, 16, 1⟩ ∧
    decodeWords 0x6310000080000100#64 0#64 = .jmpi ⟨1, 0, 8, 0, 1, 0, 0⟩ ∧
    decodeWords 0x6400280000004000#64 0#64 = .call ⟨0, 40, 64, 0⟩ ∧
    decodeWords 0x6500280060000000#64 0#64 = .calli ⟨0, 40, 6, 0, 0, 0, 0⟩ ∧
    decodeWords 0x6600000280000000#64 0#64 = .ret ⟨0, 0, 40, 0, 0, 0, 0⟩ ∧
    decodeWords 0x6790000000000000#64 0#64 = .exit ⟨9, 0, 0, 0, 0, 0, 0⟩ ∧
    decodeWords 0x680001FFFFFFFF00#64 0#64 = .loop ⟨0, 1, 4294967295, 0⟩ ∧
    decodeWords 0x6900030000000200#64 0#64 = .lbrk ⟨0, 3, 2, 0⟩ ∧
    decodeWords 0x6A00000000000C00#64 0#64 = .waitt ⟨0, 0, 0, 12, 0, 0⟩ ∧
    decodeWords 0x6B00000000000000#64 0#64 = .yield ⟨0, 0, 0, 0, 0, 0, 0⟩ ∧
    decodeWords 0x6C00000000000000#64 0#64 = .nop ⟨0, 0, 0, 0, 0, 0, 0⟩ := by
  and_intros <;> rfl

/-- R70, R72, R76: words of special registers, services and queues. -/
theorem test_decode_system :
    decodeWords 0x7000050000001100#64 0#64 = .srd ⟨0, 5, 0, 17, 0, 0⟩ ∧
    decodeWords 0x7100000060002100#64 0#64 = .swr ⟨0, 0, 6, 33, 0, 0⟩ ∧
    decodeWords 0x7200000005432100#64 0#64 = .trap ⟨0, 0, 0, 344865, 0, 0⟩ ∧
    decodeWords 0x7300000000000000#64 0#64 = .tret ⟨0, 0, 0, 0, 0, 0, 0⟩ ∧
    decodeWords 0x7400000000000700#64 0#64 = .bkpt ⟨0, 0, 0, 7, 0, 0⟩ ∧
    decodeWords 0x7500000000000000#64 0#64 = .svcVersion ⟨0, 0, 0, 0, 0, 0⟩ ∧
    decodeWords 0x7500000000000100#64 0#64 = .svcAbort ⟨0, 0, 0, 1, 0, 0⟩ ∧
    decodeWords 0x7500000000000200#64 0#64 = .svcPrivsize ⟨0, 0, 0, 2, 0, 0⟩ ∧
    decodeWords 0x7500000000000300#64 0#64 = .svcDebugged ⟨0, 0, 0, 3, 0, 0⟩ ∧
    decodeWords 0x7500000000000400#64 0#64 = .svcSleep ⟨0, 0, 0, 4, 0, 0⟩ ∧
    decodeWords 0x75000000007FFF00#64 0#64 = .svcUnknown ⟨0, 0, 0, 32767, 0, 0⟩ ∧
    decodeWords 0x7500000000800000#64 0#64 = .svcHelper ⟨0, 0, 0, 32768, 0, 0⟩ ∧
    decodeWords 0x7600000050060000#64 0#64 = .icinv ⟨0, 0, 5, 6, 0, 0, 0⟩ ∧
    decodeWords 0x7700000000000000#64 0#64 = .synci ⟨0, 0, 0, 0, 0, 0, 0⟩ ∧
    decodeWords 0x78000000500F3F00#64 0#64 = .send ⟨0, 0, 5, 15, 63, 0, 0⟩ ∧
    decodeWords 0x7900070000003F00#64 0#64 = .qbind ⟨0, 7, 0, 63, 0, 0⟩ ∧
    decodeWords 0x7900070000000010#64 0#64 = .qbindUn ⟨0, 7, 0, 0, 1, 0⟩ ∧
    decodeWords 0x7A0000005ABCDE00#64 0#64 = .pmark ⟨0, 0, 5, 703710, 0, 0⟩ := by
  and_intros <;> rfl

/-- R70, R72, R76: words of the long memory forms. -/
theorem test_decode_long :
    decodeWords 0x80000A0090002006#64 0x8800000000000040#64 = .ldo ⟨0, 10, 9, 0, 2, 0, 0, 3, 0⟩ ⟨4, 1, 0, 0, 64⟩ ∧
    decodeWords 0x81000A0090000206#64 0x9000000000000040#64 = .sto ⟨0, 10, 9, 0, 0, 2, 0, 3, 0⟩ ⟨4, 2, 0, 0, 64⟩ ∧
    decodeWords 0x82000C0090080209#64 0xA8000007FFFFFFFF#64 = .vldo ⟨0, 12, 9, 8, 0, 2, 0, 4, 1⟩ ⟨5, 1, 0, 0, 34359738367⟩ ∧
    decodeWords 0x83000C0090080204#64 0x0000000000000000#64 = .vsto ⟨0, 12, 9, 8, 0, 2, 0, 2, 0⟩ ⟨0, 0, 0, 0, 0⟩ ∧
    decodeWords 0x84000C0090081204#64 0x7026800000000010#64 = .stf ⟨0, 12, 9, 8, 1, 2, 0, 2, 0⟩ ⟨3, 2, 77, 0, 16⟩ ∧
    decodeWords 0x85000A009008120A#64 0x2007801800000000#64 = .acp ⟨0, 10, 9, 8, 1, 2, 0, 5, 0⟩ ⟨1, 0, 15, 3, 0⟩ ∧
    decodeWords 0x8600000090081200#64 0x0016400000000000#64 = .bpf ⟨0, 0, 9, 8, 1, 2, 0, 0, 0⟩ ⟨0, 0, 44, 2048, 0⟩ ∧
    decodeWords 0x87000C0090081207#64 0x4807000000000008#64 = .nld ⟨0, 12, 9, 8, 1, 2, 0, 3, 1⟩ ⟨2, 1, 14, 0, 8⟩ ∧
    decodeWords 0x88000C0090081201#64 0x5007000000000008#64 = .nst ⟨0, 12, 9, 8, 1, 2, 0, 0, 1⟩ ⟨2, 2, 14, 0, 8⟩ ∧
    decodeWords 0x9000140060070005#64 0x200A800000000000#64 = .fao ⟨0, 20, 6, 7, 0, 0, 0, 2, 1⟩ ⟨1, 0, 21, 0, 0⟩ ∧
    decodeWords 0x9100140060070006#64 0x980B004000000000#64 = .faor ⟨0, 20, 6, 7, 0, 0, 0, 3, 0⟩ ⟨4, 3, 22, 8, 0⟩ ∧
    decodeWords 0x92100101E0000008#64 0x8002850000000000#64 = .red ⟨1, 1, 30, 0, 0, 0, 0, 4, 0⟩ ⟨4, 0, 5, 160, 0⟩ ∧
    decodeWords 0x9300140060070006#64 0x380B00C000000000#64 = .cas ⟨0, 20, 6, 7, 0, 0, 0, 3, 0⟩ ⟨1, 3, 22, 24, 0⟩ ∧
    decodeWords 0x9400140150003000#64 0x900B000000000000#64 = .enq ⟨0, 20, 21, 0, 3, 0, 0, 0, 0⟩ ⟨4, 2, 22, 0, 0⟩ ∧
    decodeWords 0x9500140150003000#64 0x880B000000000000#64 = .deq ⟨0, 20, 21, 0, 3, 0, 0, 0, 0⟩ ⟨4, 1, 22, 0, 0⟩ ∧
    decodeWords 0x96000200C00E0006#64 0x8806802000000008#64 = .waitc ⟨0, 2, 12, 14, 0, 0, 0, 3, 0⟩ ⟨4, 1, 13, 4, 8⟩ ∧
    decodeWords 0x9700000000000000#64 0x900000000000FFFF#64 = .fence ⟨0, 0, 0, 0, 0, 0, 0⟩ ⟨4, 2, 0, 0, 65535⟩ ∧
    decodeWords 0x9800050060000008#64 0x2000000000000010#64 = .bari ⟨0, 5, 6, 0, 0, 0, 0, 4, 0⟩ ⟨1, 0, 0, 0, 16⟩ ∧
    decodeWords 0x9900050060000008#64 0x2000000000000010#64 = .bara ⟨0, 5, 6, 0, 0, 0, 0, 4, 0⟩ ⟨1, 0, 0, 0, 16⟩ ∧
    decodeWords 0x9A00000060000008#64 0x2003800000000010#64 = .barw ⟨0, 0, 6, 0, 0, 0, 0, 4, 0⟩ ⟨1, 0, 7, 0, 16⟩ := by
  and_intros <;> rfl

/-- R70, R72, R76: words of the tile forms. -/
theorem test_decode_tile :
    decodeWords 0xA000050000000000#64 0x800000000000000F#64 = .tld ⟨0, 5, 0, 0, 0, 0, 0⟩ ⟨4, 0, 0, 0, 15⟩ ∧
    decodeWords 0xA100050000000000#64 0x800000000000000F#64 = .tst ⟨0, 5, 0, 0, 0, 0, 0⟩ ⟨4, 0, 0, 0, 15⟩ ∧
    decodeWords 0xA2000C00D0000100#64 0x2000000000000002#64 = .tcp ⟨0, 12, 13, 0, 1, 0, 0⟩ ⟨1, 0, 0, 0, 2⟩ ∧
    decodeWords 0xA300050000000000#64 0x8000000000000003#64 = .wbld ⟨0, 5, 0, 0, 0, 0, 0⟩ ⟨4, 0, 0, 0, 3⟩ ∧
    decodeWords 0xA400140150000100#64 0x800000000007FFF5#64 = .tmma ⟨0, 20, 21, 0, 1, 0, 0⟩ ⟨4, 0, 0, 0, 524277⟩ ∧
    decodeWords 0xA5000C00D00E0300#64 0x8000000000000002#64 = .tscan ⟨0, 12, 13, 14, 3, 0, 0⟩ ⟨4, 0, 0, 0, 2⟩ ∧
    decodeWords 0xA600050000000300#64 0x0000000000000010#64 = .tzero ⟨0, 5, 0, 0, 3, 0, 0⟩ ⟨0, 0, 0, 0, 16⟩ ∧
    decodeWords 0xA700050000000200#64 0x0000000000000010#64 = .tacrd ⟨0, 5, 0, 0, 2, 0, 0⟩ ⟨0, 0, 0, 0, 16⟩ ∧
    decodeWords 0xA800050000000100#64 0x0000000000000010#64 = .tacwr ⟨0, 5, 0, 0, 1, 0, 0⟩ ⟨0, 0, 0, 0, 16⟩ ∧
    decodeWords 0xA900050060000600#64 0x0000000000000009#64 = .tred ⟨0, 5, 6, 0, 6, 0, 0⟩ ⟨0, 0, 0, 0, 9⟩ ∧
    decodeWords 0xAA00050060000300#64 0x0003800000000009#64 = .tew ⟨0, 5, 6, 0, 3, 0, 0⟩ ⟨0, 0, 7, 0, 9⟩ ∧
    decodeWords 0xAB0000006000D000#64 0x0000000000000000#64 = .tfmt ⟨0, 0, 6, 0, 208, 0, 0⟩ ⟨0, 0, 0, 0, 0⟩ ∧
    decodeWords 0xAC00000000000000#64 0x0000000000000000#64 = .tlease ⟨0, 0, 0, 0, 0, 0, 0⟩ ⟨0, 0, 0, 0, 0⟩ ∧
    decodeWords 0xAD00000000000100#64 0x0000000000000000#64 = .tfree ⟨0, 0, 0, 0, 1, 0, 0⟩ ⟨0, 0, 0, 0, 0⟩ ∧
    decodeWords 0xAE00050000000400#64 0x0000000000000007#64 = .tbmap ⟨0, 5, 0, 0, 4, 0, 0⟩ ⟨0, 0, 0, 0, 7⟩ ∧
    decodeWords 0xAF00000000000000#64 0x0000000000000005#64 = .trsm ⟨0, 0, 0, 0, 0, 0, 0⟩ ⟨0, 0, 0, 0, 5⟩ := by
  and_intros <;> rfl

/-- R70, R72, R76: words of hints and pairs. -/
theorem test_decode_hints :
    decodeWords 0xE0123456789ABCDE#64 0#64 = .hpf 0x123456789abcde#56 ∧
    decodeWords 0xE100000000000001#64 0#64 = .hbr 0x1#56 ∧
    decodeWords 0xE200000000000002#64 0#64 = .hhot 0xe2#8 0x2#56 ∧
    decodeWords 0xEFFFFFFFFFFFFFFF#64 0#64 = .hhot 0xef#8 0xffffffffffffff#56 ∧
    decodeWords 0xF800050060010068#64 0x18000800900A0040#64 = .pair ⟨0, 5, 6, 1, 0, 6, 1, 0⟩ 0x18000800900A0040#64 := by
  and_intros <;> rfl

/-- R70, R72, R76: words of majors, minors, types, registers and scopes that are unassigned or refused. -/
theorem test_decode_refused :
    decodeWords 0x4500000000000000#64 0#64 = .unassignedEncoding 0x4500000000000000#64 0#64 ∧
    decodeWords 0x5D00000000000000#64 0#64 = .unassignedEncoding 0x5D00000000000000#64 0#64 ∧
    decodeWords 0x7B00000000000000#64 0#64 = .unassignedEncoding 0x7B00000000000000#64 0#64 ∧
    decodeWords 0xB000000000000000#64 0#64 = .unassignedEncoding 0xB000000000000000#64 0#64 ∧
    decodeWords 0xD500000000000000#64 0#64 = .unassignedEncoding 0xD500000000000000#64 0#64 ∧
    decodeWords 0xF900000000000000#64 0#64 = .unassignedEncoding 0xF900000000000000#64 0#64 ∧
    decodeWords 0x1100040050000350#64 0#64 = .unassignedEncoding 0x1100040050000350#64 0#64 ∧
    decodeWords 0x0000050060070030#64 0#64 = .unassignedEncoding 0x0000050060070030#64 0#64 ∧
    decodeWords 0x000FF80060070060#64 0#64 = .unassignedEncoding 0x000FF80060070060#64 0#64 ∧
    decodeWords 0x18000900A00C0060#64 0#64 = .unassignedEncoding 0x18000900A00C0060#64 0#64 ∧
    decodeWords 0x5000050050102319#64 0#64 = .unassignedEncoding 0x5000050050102319#64 0#64 ∧
    decodeWords 0x7000050000001200#64 0#64 = .unassignedEncoding 0x7000050000001200#64 0#64 ∧
    decodeWords 0x80000A0090002006#64 0xC800000000000040#64 = .unassignedEncoding 0x80000A0090002006#64 0xC800000000000040#64 := by
  and_intros <;> rfl

/-! ### Ill-formed terms (R67 to R72) -/

/-- Scalar forms: a queue name as destination, a type that is no scalar integer, a minor or field that must be 0, a
shift amount of the width, a location register past 15. -/
theorem test_wf_scalar : ∀ i ∈ ([
    .add ⟨0, 4088, 1, 2, 0, 6, 0⟩, .add ⟨0, 1, 1, 2, 0, 3, 0⟩, .add ⟨0, 1, 1, 2, 0, 8, 0⟩, .max ⟨0, 1, 1, 2, 1, 6, 0⟩,
    .set ⟨0, 1, 1, 2, 6, 6, 0⟩, .set ⟨0, 4095, 1, 2, 0, 6, 0⟩, .clz ⟨0, 1, 1, 1, 0, 6, 0⟩, .ctz ⟨0, 1, 1, 0, 0, 6, 0⟩,
    .popc ⟨0, 1, 1, 0, 3, 6, 0⟩, .bfx ⟨0, 4088, 1, 2, 3, 4⟩, .sel ⟨0, 1, 1, 2, 3, 0⟩, .addi ⟨0, 1, 1, 0, 1, 6⟩,
    .logi ⟨0, 1, 1, 0, 3, 6⟩, .shi ⟨0, 1, 1, 64, 4, 6⟩, .shi ⟨0, 1, 1, 32, 4, 4⟩, .shi ⟨0, 1, 1, 0, 8, 6⟩,
    .lih ⟨0, 1, 1, 0, 0, 0⟩, .addpc ⟨0, 1, 0, 0, 1, 6⟩, .nset ⟨0, 16, 1, 0, 2, 0⟩, .nget ⟨0, 1, 16, 0, 3, 0⟩,
    .nget ⟨0, 1, 1, 1, 3, 0⟩] : List Instr), i.wellFormed = false := by decide

/-- Vector forms: a type outside the form's, an odd register of a 64-bit type, a minor past the last, a predicate
register past 7, a field that must be 0. -/
theorem test_wf_vector : ∀ i ∈ ([
    .vadd ⟨0, 1, 2, 4, 0, 6, 0⟩, .vadd ⟨0, 1, 2, 3, 0, 8, 0⟩, .vadd ⟨0, 1, 2, 3, 1, 4, 0⟩, .vabs ⟨0, 2, 4, 0, 0, 5, 0⟩,
    .vabs ⟨0, 2, 4, 2, 0, 4, 0⟩, .vand ⟨0, 1, 2, 3, 0, 2, 0⟩, .vnot ⟨0, 2, 4, 1, 0, 4, 0⟩, .vshl ⟨0, 3, 4, 1, 0, 7, 0⟩,
    .vmad ⟨0, 2, 4, 6, 7, 6⟩, .vbfx ⟨0, 1, 2, 3, 4, 0⟩, .vclz ⟨0, 1, 3, 0, 0, 6, 0⟩, .vpopc ⟨0, 1, 2, 0, 0, 4, 0⟩,
    .vcmp ⟨0, 8, 2, 4, 0, 4, 0⟩, .vcmp ⟨0, 7, 2, 4, 6, 4, 0⟩, .vsel ⟨0, 2, 4, 6, 8, 4⟩, .vsel ⟨0, 2, 4, 6, 7, 8⟩,
    .vmov ⟨0, 1, 2, 3, 0, 4, 0⟩, .vbcast ⟨0, 3, 2, 0, 1, 11, 0⟩, .viota ⟨0, 3, 2, 0, 2, 6, 0⟩, .vdot4 ⟨0, 1, 2, 3, 4, 2⟩,
    .kop ⟨0, 7, 8, 0, 0, 0, 0⟩, .kop ⟨0, 7, 7, 1, 4, 0, 0⟩, .kop ⟨0, 7, 7, 7, 5, 0, 0⟩, .kmovTos ⟨0, 1, 8, 0, 0, 0, 0⟩,
    .kmovFroms ⟨0, 8, 1, 0, 1, 0, 0⟩] : List Instr), i.wellFormed = false := by decide

/-- Floating-point and lane forms. -/
theorem test_wf_float : ∀ i ∈ ([
    .vfadd ⟨0, 1, 2, 3, 0, 12, 0⟩, .vfadd ⟨0, 1, 2, 4, 0, 11, 0⟩, .vfma ⟨0, 2, 4, 6, 9, 11⟩, .vfmin ⟨0, 2, 4, 6, 2, 10, 0⟩,
    .vfcmp ⟨0, 8, 4, 6, 0, 10, 0⟩, .vfcmp ⟨0, 7, 4, 6, 8, 10, 0⟩, .vfsqrt ⟨0, 2, 4, 1, 0, 10, 0⟩,
    .vrcp ⟨0, 2, 4, 0, 0, 11, 0⟩, .vtanh ⟨0, 2, 4, 0, 1, 10, 0⟩, .vround ⟨0, 2, 4, 0, 6, 10, 0⟩,
    .vcvt ⟨0, 2, 4, 0, 0xA0, 10, 0⟩, .vcvt ⟨0, 2, 4, 0, 0xA8, 12, 0⟩, .vcvt ⟨0, 2, 4, 0, 0xA6, 12, 0⟩,
    .vcvt ⟨0, 2, 4, 1, 0xA0, 12, 0⟩, .vcvt ⟨0, 2, 4, 0, 0xF0, 12, 0⟩, .vcvt ⟨0, 2, 4, 0, 0xA0, 15, 0⟩,
    .vpack ⟨0, 2, 4, 0, 0xA8, 8, 0⟩, .vpack ⟨0, 2, 4, 0, 0xB0, 12, 0⟩, .vpack ⟨0, 2, 4, 0, 0xA0, 10, 0⟩,
    .vunpack ⟨0, 2, 4, 1, 0xC0, 10, 0⟩, .vunpack ⟨0, 2, 4, 0, 0x88, 10, 0⟩, .vunpack ⟨0, 2, 4, 0, 0xC1, 10, 0⟩,
    .vunpack ⟨0, 2, 4, 0, 0x00, 5, 0⟩, .vscale ⟨0, 3, 4, 0, 0, 11, 0⟩, .vperm ⟨0, 2, 4, 0, 0, 0, 0⟩,
    .vshfl ⟨0, 2, 4, 0, 3, 4, 0⟩, .vred ⟨0, 2, 4, 0, 6, 4, 0⟩, .vred ⟨0, 2, 4, 0, 3, 10, 0⟩, .vscan ⟨0, 2, 4, 0, 0, 11, 0⟩,
    .vvote ⟨0, 2, 8, 0, 0, 0, 0⟩, .vvote ⟨0, 2, 4, 0, 4, 0, 0⟩, .vpart ⟨0, 2, 4, 4088, 0, 0, 0⟩,
    .vpart ⟨0, 2, 4, 0, 8, 0, 0⟩] : List Instr), i.wellFormed = false := by decide

/-- Memory forms: a SIZE past the form's, a data register that does not fit its SIZE, an ORD or SCOPE that the form does
not take, an operation code past the last, a field that must be 0. -/
theorem test_wf_memory : ∀ i ∈ ([
    .ld ⟨0, 2, 1, 0, 0, 0, 0, 5, 0⟩, .ld ⟨0, 3, 1, 0, 0, 0, 0, 4, 0⟩, .ld ⟨0, 0, 1, 0, 0, 0, 0, 4, 0⟩,
    .ldi ⟨0, 4088, 1, 0, 0, 0, 0, 3, 0⟩, .sti ⟨0, 4088, 1, 0, 0, 0, 0, 4, 0⟩, .vld ⟨0, 2, 1, 0, 0, 0, 0, 4, 0⟩,
    .vst ⟨0, 1, 1, 0, 0, 0, 0, 3, 0⟩, .pld ⟨0, 1, 1, 0, 0, 0, 0, 0, 0⟩, .cwb ⟨0, 0, 1, 0, 0, 0, 0, 1, 0⟩,
    .cinv ⟨0, 0, 1, 0, 0, 0, 0, 0, 1⟩, .ldo ⟨0, 2, 1, 0, 0, 0, 0, 3, 0⟩ ⟨4, 2, 0, 0, 0⟩,
    .ldo ⟨0, 2, 1, 0, 0, 0, 0, 3, 0⟩ ⟨6, 0, 0, 0, 0⟩, .sto ⟨0, 2, 1, 0, 0, 0, 0, 3, 0⟩ ⟨4, 1, 0, 0, 0⟩,
    .vldo ⟨0, 2, 1, 0, 0, 0, 0, 3, 0⟩ ⟨4, 0, 1, 0, 0⟩, .vsto ⟨0, 2, 1, 0, 0, 0, 0, 3, 0⟩ ⟨4, 0, 0, 1, 0⟩,
    .stf ⟨0, 2, 1, 0, 0, 0, 0, 3, 0⟩ ⟨4, 0, 1, 1, 0⟩, .acp ⟨0, 2, 1, 0, 0, 0, 0, 6, 0⟩ ⟨0, 0, 0, 0, 0⟩,
    .acp ⟨0, 2, 1, 0, 0, 0, 0, 5, 0⟩ ⟨0, 0, 16, 0, 0⟩, .acp ⟨0, 2, 1, 0, 0, 0, 0, 5, 0⟩ ⟨0, 0, 0, 16, 0⟩,
    .bpf ⟨0, 0, 1, 0, 0, 0, 0, 0, 0⟩ ⟨0, 0, 1, 0, 0⟩, .bpf ⟨0, 0, 1, 0, 0, 0, 0, 0, 0⟩ ⟨0, 0, 1, 2049, 0⟩,
    .nld ⟨0, 2, 1, 0, 0, 0, 0, 3, 0⟩ ⟨4, 3, 0, 0, 0⟩, .nst ⟨0, 2, 1, 0, 0, 0, 0, 3, 0⟩ ⟨4, 0, 0, 1, 0⟩,
    .fao ⟨0, 2, 1, 0, 0, 0, 0, 1, 0⟩ ⟨4, 0, 2, 0, 0⟩, .fao ⟨0, 2, 1, 0, 0, 0, 0, 2, 0⟩ ⟨4, 0, 2, 9, 0⟩,
    .fao ⟨0, 4, 1, 0, 0, 0, 0, 4, 0⟩ ⟨4, 0, 8, 1, 0⟩, .faor ⟨0, 3, 1, 0, 0, 0, 0, 3, 0⟩ ⟨4, 0, 2, 0, 0⟩,
    .red ⟨0, 1, 1, 0, 0, 0, 0, 2, 0⟩ ⟨4, 0, 2, 0, 0⟩, .red ⟨0, 0, 1, 0, 0, 0, 0, 2, 0⟩ ⟨4, 0, 2, 0xA0, 0⟩,
    .red ⟨0, 0, 1, 0, 0, 0, 0, 2, 0⟩ ⟨4, 1, 2, 0, 0⟩, .cas ⟨0, 2, 1, 0, 0, 0, 0, 3, 0⟩ ⟨4, 0, 2, 3, 0⟩,
    .enq ⟨0, 2, 1, 1, 0, 0, 0, 0, 0⟩ ⟨4, 0, 2, 0, 0⟩, .deq ⟨0, 4088, 1, 0, 0, 0, 0, 0, 0⟩ ⟨4, 0, 2, 0, 0⟩,
    .waitc ⟨0, 8, 1, 2, 0, 0, 0, 3, 0⟩ ⟨4, 0, 2, 0, 0⟩, .waitc ⟨0, 7, 1, 2, 0, 0, 0, 4, 0⟩ ⟨4, 0, 2, 0, 0⟩,
    .waitc ⟨0, 7, 1, 2, 0, 0, 0, 3, 0⟩ ⟨4, 0, 2, 7, 0⟩, .fence ⟨0, 0, 0, 0, 0, 0, 0⟩ ⟨4, 0, 0, 0, 0⟩,
    .fence ⟨0, 0, 0, 0, 0, 0, 0⟩ ⟨4, 0, 0, 0, 0x10000⟩, .fence ⟨0, 0, 0, 0, 0, 0, 1⟩ ⟨4, 0, 0, 0, 1⟩,
    .bari ⟨0, 5, 6, 0, 0, 0, 0, 3, 0⟩ ⟨1, 0, 0, 0, 0⟩, .bari ⟨0, 5, 6, 0, 0, 0, 0, 4, 0⟩ ⟨2, 0, 0, 0, 0⟩,
    .bara ⟨0, 4088, 6, 0, 0, 0, 0, 4, 0⟩ ⟨1, 0, 0, 0, 0⟩, .barw ⟨0, 1, 6, 0, 0, 0, 0, 4, 0⟩ ⟨1, 0, 0, 0, 0⟩] :
    List Instr), i.wellFormed = false := by decide

/-- Control, system and tile forms. -/
theorem test_wf_control_system_tile : ∀ i ∈ ([
    .br ⟨0, 1, 0, 0⟩, .brc ⟨0, 1, 0, 4⟩, .brk ⟨0, 8, 0, 0⟩, .jmpi ⟨0, 0, 3, 0, 1, 0, 0⟩, .jmpi ⟨0, 0, 2, 0, 2, 0, 0⟩,
    .call ⟨0, 3, 0, 0⟩, .calli ⟨0, 3, 2, 0, 0, 0, 0⟩, .ret ⟨0, 0, 3, 0, 0, 0, 0⟩, .exit ⟨0, 0, 1, 0, 0, 0, 0⟩,
    .yield ⟨0, 0, 0, 1, 0, 0, 0⟩, .nop ⟨0, 0, 0, 0, 1, 0, 0⟩, .loop ⟨0, 4, 0, 0⟩, .lbrk ⟨0, 0, 0, 1⟩,
    .waitt ⟨0, 0, 0, 0, 1, 0⟩, .srd ⟨0, 1, 0, 8, 0, 0⟩, .srd ⟨0, 1, 0, 0x51, 0, 0⟩, .srd ⟨0, 4088, 0, 1, 0, 0⟩,
    .swr ⟨0, 0, 1, 0x10, 0, 0⟩, .swr ⟨0, 0, 1, 0x25, 0, 0⟩, .trap ⟨0, 1, 0, 0, 0, 0⟩, .tret ⟨0, 0, 0, 0, 0, 1, 0⟩,
    .bkpt ⟨0, 0, 0, 0, 0, 1⟩, .svcVersion ⟨0, 0, 0, 1, 0, 0⟩, .svcUnknown ⟨0, 0, 0, 0x8000, 0, 0⟩,
    .svcHelper ⟨0, 0, 0, 0x10000, 0, 0⟩, .icinv ⟨0, 1, 1, 2, 0, 0, 0⟩, .synci ⟨0, 0, 1, 0, 0, 0, 0⟩,
    .send ⟨0, 0, 1, 16, 0, 0, 0⟩, .send ⟨0, 0, 1, 0, 64, 0, 0⟩, .qbind ⟨0, 8, 0, 0, 0, 0⟩, .qbind ⟨0, 7, 0, 64, 0, 0⟩,
    .qbindUn ⟨0, 7, 0, 1, 1, 0⟩, .pmark ⟨0, 1, 0, 0, 0, 0⟩, .hhot 0xE1 0, .pair ⟨0, 5, 6, 7, 0x11, 6, 0, 0⟩ (0x18 <<< 56),
    .pair ⟨0, 5, 6, 7, 0, 6, 0, 1⟩ (0x18 <<< 56), .pair ⟨0, 5, 6, 7, 0, 6, 0, 0⟩ (0x50 <<< 56),
    .pair ⟨0, 5, 6, 7, 0, 6, 0, 0⟩ (0x181 <<< 52), .tld ⟨0, 0, 0, 0, 0, 0, 0⟩ ⟨0, 0, 0, 0, 0⟩,
    .tst ⟨0, 5, 0, 0, 0, 0, 0⟩ ⟨0, 0, 0, 0, 16⟩, .tld ⟨0, 5, 0, 0, 0, 0, 0⟩ ⟨0, 0, 1, 0, 0⟩,
    .tcp ⟨0, 5, 6, 0, 2, 0, 0⟩ ⟨0, 0, 0, 0, 0⟩, .wbld ⟨0, 5, 6, 0, 0, 0, 0⟩ ⟨0, 0, 0, 0, 0⟩,
    .tmma ⟨0, 5, 0, 0, 0, 0, 0⟩ ⟨0, 0, 0, 0, 0⟩, .tmma ⟨0, 5, 6, 0, 0, 0, 0⟩ ⟨0, 0, 0, 0, 0x80000⟩,
    .tscan ⟨0, 5, 6, 7, 4, 0, 0⟩ ⟨0, 0, 0, 0, 0⟩, .tzero ⟨0, 5, 0, 0, 4, 0, 0⟩ ⟨0, 0, 0, 0, 0⟩,
    .tacrd ⟨0, 5, 0, 0, 3, 0, 0⟩ ⟨0, 0, 0, 0, 0⟩, .tred ⟨0, 5, 6, 0, 3, 0, 0⟩ ⟨0, 0, 0, 0, 0⟩,
    .tew ⟨0, 5, 6, 0, 0, 0, 0⟩ ⟨0, 0, 0, 0, 0⟩, .tew ⟨0, 5, 6, 0, 4, 0, 0⟩ ⟨0, 0, 7, 0, 0⟩,
    .tfmt ⟨0, 0, 6, 0, 17, 0, 0⟩ ⟨0, 0, 0, 0, 0⟩, .tlease ⟨0, 0, 0, 0, 1, 0, 0⟩ ⟨0, 0, 0, 0, 0⟩,
    .tfree ⟨0, 0, 0, 0, 2, 0, 0⟩ ⟨0, 0, 0, 0, 0⟩, .tbmap ⟨0, 4088, 0, 0, 0, 0, 0⟩ ⟨0, 0, 0, 0, 0⟩,
    .trsm ⟨0, 0, 0, 0, 0, 0, 0⟩ ⟨1, 0, 0, 0, 0⟩, .ibset 0 4 0, .ibset 0 0 1024] : List Instr),
    i.wellFormed = false := by decide

/-- R75: a pair whose halves write one s register, or whose second word is no instruction, is refused. -/
theorem test_wf_pair :
    (Instr.pair ⟨0, 5, 6, 7, 0, 6, 0, 0⟩ 0x2F00050010000000#64).legal = false ∧
    (Instr.pair ⟨0, 6, 6, 7, 0, 6, 0, 0⟩ 0x2F00050010000000#64).legal = true ∧
    (Instr.pair ⟨0, 5, 6, 7, 0, 6, 0, 0⟩ 0x1800080090000080#64).legal = false := by decide

/-! ### States and operands that meet the hypotheses of the statements -/

/-- A memory whose page tables, from 0x1000 on, map the first GiB of a context to the physical memory of the same
addresses, for reading, writing and running (R325, R326). -/
def tables : BMap 8 := [(0x1000, 0x01), (0x1001, 0x20), (0x2000, 0x01), (0x2001, 0x30), (0x3000, 0x0F)]

def context1 : Ctx := { (default : Ctx) with id := 1, live := true, root := some 0x1000, capbase := 0x4000 }

/-- A group of context 1, alone in its block, with a scratchpad allocation of 8 KiB. -/
def group1 (r : Regs) : Group :=
  { Group.reset with
      present := true
      p := { id := ⟨1, 0, 0⟩, ctx := 1, core := 0, part := 0, slot := 0, priority := 0 }
      u := { Setup.reset with scratch := 0x2000, entry := 0x8000, kdesc := 0x6000 }
      r := r }

def block1 : Block :=
  { launch := 1, block := 0, scratch := [], poison := [], owner := [], arrivals := [], resets := [], log := none }

def state1 (r : Regs) : State :=
  { State.reset with g := group1 r, ctxs := [context1], blocks := [block1], mem := tables }

/-- Registers with the s registers given. -/
def regs (s : BMap 64) : Regs := { Regs.reset with s := s }

/-- Every lane at one address. -/
def at_ (a : Nat) : BMap 64 := (List.range 32).map fun l => (l, BitVec.ofNat 64 a)

/-- Only lane 0 has not exited. -/
def oneLane : BMap 64 := (List.range 31).map fun l => (l + 1, BitVec.ofNat 64 (2 ^ 63))

/-- A state whose q0 is bound to queue 5, which holds 7. -/
def stateQ : State :=
  { state1 (regs []) with
      g := { group1 (regs []) with qbind := [(0, 6)] }
      rxq := [(5, { ctx := some 1, entries := [7] })] }

/-- Readiness of a group none of whose sources is a queue register. -/
theorem ready_of {s : State} {g : BitVec 4} {srcs : List Nat}
    (h : (!(s.g.r.active g).isEmpty && srcs.all (fun r => decide (r < 4088)) && s.rlog.isNone && s.g.kept.isNone) = true) :
    s.Ready g srcs := by
  simp only [Bool.and_eq_true, List.all_eq_true, decide_eq_true_eq, Bool.not_eq_true',
    Option.isNone_iff_eq_none] at h
  obtain ⟨⟨⟨h1, h2⟩, h3⟩, h4⟩ := h
  refine ⟨fun e => by simp [e] at h1, fun r hr hb => ?_, fun r hr hb => ?_, h3, h4⟩ <;>
    exact absurd (h2 r hr) (by omega)

/-- Without lane check no idle lane's recomputation differs. -/
theorem agree_of {s : State} {act : List Nat} (h : s.g.u.lchk = false) : s.laneDiffs act = [] := by
  simp [State.laneDiffs, h]

/-- Readiness for a form whose results lane check compares, of a group without lane check. -/
theorem readyV_of {s : State} {g : BitVec 4} {srcs : List Nat}
    (h : (!(s.g.r.active g).isEmpty && srcs.all (fun r => decide (r < 4088)) && s.rlog.isNone && s.g.kept.isNone) = true)
    (hl : s.g.u.lchk = false) : s.ReadyV g srcs :=
  { ready_of h with agree := agree_of hl }

/-- A queue register among the sources, its queue filled (R16). -/
theorem witness_Ready : stateQ.Ready 0 [4088, 5] ∧ stateQ.source 4088 = 7 ∧ stateQ.named [4088, 5] 5 = 1 := by
  refine ⟨⟨?_, ?_, ?_, rfl, rfl⟩, rfl, ?_⟩ <;> decide +kernel

theorem witness_ScalarArithmetic :
    (∀ mk ∈ [Instr.add, .sub, .mul, .mulh, .div, .rem, .and, .or, .xor, .andn, .min, .max, .shl, .shr, .sar, .rot, .set],
      ∀ ty ∈ [4, 5, 6, 7], (mk ⟨0, 0, 4087, 3, 0, ty, 0⟩).wellFormed = true ∧
        (mk ⟨0, 4087, 4087, 4088, 0, ty, 0⟩).wellFormed = true) ∧
    (state1 (regs [])).Ready 0 [4087, 3] ∧ stateQ.Ready 0 [4087, 4088] := by
  refine ⟨?_, ready_of ?_, ⟨?_, ?_, ?_, rfl, rfl⟩⟩ <;> decide +kernel

theorem witness_ScalarBitForms :
    (∀ ty ∈ [4, 5, 6, 7], (Instr.clz ⟨0, 1, 2, 0, 0, ty, 0⟩).wellFormed = true ∧
      (Instr.ctz ⟨0, 1, 2, 0, 1, ty, 0⟩).wellFormed = true ∧ (Instr.popc ⟨0, 1, 2, 0, 2, ty, 0⟩).wellFormed = true ∧
      (Instr.bfx ⟨0, 1, 2, 3, 4, ty⟩).wellFormed = true ∧ (Instr.bfi ⟨0, 1, 2, 3, 4, ty⟩).wellFormed = true ∧
      (Instr.sel ⟨0, 0, 2, 3, 4, ty⟩).wellFormed = true) ∧
    (state1 (regs [])).Ready 0 [2] ∧ (state1 (regs [])).Ready 0 [2, 3, 4] :=
  ⟨by decide +kernel, ready_of (by decide +kernel), ready_of (by decide +kernel)⟩

theorem witness_ScalarImmediates :
    (Instr.addi ⟨0, 1, 2, 0xFFFFF, 0, 7⟩).wellFormed = true ∧ (Instr.logi ⟨0, 1, 2, 5, 2, 4⟩).wellFormed = true ∧
    (Instr.shi ⟨0, 1, 2, 63, 4, 6⟩).wellFormed = true ∧ (Instr.shi ⟨0, 1, 2, 31, 7, 5⟩).wellFormed = true ∧
    (Instr.nset ⟨0, 15, 2, 5, 2, 0⟩).wellFormed = true ∧ (Instr.lih ⟨0, 1, 0, 0x80000, 0, 0⟩).wellFormed = true ∧
    (Instr.addpc ⟨0, 1, 0, 5, 1, 0⟩).wellFormed = true ∧ (Instr.nget ⟨0, 1, 15, 0, 3, 0⟩).wellFormed = true ∧
    (state1 (regs [])).Ready 0 [2] ∧ (state1 (regs [])).Ready 0 [] := by
  refine ⟨?_, ?_, ?_, ?_, ?_, ?_, ?_, ?_, ready_of ?_, ready_of ?_⟩ <;> decide +kernel

theorem witness_VectorArithmetic :
    (∀ ty ∈ [0, 1, 2, 3, 4, 5, 6, 7], ∀ mk ∈ [Instr.vadd, .vsub, .vmul, .vmulh, .vmin, .vmax],
      (mk ⟨0, 4094, 2, 4, 0, ty, 0⟩).wellFormed = true) ∧
    (∀ ty ∈ [4, 5, 6, 7], ∀ mk ∈ [Instr.vand, .vor, .vxor, .vshl, .vshr, .vsar],
      (mk ⟨0, 0, 2, 4, 0, ty, 0⟩).wellFormed = true) ∧
    (∀ ty ∈ [0, 2, 4, 6], (Instr.vabs ⟨0, 0, 2, 0, 0, ty, 0⟩).wellFormed = true) ∧
    (∀ ty ∈ [4, 7], (Instr.vnot ⟨0, 0, 2, 0, 0, ty, 0⟩).wellFormed = true) ∧
    (Instr.vmad ⟨9, 0, 2, 4, 6, 7⟩).wellFormed = true ∧ (state1 (regs [])).ReadyV 9 [] := by
  refine ⟨?_, ?_, ?_, ?_, ?_, readyV_of ?_ rfl⟩ <;> decide +kernel

theorem witness_VectorBitForms :
    (∀ ty ∈ [4, 5, 6, 7], (Instr.vbfx ⟨0, 0, 2, 3, 5, ty⟩).wellFormed = true ∧
      (Instr.vbfi ⟨0, 0, 2, 3, 5, ty⟩).wellFormed = true ∧ (Instr.vclz ⟨0, 1, 2, 0, 0, ty, 0⟩).wellFormed = true ∧
      (Instr.vpopc ⟨0, 1, 2, 0, 1, ty, 0⟩).wellFormed = true) ∧
    (∀ ty ∈ [4, 5, 6, 7, 10, 11], (Instr.vsel ⟨0, 0, 2, 4, 7, ty⟩).wellFormed = true ∧
      (Instr.vmov ⟨0, 0, 2, 0, 0, ty, 0⟩).wellFormed = true ∧ (Instr.vbcast ⟨0, 0, 9, 0, 1, ty, 0⟩).wellFormed = true) ∧
    (∀ m ∈ [0, 1, 2, 3, 4, 5], (Instr.vcmp ⟨0, 7, 2, 4, m, 6, 0⟩).wellFormed = true) ∧
    (Instr.vdot4 ⟨0, 1, 2, 3, 4, 1⟩).wellFormed = true ∧ (Instr.viota ⟨0, 1, 2, 3, 2, 5, 0⟩).wellFormed = true ∧
    (state1 (regs [])).ReadyV 0 [] ∧ (state1 (regs [])).ReadyV 0 [9] ∧ (state1 (regs [])).ReadyV 0 [2, 3] := by
  refine ⟨?_, ?_, ?_, ?_, ?_, readyV_of ?_ rfl, readyV_of ?_ rfl, readyV_of ?_ rfl⟩ <;> decide +kernel

theorem witness_PredicateForms :
    (∀ m ∈ [0, 1, 2, 3], (Instr.kop ⟨0, 0, 7, 6, m, 0, 0⟩).wellFormed = true) ∧
    (Instr.kop ⟨0, 7, 7, 0, 4, 0, 0⟩).wellFormed = true ∧ (Instr.kmovTos ⟨0, 1, 7, 0, 0, 0, 0⟩).wellFormed = true ∧
    (Instr.kmovFroms ⟨0, 7, 1, 0, 1, 0, 0⟩).wellFormed = true ∧ (state1 (regs [])).ReadyV 0 [] ∧
    (state1 (regs [])).ReadyV 0 [1] ∧ 5 ≤ (5#8).toNat ∧ 2 ≤ (2#8).toNat := by
  refine ⟨?_, ?_, ?_, ?_, readyV_of ?_ rfl, readyV_of ?_ rfl, ?_⟩ <;> decide +kernel

theorem witness_FloatArithmetic :
    (∀ ty ∈ [8, 9, 10, 11], (∀ mk ∈ [Instr.vfadd, .vfsub, .vfmul, .vfdiv], (mk ⟨0, 0, 2, 4, 0, ty, 0⟩).wellFormed = true) ∧
      (Instr.vfma ⟨0, 0, 2, 4, 6, ty⟩).wellFormed = true ∧ (Instr.vfsqrt ⟨0, 0, 2, 0, 0, ty, 0⟩).wellFormed = true) ∧
    (state1 (regs [])).ReadyV 0 [] :=
  ⟨by decide +kernel, readyV_of (by decide +kernel) rfl⟩

/-- A NaN, +0, −0 and 1.0 of FP32 stand for the clauses of VFMIN and VFMAX. -/
theorem witness_FloatSelectAndCompare :
    (∀ ty ∈ [8, 9, 10, 11], ∀ m ∈ [0, 1], (Instr.vfmin ⟨0, 0, 2, 4, m, ty, 0⟩).wellFormed = true ∧
      (Instr.vfmax ⟨0, 0, 2, 4, m, ty, 0⟩).wellFormed = true) ∧
    (∀ m ∈ [0, 1, 2, 3, 4, 5, 6, 7], (Instr.vfcmp ⟨0, 7, 2, 4, m, 11, 0⟩).wellFormed = true) ∧
    (state1 (regs [])).ReadyV 0 [] ∧ exactOf 10 (0x7FC00000#32) = .nan ∧ exactOf 10 (0x80000000#32) = .fin true 0 (-149) ∧
    exactOf 10 (0#32) = .fin false 0 (-149) ∧
    Num.cmp (exactOf 10 (0#32)) (exactOf 10 (0x3F800000#32)) = some (-1) := by
  refine ⟨?_, ?_, readyV_of ?_ rfl, ?_⟩ <;> decide +kernel

theorem witness_FunctionAndConversionForms :
    (∀ ty ∈ [8, 9, 10], ∀ mk ∈ [Instr.vrcp, .vrsq, .vexp2, .vlog2, .vsin, .vcos, .vtanh],
      (mk ⟨0, 1, 2, 0, 0, ty, 0⟩).wellFormed = true) ∧
    specialRcp (exactOf 10 (0x80000000#32)) = some (.inf true) ∧ specialRsq (exactOf 10 (0xBF800000#32)) = some .nan ∧
    (∀ m ∈ [0, 1, 2, 3, 4, 5], (Instr.vround ⟨0, 0, 2, 0, m, 11, 0⟩).wellFormed = true) ∧
    (Instr.vscale ⟨0, 0, 2, 3, 0, 11, 0⟩).wellFormed = true ∧ (Instr.vunpack ⟨0, 1, 2, 0, 0xCC, 10, 0⟩).wellFormed = true ∧
    (Instr.vpack ⟨0, 1, 2, 3, 0xAD, 12, 0⟩).wellFormed = true ∧ (Instr.vpack ⟨0, 1, 2, 3, 0xA0, 8, 0⟩).wellFormed = true ∧
    (Instr.vcvt ⟨0, 0, 2, 3, 0xA5, 14, 0⟩).wellFormed = true ∧ (Instr.vcvt ⟨0, 0, 2, 0, 0x60, 10, 0⟩).wellFormed = true ∧
    (state1 (regs [])).ReadyV 0 [] ∧ (state1 (regs [])).ReadyV 0 [3] := by
  refine ⟨?_, ?_, ?_, ?_, ?_, ?_, ?_, ?_, ?_, ?_, readyV_of ?_ rfl, readyV_of ?_ rfl⟩ <;> decide +kernel

theorem witness_LaneForms :
    (∀ ty ∈ [4, 5, 6, 7, 10, 11], (Instr.vperm ⟨0, 0, 2, 3, 0, ty, 0⟩).wellFormed = true ∧
      ∀ m ∈ [0, 1, 2], (Instr.vshfl ⟨0, 0, 2, 3, m, ty, 0⟩).wellFormed = true) ∧
    (∀ mk ∈ [Instr.vred, .vscan], (∀ m ∈ [0, 1, 2, 3, 4, 5], ∀ ty ∈ [0, 1, 2, 3, 4, 5, 6, 7],
      (mk ⟨0, 0, 2, 0, m, ty, 0⟩).wellFormed = true) ∧
      ∀ m ∈ [0, 1, 2], ∀ ty ∈ [8, 9, 10], (mk ⟨0, 0, 2, 0, m, ty, 0⟩).wellFormed = true) ∧
    (∀ m ∈ [0, 1, 2, 3], (Instr.vvote ⟨0, 1, 7, 0, m, 0, 0⟩).wellFormed = true) ∧ (state1 (regs [])).Ready 0 [] ∧
    (state1 (regs [])).ReadyV 0 [3] ∧
    (state1 (regs [])).laneDiffs ((state1 (regs [])).g.r.active 0) = [] := by
  refine ⟨?_, ?_, ?_, ready_of ?_, readyV_of ?_ rfl, agree_of rfl⟩ <;> decide +kernel

/-- A pair of ADD with an immediate and VADD. -/
theorem witness_PartitionAndPairForms :
    (Instr.vpart ⟨0, 0x1E, 0x1F, 9, 7, 0, 0⟩).wellFormed = true ∧ (state1 (regs [])).Ready 0 [] ∧
    (let p : PairHead := ⟨0, 5, 6, 1, 0, 6, 1, 0⟩
     let v := 0x18000800900A0040#64
     (Instr.pair p v).legal = true ∧ (∃ i srcs e, rawDecode v 0 = some i ∧ vecHalf i = some (srcs, e) ∧
      (state1 (regs [])).Ready p.g ([p.a.toNat] ++ srcs) ∧ halfChecked i = true ∧
      (state1 (regs [])).laneDiffs ((state1 (regs [])).g.r.active p.g) = [])) :=
  ⟨by decide +kernel, ready_of (by decide +kernel), by decide +kernel, _, _, _, rfl, rfl, ready_of (by decide +kernel), rfl, agree_of rfl⟩

/-- Guard 1 names k1, which is all zeros. -/
theorem witness_NoActiveLane : (state1 (regs [])).g.r.active 1 = [] := by decide +kernel

/-- Targets at the bounds 0 and 2^57 − 8, loop counters at 1 and 2, and both branch conditions. -/
theorem witness_OffsetTransfers :
    (state1 (regs [])).pc + 8 * (0#32).toInt = 0 ∧
    (state1 { regs [] with pcv := at_ (2 ^ 57 - 16) }).pc + 8 * (1#32).toInt = 2 ^ 57 - 8 ∧
    (state1 { regs [] with pcv := at_ (2 ^ 57 - 16) }).pc + 8 < 2 ^ 57 ∧
    (Instr.br ⟨0, 0, 1, 0⟩).wellFormed = true ∧ (∀ m ∈ [0, 1, 2, 3], (Instr.brc ⟨0, 5, 1, m⟩).wellFormed = true) ∧
    (∀ m ∈ [0, 1], (Instr.brk ⟨0, 7, 1, m⟩).wellFormed = true) ∧ (Instr.loop ⟨0, 3, 1, 0⟩).wellFormed = true ∧
    (Instr.lbrk ⟨0, 3, 1, 0⟩).wellFormed = true ∧ (state1 (regs [])).Ready 0 [5] ∧ (state1 (regs [])).Ready 0 [] ∧
    ({ regs [] with lc := [(3, 1)] }.getLc 3).toNat ≤ 1 ∧ 1 < ({ regs [] with lc := [(3, 2)] }.getLc 3).toNat := by
  refine ⟨?_, ?_, ?_, ?_, ?_, ?_, ?_, ?_, ready_of ?_, ready_of ?_, ?_⟩ <;> decide +kernel

theorem witness_RegisterTransfers :
    (let s := state1 (regs [(5, 2 ^ 57 - 8), (6, 4)])
     s.pc + 8 < 2 ^ 57 ∧ (∀ m ∈ [0, 1], (Instr.jmpi ⟨0, 0, 6, 0, m, 0, 0⟩).wellFormed = true ∧
        (Instr.calli ⟨0, 0x28, 6, 0, m, 0, 0⟩).wellFormed = true) ∧
      (Instr.ret ⟨0, 0, 6, 0, 0, 0, 0⟩).wellFormed = true ∧ (Instr.call ⟨0, 6, 1, 0⟩).wellFormed = true ∧
      s.Ready 0 [5] ∧ s.Ready 0 [] ∧
      ((s.source 5).toNat % 8 = 0 ∧ (s.source 5).toNat ≤ 2 ^ 57 - 8) ∧
      (∀ l ∈ s.g.r.active 0, (s.g.r.getV64 6 l).toNat % 8 = 0 ∧ (s.g.r.getV64 6 l).toNat ≤ 2 ^ 57 - 8)) := by
  refine ⟨?_, ?_, ?_, ?_, ready_of ?_, ready_of ?_, ?_⟩ <;> decide +kernel

/-- Lane 0 alone under k1, and all lanes; and a second group of the block. -/
theorem witness_ExitForms :
    (Instr.exit ⟨1, 0, 0, 0, 0, 0, 0⟩).wellFormed = true ∧
    (let s := state1 { regs [] with k := [(1, 1)] }
     s.Ready 1 [] ∧ ∃ l ∈ s.g.r.live, l ∉ s.g.r.active 1) ∧
    (let s : State := { state1 (regs []) with
        others := [{ group1 (regs []) with p := { (group1 (regs [])).p with id := ⟨1, 0, 1⟩, slot := 1 } }] }
     s.Ready 0 [] ∧ (∀ l ∈ s.g.r.live, l ∈ s.g.r.active 0) ∧ s.undrained = false ∧ s.g.held = [] ∧
      ∃ x ∈ s.others, x.p.id.launch = s.g.p.id.launch ∧ x.p.id.block = s.g.p.id.block ∧ x.ended = false ∧
        x.present = true) := by
  refine ⟨?_, ⟨ready_of ?_, ?_⟩, ready_of ?_, ?_⟩ <;> decide +kernel

theorem witness_WaitingForms :
    (Instr.nop ⟨0, 0, 0, 0, 0, 0, 0⟩).wellFormed = true ∧ (Instr.yield ⟨0, 0, 0, 0, 0, 0, 0⟩).wellFormed = true ∧
    (Instr.waitt ⟨0, 0, 0, 0x20001, 0, 0⟩).wellFormed = true ∧ (state1 (regs [])).Ready 0 [] ∧
    (let s := state1 { regs [] with tok := [(0, 2)] }
     s.g.held = [] ∧ ∀ k, k < 16 → (0x20001#20).getLsbD k = true → s.g.r.getTok k ≤ (0x20001#20).toNat / 2 ^ 16) ∧
    (let s := state1 { regs [] with tok := [(0, 3)] }
     ∃ k, k < 16 ∧ (0x20001#20).getLsbD k = true ∧ (0x20001#20).toNat / 2 ^ 16 < s.g.r.getTok k) ∧
    (Instr.pld ⟨0, 0, 1, 0, 0, 0, 0, 0, 0⟩).wellFormed = true ∧ (Instr.cwb ⟨0, 0, 1, 2, 0, 0, 0, 0, 0⟩).wellFormed = true ∧
    (Instr.cinv ⟨0, 0, 1, 2, 0, 0, 0, 0, 0⟩).wellFormed = true ∧ (state1 (regs [])).Ready 0 [1, 2] ∧
    (Instr.fence ⟨0, 0, 0, 0, 0, 0, 0⟩ ⟨4, 2, 0, 0, 0xFFFF⟩).wellFormed = true := by
  refine ⟨?_, ?_, ?_, ready_of ?_, ?_, ⟨0, ?_⟩, ?_, ?_, ?_, ready_of ?_, ?_⟩ <;> decide +kernel

/-- Every selector of R20 is well-formed where it applies; a group at S for %xctx. -/
theorem witness_SpecialRegisters :
    (∀ sel ∈ ([1, 2, 3, 4, 5, 6, 7, 0x10, 0x11, 0x20, 0x21, 0x22, 0x23, 0x24, 0x30, 0x40, 0x41, 0x42, 0x43, 0x50, 0x52,
        0x60, 0x67, 0x70, 0x80, 0] : List Nat), (Instr.srd ⟨0, 5, 0, BitVec.ofNat 20 sel, 0, 0⟩).wellFormed = true) ∧
    (Instr.srd ⟨0, 6, 0, 0x51, 0, 0⟩).wellFormed = true ∧
    (∀ sel ∈ ([0x20, 0x21, 0x22, 0x23, 0x24, 0x30, 0x80] : List Nat),
      (Instr.swr ⟨0, 0, 5, BitVec.ofNat 20 sel, 0, 0⟩).wellFormed = true) ∧
    (state1 (regs [])).Ready 0 [] ∧ (state1 (regs [])).Ready 0 [5] ∧
    (let s : State := { state1 (regs []) with g := { group1 (regs []) with u := { Setup.reset with super := true } } }
     s.Ready 0 [5] ∧ s.g.u.super = true) := by
  refine ⟨?_, ?_, ?_, ready_of ?_, ready_of ?_, ready_of ?_, rfl⟩ <;> decide +kernel

/-- At U; a sum that is negative, one at 2^57, and a misaligned one. -/
theorem witness_FaultConditions :
    (state1 (regs [])).g.u.super = false ∧ (Instr.srd ⟨0, 5, 0, 0x80, 0, 0⟩).wellFormed = true ∧
    (Instr.swr ⟨0, 0, 5, 0x80, 0, 0⟩).wellFormed = true ∧ (Instr.svcHelper ⟨0, 0, 0, 0x8000, 0, 0⟩).wellFormed = true ∧
    (∀ mk ∈ [Instr.ldi, .sti], ∀ off ∈ ([0xFFF, 1, 0] : List Nat), (mk ⟨0, 4, 5, BitVec.ofNat 12 off, 0, 0, 0, 3, 0⟩).wellFormed = true) ∧
    (let s := state1 (regs [(5, 7), (6, 2 ^ 57 - 1)])
     s.Ready 0 [5] ∧ s.Ready 0 [5, 4] ∧ s.Ready 0 [6] ∧ s.g.r.getN 0 = 0 ∧
      (s.source 5).toNat + offOf ⟨0, 4, 5, 0xFFF, 0, 0, 0, 3, 1⟩ 8 < 0 ∧
      2 ^ 57 ≤ (s.source 6).toNat + offOf ⟨0, 4, 6, 1, 0, 0, 0, 3, 0⟩ 8 ∧
      ((s.source 5).toNat + offOf ⟨0, 4, 5, 0, 0, 0, 0, 3, 0⟩ 8).toNat % szBytes 3 ≠ 0) := by
  refine ⟨rfl, ?_, ?_, ?_, ?_, ready_of ?_, ready_of ?_, ready_of ?_, ?_⟩ <;> decide +kernel

/-- Register targets at 2^57, at 2^57 − 7 and misaligned below 2^57 − 8, in an s register and in a lane's pair; and
offset targets below 0 and above 2^57 − 8. -/
theorem witness_FaultConditions_targets :
    (∀ m ∈ [0, 1], (Instr.jmpi ⟨0, 0, 6, 0, m, 0, 0⟩).wellFormed = true ∧
      (Instr.calli ⟨0, 0x28, 6, 0, m, 0, 0⟩).wellFormed = true) ∧ (Instr.ret ⟨0, 0, 6, 0, 0, 0, 0⟩).wellFormed = true ∧
    (Instr.br ⟨0, 0, 0x80000000, 0⟩).wellFormed = true ∧ (Instr.call ⟨0, 6, 2, 0⟩).wellFormed = true ∧
    (let s := state1 { regs [(5, 2 ^ 57), (7, 2 ^ 57 - 7), (8, 4)] with v := [(6 * 32 + 1, 4)] }
     s.Ready 0 [5] ∧ s.Ready 0 [7] ∧ s.Ready 0 [8] ∧ s.Ready 0 [] ∧ 2 ^ 57 - 8 < (s.source 5).toNat ∧
      2 ^ 57 - 8 < (s.source 7).toNat ∧ ((s.source 8).toNat ≤ 2 ^ 57 - 8 ∧ (s.source 8).toNat % 8 ≠ 0) ∧
      ∃ l ∈ s.g.r.active 0, (s.g.r.getV64 6 l).toNat % 8 ≠ 0 ∧
        (∀ m ∈ s.g.r.active 0, (s.g.r.getV64 6 m).toNat ≤ 2 ^ 57 - 8) ∧
        ∀ m ∈ s.g.r.active 0, m < l → (s.g.r.getV64 6 m).toNat % 8 = 0) ∧
    ((state1 (regs [])).pc + 8 * (FB.mk 0 0 0x80000000 0).off.toInt < 0 ∨
      2 ^ 57 - 8 < (state1 (regs [])).pc + 8 * (FB.mk 0 0 0x80000000 0).off.toInt) ∧
    (let s := state1 { regs [] with pcv := at_ (2 ^ 57 - 16) }
     s.Ready 0 [] ∧ (2 ^ 57 - 8 : Int) < s.pc + 8 * (2#32).toInt) := by
  refine ⟨?_, ?_, ?_, ?_, ⟨ready_of ?_, ready_of ?_, ready_of ?_, ready_of ?_, ?_⟩, ?_, ready_of ?_, ?_⟩ <;>
    decide +kernel

/-- A group under lane check with lanes 1 to 31 exited, and the forms named. -/
theorem witness_FaultConditions_lanes :
    (∀ mk ∈ [Instr.vadd, .vmul, .vfadd, .vfmul, .vcmp, .vfcmp, .vperm, .vred, .vscan],
      (mk ⟨0, 0, 2, 4, 0, 10, 0⟩).wellFormed = true ∨ (mk ⟨0, 0, 2, 4, 0, 4, 0⟩).wellFormed = true ∨
        (mk ⟨0, 0, 2, 0, 0, 4, 0⟩).wellFormed = true) ∧ (Instr.kop ⟨0, 0, 7, 6, 0, 0, 0⟩).wellFormed = true ∧
    (let s : State := { state1 { regs [] with pcv := oneLane } with
        g := { group1 { regs [] with pcv := oneLane } with u := { Setup.reset with lchk := true } } }
     s.Ready 0 [] ∧ s.g.u.lchk = true ∧ 1 ∉ s.g.r.active 0 ∧ lanePartner (s.g.r.active 0) 1 = some 0) ∧
    (∀ l, l < 32 → l ∈ (state1 (regs [])).g.r.active 0) :=
  ⟨by decide +kernel, by decide +kernel, ⟨ready_of (by decide +kernel), rfl, by decide +kernel⟩, by decide +kernel⟩

/-- The other forms under lane check. -/
theorem witness_FaultConditions_laneForms :
    (∀ x ∈ [(Instr.vsub, 4, 0, 4), (.vmulh, 4, 0, 4), (.vmin, 4, 0, 4), (.vmax, 4, 0, 4), (.vabs, 0, 0, 0),
      (.vand, 4, 0, 4), (.vor, 4, 0, 4), (.vxor, 4, 0, 4), (.vnot, 0, 0, 4), (.vshl, 4, 0, 4), (.vshr, 4, 0, 4),
      (.vsar, 4, 0, 4), (.vclz, 0, 0, 4), (.vpopc, 0, 1, 4), (.vmov, 0, 0, 4), (.vfsub, 4, 0, 10), (.vfmin, 4, 0, 10),
      (.vfmax, 4, 0, 10), (.vfdiv, 4, 0, 10), (.vfsqrt, 0, 0, 10), (.vrcp, 0, 0, 10), (.vrsq, 0, 0, 10),
      (.vexp2, 0, 0, 10), (.vlog2, 0, 0, 10), (.vsin, 0, 0, 10), (.vcos, 0, 0, 10), (.vtanh, 0, 0, 10),
      (.vround, 0, 0, 8), (.vpack, 0, 0, 0), (.vunpack, 0, 0, 4), (.vscale, 0, 0, 8), (.vbcast, 0, 1, 4),
      (.kmovFroms, 0, 1, 0), (.vshfl, 0, 0, 4), (.viota, 0, 2, 4), (.vcvt, 0, 16, 0)],
      (x.1 ⟨0, 0, 2, x.2.1, x.2.2.1, x.2.2.2, 0⟩).wellFormed = true) ∧
    (∀ x ∈ [(Instr.vfma, 8), (.vmad, 0), (.vsel, 4), (.vbfx, 4), (.vbfi, 4), (.vdot4, 0)],
      (x.1 ⟨0, 0, 2, 4, 0, x.2⟩).wellFormed = true) ∧
    (let s : State := { state1 { regs [] with pcv := oneLane } with
        g := { group1 { regs [] with pcv := oneLane } with u := { Setup.reset with lchk := true } } }
     s.Ready 0 [5] ∧ s.Ready 0 [5, 6]) := by
  refine ⟨?_, ?_, ready_of ?_, ready_of ?_⟩ <;> decide +kernel

/-- Each load, store and atomic; sums that are no address, at 2^57 and below 0 in one lane, and misaligned ones. -/
theorem witness_FaultConditions_addresses :
    (let f : FM := ⟨0, 4, 5, 6, 0, 0, 0, 3, 0⟩
     (∀ mk ∈ [Instr.ld, .st, .ldi, .sti, .vld, .vst, .vldi, .vsti, .vldc, .vstc], (mk f).wellFormed = true) ∧
     (∀ mk ∈ [Instr.ldo, .vldo], (mk f ⟨4, 1, 0, 0, 8⟩).wellFormed = true) ∧
     (∀ mk ∈ [Instr.sto, .vsto], (mk f ⟨4, 2, 0, 0, 8⟩).wellFormed = true) ∧ f.c ≠ 15#4) ∧
    (let s := state1 { regs [(5, 2 ^ 57), (7, 2 ^ 57 - 1), (8, 3)] with v := [(6 * 32 + 1, 0xFFFFFFF8), (6 * 32 + 2, 1)] }
     s.Ready 0 [5, 6] ∧ s.Ready 0 [7, 6] ∧ s.Ready 0 [8, 6] ∧ s.g.pend = .idle ∧ s.g.u.det = false ∧
      s.g.r.getN 0 = 0 ∧ 2 ^ 57 ≤ (s.source 5).toNat ∧
      (2 ^ 57 : Int) ≤ (s.source 7).toNat + vIndex ⟨0, 4, 7, 6, 0, 0, 0, 3, 0⟩ 8 s.g.r 2 ∧
      (∀ m ∈ s.g.r.active 0, m < 2 →
        ((s.source 7).toNat + vIndex ⟨0, 4, 7, 6, 0, 0, 0, 3, 0⟩ 8 s.g.r m : Int) < 2 ^ 57 ∧
        0 ≤ ((s.source 7).toNat + vIndex ⟨0, 4, 7, 6, 0, 0, 0, 3, 0⟩ 8 s.g.r m : Int)) ∧
      ((s.source 8).toNat + vIndex ⟨0, 4, 8, 6, 0, 0, 0, 3, 0⟩ 8 s.g.r 1 : Int) < 0 ∧
      ((s.source 8).toNat + sIndex ⟨0, 4, 8, 6, 0, 0, 0, 3, 0⟩ 8 s.source).toNat % szBytes 3 ≠ 0) := by
  refine ⟨by decide +kernel, ready_of ?_, ready_of ?_, ready_of ?_, ?_⟩ <;> decide +kernel

/-- Each transfer by an offset whose target is below 0, taken and not taken. -/
theorem witness_FaultConditions_offsets :
    (∀ mk ∈ [Instr.br, .lbrk, .brc, .brk, .loop], (mk ⟨0, 0, 0x80000000, 0⟩).wellFormed = true) ∧
    (let s := state1 { regs [] with lc := [(0, 2)] }
     s.Ready 0 [] ∧ s.Ready 0 [0] ∧ (s.source 0).toInt = 0 ∧ 1 < (s.g.r.getLc 0).toNat ∧
      (s.g.r.getK 0).getLsbD 0 = decide ((0 : BitVec 8) = 0#8)) ∧
    (let s := state1 (regs [(5, 1)])
     s.Ready 0 [5] ∧ ¬ (s.source 5).toInt = 0 ∧ ¬ 1 < (s.g.r.getLc 0).toNat ∧
      ∀ l ∈ s.g.r.active 0, ¬ (s.g.r.getK 1).getLsbD l = decide ((0 : BitVec 8) = 0#8)) := by
  refine ⟨?_, ⟨ready_of ?_, ready_of ?_, ?_⟩, ready_of ?_, ?_⟩ <;> decide +kernel

/-- A held fault of a drain, a companion that re-runs a region at the checked address, and an instruction one of whose
sources holds an error. -/
theorem witness_FaultConditions_regions :
    (let s : State := { state1 (regs []) with g := { group1 (regs []) with
        nat := { (group1 (regs [])).nat with late := [({ cause := .fabric, va := 8, aux := 0 }, 16, 0)] } } }
     s.breakpoint = none ∧ ∃ x rest, s.g.nat.late = x :: rest) ∧
    (let s (checking : Option Nat) (xchk : Bool) : State := { state1 (regs []) with
        xlats := [{ (default : Translation) with ctx := 1, xchk := xchk, words := [(0, (encode (.vadd ⟨0, 1, 2, 3, 0, 0, 0⟩)).headD 0)] }]
        g := { group1 (regs []) with
          badRegs := [(.v 2, 0)], nat := { (group1 (regs [])).nat with checking := checking }
          u := { Setup.reset with xchk := xchk } } }
     ∀ checking ∈ [none, some 0], ∀ xchk ∈ [false, true],
      ((s checking xchk).breakpoint = none ∧ (s checking xchk).g.nat.late = [] ∧ (s checking xchk).pc = 0 ∧
        duplicated (.vadd ⟨0, 1, 2, 3, 0, 0, 0⟩) = true ∧ duplicated (.add ⟨0, 1, 2, 3, 0, 4, 0⟩) = false) ∧
      ∃ i v, (s checking xchk).fetch = .ok i ∧ exec i (s checking xchk).armBp = .next v ∧
        (s checking xchk).readsBad i = true ∧ (s checking xchk).begins v = true) :=
  ⟨⟨by decide +kernel, _, _, rfl⟩, fun c hc x hx => by
    simp only [List.mem_cons, List.not_mem_nil, or_false] at hc hx
    rcases hc with rfl | rfl <;> rcases hx with rfl | rfl <;>
      exact ⟨by decide +kernel, .vadd ⟨0, 1, 2, 3, 0, 0, 0⟩, (match exec (.vadd ⟨0, 1, 2, 3, 0, 0, 0⟩)
        (State.armBp _) with | .next v => v | _ => State.reset), rfl, rfl, by decide +kernel, by decide +kernel⟩⟩

/-- A debugged group, one with a handler at 0x7000, and one without either; each cause of R170 that goes to the
process. -/
theorem witness_TrapsAndReturn :
    (Instr.trap ⟨0, 0, 0, 0xFFFFF, 0, 0⟩).wellFormed = true ∧ (Instr.bkpt ⟨0, 0, 0, 0, 0, 0⟩).wellFormed = true ∧
    (Instr.tret ⟨0, 0, 0, 0, 0, 0, 0⟩).wellFormed = true ∧ (state1 (regs [])).g.r.active 0 ≠ [] ∧
    (state1 (regs [])).g.inHandler = false ∧
    (let s : State := { state1 (regs []) with ctxs := [{ context1 with debugged := true }] }
     s.debugged = true) ∧
    (let s : State := { state1 (regs []) with g := { group1 (regs []) with u := { Setup.reset with trapEntry := some 0x7000 } } }
     s.debugged = false ∧ s.g.u.trapEntry = some 0x7000 ∧ s.relcount = 0) ∧
    ((state1 (regs [])).debugged = false ∧ (state1 (regs [])).g.u.trapEntry = none) := by decide +kernel

/-- A handler's group whose one live lane has a trap frame with its saved program counter 0x8008. -/
def inTrap : State :=
  { state1 { regs [] with pcv := oneLane } with
      g := { group1 { regs [] with pcv := oneLane } with inHandler := true, privBytes := 0x1000,
                                                         u := { Setup.reset with pbase := 0x100000 } }
      mem := tables }

theorem witness_TrapReturn :
    inTrap.g.inHandler = true ∧ inTrap.g.r.live = [0] ∧
    (∃ v, (inTrap.savedPcv 0).toOption = some v ∧ v.extractLsb' 57 6 = 0 ∧ v.extractLsb' 0 3 = 0 ∧ v.getLsbD 63 = false ∧
      inTrap.canRun (v.toNat % 2 ^ 57) = true) :=
  ⟨rfl, by decide +kernel, 0, by decide +kernel⟩

theorem witness_Services :
    (Instr.svcVersion ⟨0, 0, 0, 0, 0, 0⟩).wellFormed = true ∧ (Instr.svcDebugged ⟨0, 0, 0, 3, 0, 0⟩).wellFormed = true ∧
    (Instr.svcUnknown ⟨0, 0, 0, 0x7FFF, 0, 0⟩).wellFormed = true ∧
    (Instr.svcHelper ⟨0, 0, 0, 0xFFFF, 0, 0⟩).wellFormed = true ∧
    (Instr.svcPrivsize ⟨0, 0, 0, 2, 0, 0⟩).wellFormed = true ∧ (Instr.svcSleep ⟨0, 0, 0, 4, 0, 0⟩).wellFormed = true ∧
    (Instr.svcAbort ⟨0, 0, 0, 1, 0, 0⟩).wellFormed = true ∧ (state1 (regs [])).Ready 0 [] ∧
    (state1 (regs [])).g.pend = .idle ∧ (state1 (regs [])).g.privBytes < (2 ^ 24 : BitVec 64).toNat ∧
    2 ^ 24 < (2 ^ 24 + 1 : BitVec 64).toNat ∧
    (let s : State := { state1 (regs []) with gtime := 5, g := { group1 (regs []) with pend := .sleep 5 false } }
     s.g.pend = .sleep 5 false ∧ 5 ≤ s.gtime) := by
  refine ⟨?_, ?_, ?_, ?_, ?_, ?_, ?_, ready_of ?_, rfl, ?_, ?_, rfl, ?_⟩ <;> decide +kernel

theorem witness_CodeChangesAndMarks :
    (Instr.icinv ⟨0, 0, 5, 6, 0, 0, 0⟩).wellFormed = true ∧ (Instr.synci ⟨0, 0, 0, 0, 0, 0, 0⟩).wellFormed = true ∧
    (Instr.pmark ⟨0, 0, 5, 7, 0, 0⟩).wellFormed = true ∧
    (let s := state1 (regs [(5, 2 ^ 57 - 1)])
     s.Ready 0 [5, 6] ∧ s.Ready 0 [] ∧ (s.source 5).toNat < 2 ^ 57 ∧ s.g.icinvs = []) ∧
    (let s : State := { state1 (regs []) with g := { group1 (regs []) with icinvs := [0] } }
     s.Ready 0 [] ∧ s.g.icinvs ≠ []) ∧
    (let s : State := { state1 (regs []) with
        trace := { State.reset.trace with cfg := [(1, { period := 0, types := 0x200, filter := 0xFFFFFFFF, port := true })] } }
     let c := s.profOf 1
     s.Ready 0 [5] ∧ (c.port && c.types.testBit 9 && (c.filter == 0xFFFFFFFF || c.filter == s.g.p.id.launch)) = true ∧
      s.trace.lost = 0 ∧ s.trace.buf.length < 4096) := by
  refine ⟨?_, ?_, ?_, ⟨ready_of ?_, ready_of ?_, ?_, rfl⟩, ⟨ready_of ?_, ?_⟩, ready_of ?_, ?_, rfl, ?_⟩ <;>
    decide +kernel

theorem witness_ReceiveQueues :
    (Instr.qbind ⟨0, 7, 0, 5, 0, 0⟩).wellFormed = true ∧ (Instr.qbindUn ⟨0, 7, 0, 0, 1, 0⟩).wellFormed = true ∧
    (Instr.send ⟨0, 0, 6, 0, 5, 0, 0⟩).wellFormed = true ∧ stateQ.Ready 0 [] ∧ stateQ.Ready 0 [6] ∧
    (SMap.get default stateQ.rxq 5).ctx = some stateQ.g.p.ctx ∧ stateQ.boundElsewhere 0 5 = false ∧
    (SMap.get default stateQ.rxq 6).ctx ≠ some stateQ.g.p.ctx ∧ stateQ.g.present = true ∧ stateQ.g.held = [] ∧
    stateQ.g.sends = [] ∧ stateQ.g.r.getN 0 = 0 ∧ (SMap.get default stateQ.rxq 5).entries.length < 64 ∧
    (∃ i, i < 8 ∧ i ≠ (7#12).toNat ∧ NMap.get stateQ.g.qbind i = 5 + 1) ∧
    (let s : State := { stateQ with rxq := [(5, { ctx := some 1, entries := List.replicate 64 7 })] }
     s.Ready 0 [6] ∧ (SMap.get default s.rxq 5).ctx = some s.g.p.ctx ∧
      64 ≤ (SMap.get default s.rxq 5).entries.length) ∧
    (let s : State := { stateQ with g := { stateQ.g with r := { stateQ.g.r with n := [(1, 0x4001)] } } }
     s.Ready 0 [6] ∧ (∀ h ∈ s.g.held, h.send = false) ∧ 2 ^ 14 ≤ (s.g.r.getN 1).toNat ∧
      (s.g.r.getN 1).toNat ≠ s.devloc.toNat) := by
  refine ⟨?_, ?_, ?_, ready_of ?_, ready_of ?_, ?_, ?_, ?_, rfl, rfl, rfl, ?_, ?_, ⟨0, ?_⟩, ⟨ready_of ?_, ?_⟩,
    ready_of ?_, ?_⟩ <;> decide +kernel

/-- s5 holds an address of mapped memory, s6 one of the scratchpad window. -/
def stateM : State := state1 (regs [(5, 0x10000), (6, 0x1FF000000000000)])

/-- Memory at s5 with one poisoned byte: the load's check fails at that byte only for the poison. -/
theorem witness_FaultConditions_poison :
    let f : FM := ⟨0, 4, 5, 0, 0, 0, 0, 3, 0⟩
    let s : State := { stateM with poison := [(0x10003, 1)] }
    (Instr.ldi f).wellFormed = true ∧ s.Ready 0 [5] ∧ s.g.r.getN 0 = 0 ∧ f.c ≠ 15#4 ∧
    (({ s with poison := [] } : State).check (mkAcc s 0 0 (s.source 5) (offOf f 8) 8 true false 0)).toOption =
      some (.here (memSpan 0x10000 8)) ∧ (∀ p ∈ memSpan 0x10000 8, p.scratch = false) ∧
    s.poisonedAt (memSpan 0x10000 8) = some 3 ∧
    (∀ l ∈ s.g.r.active 0, (({ s with poison := [] } : State).check
      { mkAcc s l 0 (s.source 5) (8 * (l % 2)) 8 true true 0 with win := .noPrivate, host := false }).toOption =
        some (.here (memSpan (0x10000 + 8 * (l % 2)) 8))) ∧ s.poisonedAt (memSpan 0x10008 8) = none :=
  ⟨by decide +kernel, ready_of (by decide +kernel), rfl, by decide, by decide +kernel, by decide, by decide +kernel,
    by decide +kernel, by decide +kernel⟩

/-- The access of `size` bytes at s5 or s6 checks, for reading and writing: memory of this device and the
scratchpad. -/
theorem witness_ScalarLoadsAndStores :
    (∀ mk ∈ [Instr.ld, .ldi, .st, .sti], ∀ sz ∈ ([0, 1, 2, 3, 4] : List Nat),
      (mk ⟨0, 4, 5, 0, 0, 0, 0, BitVec.ofNat 3 sz, 0⟩).wellFormed = true) ∧
    (Instr.ldo ⟨0, 4, 5, 0, 0, 0, 0, 3, 0⟩ ⟨4, 1, 0, 0, 8⟩).wellFormed = true ∧
    (Instr.sto ⟨0, 4, 5, 0, 0, 0, 0, 3, 0⟩ ⟨4, 2, 0, 0, 8⟩).wellFormed = true ∧ stateM.Ready 0 [5, 4] ∧
    (stateM.check (mkAcc stateM 0 0 (stateM.source 5) 8 8 true false 0)).toOption = some (.here (memSpan 0x10008 8)) ∧
    (stateM.check (mkAcc stateM 0 0 (stateM.source 5) 8 8 false true 0)).toOption = some (.here (memSpan 0x10008 8)) ∧
    (stateM.check (mkAcc stateM 0 0 (stateM.source 6) 16 16 false true 0)).toOption =
      some (.here [{ scratch := true, at_ := 16, len := 16 }]) := by
  refine ⟨?_, ?_, ?_, ready_of ?_, ?_⟩ <;> decide +kernel

theorem witness_VectorLoadsAndStores :
    (∀ mk ∈ [Instr.vld, .vldi, .vst, .vsti, .vldc, .vstc], ∀ sz ∈ ([0, 1, 2, 3, 4] : List Nat),
      (mk ⟨0, 4, 5, 0, 0, 0, 0, BitVec.ofNat 3 sz, 0⟩).wellFormed = true) ∧
    (Instr.vldo ⟨0, 4, 5, 0, 0, 0, 0, 3, 0⟩ ⟨4, 1, 0, 0, 8⟩).wellFormed = true ∧
    (Instr.vsto ⟨0, 4, 5, 0, 0, 0, 0, 3, 0⟩ ⟨4, 2, 0, 0, 8⟩).wellFormed = true ∧ stateM.Ready 0 [5] ∧
    (∀ l ∈ stateM.g.r.active 0, (stateM.check (mkAcc stateM l 0 (stateM.source 5) (4 * l) 4 true false 0)).toOption =
      some (.here (memSpan (0x10000 + 4 * l) 4))) ∧
    (∀ l ∈ stateM.g.r.active 0, (stateM.check (mkAcc stateM l 0 (stateM.source 6) (4 * l) 4 false true 0)).toOption =
      some (.here [{ scratch := true, at_ := 4 * l, len := 4 }])) := by
  refine ⟨?_, ?_, ?_, ready_of ?_, ?_⟩ <;> decide +kernel

/-- The far pointer at s5 reads 0: location 0, address 0. -/
theorem witness_FarPointerAndFlagForms :
    (Instr.nld ⟨0, 4, 5, 0, 0, 0, 0, 3, 0⟩ ⟨4, 1, 0, 0, 0⟩).wellFormed = true ∧
    (Instr.nst ⟨0, 4, 5, 0, 0, 0, 0, 3, 0⟩ ⟨4, 2, 0, 0, 0⟩).wellFormed = true ∧
    (Instr.stf ⟨0, 4, 5, 0, 0, 0, 0, 3, 0⟩ ⟨4, 2, 7, 0, 8⟩).wellFormed = true ∧ stateM.Ready 0 [5] ∧ stateM.g.pend = .idle ∧
    stateM.Ready 0 [5, 7] ∧
    (∀ l ∈ stateM.g.r.active 0, (stateM.check (mkAcc stateM l 0 (stateM.source 5) 0 16 true false 0)).toOption =
      some (.here (memSpan 0x10000 16))) ∧
    stateM.readSpans (memSpan 0x10000 16) = 0 ∧
    (∀ l ∈ stateM.g.r.active 0, (stateM.check (mkAcc stateM l 0 0 0 8 false true 0)).toOption = some (.here (memSpan 0 8))) ∧
    (∀ l ∈ stateM.g.r.active 0, ((stateM.touchAll ((stateM.g.r.active 0).map fun l =>
      mkAcc stateM l 0 (stateM.source 5) 0 16 true false 0)).check (mkAcc stateM l 0 0 0 8 false true 0)).toOption =
        some (.here (memSpan 0 8))) ∧
    (stateM.check (flagAcc stateM ⟨0, 4, 5, 0, 0, 0, 0, 3, 0⟩ (stateM.g.r.active 0) (stateM.source 7))).toOption =
      some (.here (memSpan 0 8)) := by
  refine ⟨?_, ?_, ?_, ready_of ?_, ?_, ready_of ?_, ?_⟩ <;> decide +kernel

/-- A DET group alone in its block, and one without DET. -/
def stateDet : State :=
  { stateM with g := { stateM.g with u := { stateM.g.u with det := true } } }

theorem witness_Atomics :
    (∀ sz ∈ ([2, 3] : List Nat), ∀ opc ∈ ([0, 1, 2, 3, 4, 5, 6, 7, 8] : List Nat),
      (Instr.fao ⟨0, 4, 5, 0, 0, 0, 0, BitVec.ofNat 3 sz, 0⟩ ⟨1, 0, 8, BitVec.ofNat 12 opc, 0⟩).wellFormed = true ∧
      (Instr.red ⟨0, 0, 5, 0, 0, 0, 0, BitVec.ofNat 3 sz, 0⟩ ⟨4, 0, 8, BitVec.ofNat 12 opc, 0⟩).wellFormed = true) ∧
    (Instr.fao ⟨0, 4, 5, 0, 0, 0, 0, 4, 0⟩ ⟨1, 0, 8, 0, 0⟩).wellFormed = true ∧
    (Instr.cas ⟨0, 4, 5, 0, 0, 0, 0, 4, 0⟩ ⟨1, 0, 8, 12, 0⟩).wellFormed = true ∧
    (Instr.red ⟨0, 7, 5, 0, 0, 0, 0, 4, 0⟩ ⟨4, 2, 9, 0xA0, 0⟩).wellFormed = true ∧ 16 ≤ (0xA0#12).toNat ∧
    stateM.Ready 0 [5] ∧ stateM.Ready 0 [5, 7] ∧ stateM.g.u.det = false ∧
    (∀ l ∈ stateM.g.r.active 0, (stateM.check { mkAcc stateM l 0 (stateM.source 5) 0 4 true true 0 with
      win := .noPrivate, host := false }).toOption = some (.here (memSpan 0x10000 4))) ∧
    (∀ scope ∈ ([0, 1] : List Nat), (Instr.fao ⟨0, 4, 6, 0, 0, 0, 0, 2, 0⟩ ⟨BitVec.ofNat 3 scope, 0, 8, 0, 0⟩).wellFormed = true ∧
      (Instr.cas ⟨0, 4, 6, 0, 0, 0, 0, 2, 0⟩ ⟨BitVec.ofNat 3 scope, 0, 8, 12, 0⟩).wellFormed = true) ∧
    (Instr.fao ⟨0, 4, 6, 0, 0, 0, 0, 2, 0⟩ ⟨4, 0, 8, 0, 0⟩).wellFormed = true ∧
    (Instr.cas ⟨0, 4, 6, 0, 0, 0, 0, 2, 0⟩ ⟨2, 0, 8, 12, 0⟩).wellFormed = true ∧
    stateDet.Ready 0 [6] ∧ stateDet.g.u.det = true ∧ stateDet.g.pend = .idle ∧ stateDet.g.present = true ∧
    stateDet.others = [] ∧
    (∀ l ∈ stateDet.g.r.active 0, (stateDet.check { mkAcc stateDet l 0 (stateDet.source 6) 0 4 true true 0 with
      win := .noPrivate, host := false }).toOption = some (.here [{ scratch := true, at_ := 0, len := 4 }])) := by
  refine ⟨?_, ?_, ?_, ?_, ?_, ready_of ?_, ready_of ?_, rfl, ?_, ?_, ?_, ?_, ready_of ?_, rfl, rfl, rfl, rfl,
    ?_⟩ <;> decide +kernel

/-- P of 0, 1, 2^20 and 2^20 + 1, and a group whose lane 0 has its result. -/
theorem witness_OrderedSets :
    (Instr.faor ⟨0, 4, 5, 7, 0, 0, 0, 3, 0⟩ ⟨4, 3, 8, 0, 0⟩).wellFormed = true ∧
    (∀ p ∈ ([0, 1, 1048576, 1048577] : List Nat), let s := state1 (regs [(5, 0x10000), (7, BitVec.ofNat 64 p)])
      (s.source 7).toNat = p ∧ (s.check { mkAcc s 0 0 (s.source 5) 0 8 true true 0 with
        win := .globalOnly, host := false }).toOption = some (.here (memSpan 0x10000 8))) ∧
    (let s := state1 (regs [(5, 0x10000), (7, 1)])
     s.Ready 0 [5, 7] ∧ s.g.pend = .idle ∧ s.sets = [] ∧ s.joins = [] ∧ s.shelf = [] ∧ s.g.present = true ∧
      (∀ x ∈ [(0, 9), (1, 10)], x.1 ∈ s.g.r.active 0) ∧ ([(0, 9), (1, 10)].map Prod.fst).Nodup) ∧
    (let s0 := state1 (regs [(5, 0x10000), (7, 1)])
     let s : State := { s0 with g := { s0.g with
        kept := some [.here (memSpan 0x10000 8)], pend := .faor [(0, some (some 9)), (1, some (some 10))] } }
     ({ s with g := { s.g with kept := none } } : State).Ready 0 [5, 7] ∧ s.g.kept = some [.here (memSpan 0x10000 8)] ∧
      s.g.pend = .faor ([(0, 9), (1, 10)].map fun x => (x.1, some (some x.2)))) :=
  ⟨by decide +kernel, by decide +kernel, ⟨ready_of (by decide +kernel), by decide +kernel⟩, ready_of (by decide +kernel),
    rfl, rfl⟩

/-- A ring of two 8-byte slots at 0x20000 whose control block at 0x10000 holds one element, and its full and empty
forms. -/
def ringBytes (head tail : Nat) : BMap 8 :=
  BMap.writeNat (BMap.writeNat (BMap.writeNat (BMap.writeNat (BMap.writeNat tables 0x10000 8 head) 0x10008 8 tail)
    0x10010 8 0x20000) 0x10018 1 1) 0x10019 1 8

def stateRing (head tail : Nat) : State :=
  { state1 (regs [(5, 0x10000), (6, 0x30000)]) with mem := ringBytes head tail }

theorem witness_Rings :
    (Instr.enq ⟨0, 4, 5, 0, 0, 0, 0, 0, 0⟩ ⟨4, 2, 6, 0, 0⟩).wellFormed = true ∧
    (Instr.deq ⟨0, 4, 5, 0, 0, 0, 0, 0, 0⟩ ⟨4, 1, 6, 0, 0⟩).wellFormed = true ∧
    (stateRing 3 5).Ready 0 [5, 6] ∧
    (∀ ht ∈ [(3, 3), (3, 4), (3, 5)], let s := stateRing ht.1 ht.2
      let cb : Acc := { mkAcc s 0 0 (s.source 5) 0 32 true true 0 with align := 64, win := .globalOnly, host := false }
      let buf (w : Bool) : Acc := { mkAcc s 0 0 (s.source 6) 0 8 (!w) w 0 with align := 8, win := .noPrivate, host := false }
      let slot : Acc :=
        { lane := 0, addr := some 0x20008, size := 8, align := 8, read := false, write := true, win := .globalOnly,
          host := false, thread := false, ctx := 1 }
      (s.check cb).toOption = some (.here (memSpan 0x10000 32)) ∧ BMap.readNat s.mem 0x10000 8 = ht.1 ∧
      BMap.readNat s.mem 0x10008 8 = ht.2 ∧ BMap.readNat s.mem 0x1001A 6 = 0 ∧ BMap.readNat s.mem 0x10018 1 = 1 ∧
      BMap.readNat s.mem 0x10019 1 = 8 ∧ (s.check (buf true)).toOption = some (.here (memSpan 0x30000 8)) ∧
      (s.check (buf false)).toOption = some (.here (memSpan 0x30000 8)) ∧
      ((s.touch cb).touch (buf true)).ringAt 0x10000 = s.ringAt 0x10000 ∧
      ((s.touch cb).touch (buf false)).ringAt 0x10000 = s.ringAt 0x10000 ∧
      (((s.touch cb).touch (buf false)).check slot).toOption = some (.here (memSpan 0x20008 8))) :=
  ⟨by decide +kernel, by decide +kernel, ready_of (by decide +kernel), by decide +kernel⟩

/-- The word at s5 is 0, the comparand 0 or 1 and the timeout 0 or 1; a word of another device. -/
theorem witness_WaitOnWord :
    (∀ c ∈ ([0, 1, 2, 3, 4, 5, 6] : List Nat),
      (Instr.waitc ⟨0, 7, 5, 7, 0, 0, 0, 3, 0⟩ ⟨4, 1, 8, BitVec.ofNat 12 c, 0⟩).wellFormed = true) ∧
    (let s := state1 (regs [(5, 0x10000), (7, 1), (8, 1)])
     s.Ready 0 [5, 8, 7] ∧ s.g.pend = .idle ∧ (s.check { mkAcc s 0 0 (s.source 5) 0 8 true false 0 with
        win := .globalOnly, host := false }).toOption = some (.here (memSpan 0x10000 8)) ∧
      waitCond 1 (BitVec.ofNat 64 (s.readSpans (memSpan 0x10000 8))) (s.source 8) = true ∧
      waitCond 0 (BitVec.ofNat 64 (s.readSpans (memSpan 0x10000 8))) (s.source 8) = false ∧
      (s.source 7).toNat ≠ 0 ∧ (s.source 0).toNat = 0 ∧ s.shelf = []) ∧
    (let s := state1 { regs [(5, 0x10000)] with n := [(1, 0x4001)] }
     (s.check { mkAcc s 0 (s.g.r.getN 1) (s.source 5) 0 8 true false 0 with win := .globalOnly, host := false }).toOption =
      some (.away (0x4001 * 2 ^ 57 + 0x10000))) :=
  ⟨by decide +kernel, ⟨ready_of (by decide +kernel), by decide +kernel⟩, by decide +kernel⟩

/-- A barrier object at scratchpad offset 16 that expects 2 with 1 arrived, one that expects 0, and the counts 1 and
2^20. -/
theorem witness_BarrierObjects :
    (Instr.bari ⟨0, 7, 6, 0, 0, 0, 0, 4, 0⟩ ⟨1, 0, 0, 0, 16⟩).wellFormed = true ∧
    (Instr.bara ⟨0, 7, 6, 0, 0, 0, 0, 4, 0⟩ ⟨1, 0, 0, 0, 16⟩).wellFormed = true ∧
    (Instr.barw ⟨0, 0, 6, 0, 0, 0, 0, 4, 0⟩ ⟨1, 0, 7, 0, 16⟩).wellFormed = true ∧
    (let s : State := { state1 (regs [(6, 0x1FF000000000000), (7, 2 ^ 20)]) with
        blocks := [{ block1 with scratch := [(16, 2), (20, 1), (24, 5)] }] }
     s.Ready 0 [6, 7] ∧ (s.findBlock s.g.p.id.launch s.g.p.id.block).isSome ∧ s.g.held = [] ∧
      (∀ w ∈ [true, false], (s.check { mkAcc s 0 0 (s.source 6) 16 16 true w 0 with win := .scratchOnly }).toOption =
        some (.here [{ scratch := true, at_ := 16, len := 16 }])) ∧
      (1 ≤ (s.source 7).toNat ∧ (s.source 7).toNat ≤ 2 ^ 20) ∧ BMap.readNat s.scratch 16 4 = 2 ∧
      BMap.readNat s.scratch 20 4 = 1 ∧ BMap.readNat s.scratch 24 4 = 5 ∧ BMap.readNat s.scratch 28 4 = 0 ∧
      BMap.readNat s.scratch 24 4 ≠ (s.source 7).toNat % 2 ^ 32) ∧
    BMap.readNat (state1 (regs [])).scratch 16 4 = 0 := by
  refine ⟨?_, ?_, ?_, ⟨ready_of ?_, ?_, rfl, ?_⟩, ?_⟩ <;> decide +kernel

/-- A copy of 16 bytes from mapped memory to the scratchpad, with the token at 0 and at 15. -/
theorem witness_CopyAndPrefetch :
    (Instr.acp ⟨0, 6, 5, 7, 0, 0, 0, 3, 0⟩ ⟨1, 0, 0, 3, 0⟩).wellFormed = true ∧
    (Instr.bpf ⟨0, 0, 5, 7, 0, 0, 0, 0, 0⟩ ⟨0, 0, 0, 15, 0⟩).wellFormed = true ∧
    (Instr.bpf ⟨0, 0, 5, 7, 0, 0, 0, 0, 0⟩ ⟨0, 0, 6, 2048, 0⟩).wellFormed = true ∧
    (let s := state1 { regs [(5, 0x10000), (6, 0x1FF000000000000), (7, 16)] with tok := [(15, 15)] }
     let dst : Acc := { mkAcc s 0 0 (s.source 6) 0 16 false true 0 with align := 8, win := .noPrivate, thread := false, eats := false }
     let src : Acc := { mkAcc s 0 0 (s.source 5) 0 16 true false 0 with align := 8, win := .noPrivate, thread := false, eats := false }
     let k : JobKind := .acp 3 (dst.addr.getD 0) (src.addr.getD 0) 16 1
     s.Ready 0 [6, 5, 7] ∧ s.Ready 0 [5, 7] ∧ s.Ready 0 [5, 7, 6] ∧ s.g.pend = .idle ∧
      (s.findBlock s.g.p.id.launch s.g.p.id.block).isSome ∧ s.acpFaults dst src 16 8 = [] ∧
      s.isLocal (dst.addr.getD 0) = true ∧ s.isLocal (src.addr.getD 0) = true ∧ s.g.r.getTok 3 < 15 ∧
      15 ≤ s.g.r.getTok 15 ∧ s.engineFull s.g.p.core k = false ∧
      s.engineFull s.g.p.core (.bpf (.token 3) (some 0x10000) 16) = false ∧
      s.engineFull s.g.p.core (.bpf (.barrier 0) (some 0x10000) 16) = false ∧
      (s.check { mkAcc s 0 0 (s.source 6) 0 16 true true 0 with win := .scratchOnly }).toOption =
        some (.here [{ scratch := true, at_ := 0, len := 16 }])) ∧
    (∀ g, (state1 (regs [])).ownerOf g = .t) :=
  ⟨by decide +kernel, by decide +kernel, by decide +kernel,
    ⟨ready_of (by decide +kernel), ready_of (by decide +kernel), ready_of (by decide +kernel), rfl, by decide +kernel⟩,
    fun g => rfl⟩

/-- A word that reads as the walk saw it, a parked and a sleeping group, and an ordered set past its time. -/
theorem witness_HomeSlice :
    BMap.readNat (state1 (regs [])).mem 0x3000 8 = (0x0F#64).toNat ∧
    (let e : ShelfEntry :=
        { slice := 0, pa := 0x10000, size := 8, code := 0, comparand := 0, ctx := 1, who := some ⟨1, 0, 0⟩,
          deadline := some 0, wake := none }
     let s : State := { state1 (regs []) with shelf := [e], g := { group1 (regs []) with pend := .shelf none } }
     (∀ e ∈ s.shelf, e.comparand < 256 ^ e.size) ∧ s.g.p.id = ⟨1, 0, 0⟩ ∧ s.g.present = true ∧ s.g.pend = .shelf none) ∧
    (let s : State := { state1 (regs []) with g := { group1 (regs []) with pend := .sleep 3 false } }
     s.g.present = true ∧ s.g.pend = .sleep 3 false) ∧
    (let m : SetMember := { lrid := 32, operand := 1, who := ⟨1, 0, 0⟩, lane := 0, msg := none }
     let o : OrderedSet := { slice := 0, pa := 0x10000, size := 8, opc := 0, p := 2, members := [m], deadline := 0 }
     let s : State := { state1 (regs []) with sets := [o], g := { group1 (regs []) with pend := .faor [(0, none)] } }
     s.joins = [] ∧ s.sets = [o] ∧ o.deadline ≤ s.gtime ∧ o.members.all (fun m => m.msg.isNone) = true ∧
      s.g.present = true ∧ s.g.pend = .faor [(0, none)] ∧ ∀ m ∈ o.members, m.who = s.g.p.id) := by decide +kernel
/-- A level-0 descriptor of a 2 × 2 FP32 tile at 0x10000, whose operation reports on token 0. -/
def stateT : State :=
  { state1 (regs [(5, 0x10000)]) with
      mem := BMap.writeNat (BMap.writeNat (BMap.writeNat (BMap.writeNat tables 0x1000A 1 10) 0x1000C 2 2) 0x1000E 2 2)
        0x10010 4 8 }

/-- TZERO of that region passes its checks at level 0. -/
theorem witness_TileForms :
    (Instr.tzero ⟨0, 5, 0, 0, 0, 0, 0⟩ ⟨0, 0, 0, 0, 3⟩).wellFormed = true ∧ stateT.Ready 0 [5] ∧ stateT.g.pend = .idle ∧
    stateT.g.present = true ∧
    (let kept : TKept :=
        { opc := 0xA6, min := 0, regs := [some 0x10000, none, none], exp := 0, scope := 0, imm := 3, pc := 0 };
     (SMap.get default stateT.g.recs 3).state ≠ 1 ∧ ((stateT.prepare 0 3 true kept).toOption.any fun ready =>
      ready.level == 0 && decide (stateT.tileReqs ready.op 0 1 0 true = []) && (stateT.rangeFault ready.op 0 1 0).isNone &&
      (stateT.tileOwner ready.level ready.op ready.reads ready.writes 0).isNone && !stateT.engineFull 0 (.tile 3 0 0 0 ready.op) &&
      decide (ready.target = .token 0) && decide (block1.full ready.reads = false)) = true) ∧
    (stateT.leaseOf 0).holder = none ∧ stateT.jobs = [] ∧ stateT.g.frozen = false ∧ stateT.g.r.getTok 0 < 15 ∧
    (let s : State := { stateT with g := { stateT.g with recs := [(3, { (default : TRec) with state := 1 })] } }
     s.Ready 0 [5] ∧ (SMap.get default s.g.recs 3).state = 1) :=
  ⟨by decide +kernel, ready_of (by decide +kernel), rfl, rfl, by decide +kernel, by decide +kernel, rfl, rfl,
    by decide +kernel, ready_of (by decide +kernel), rfl⟩

/-- The same operation with its token at 15, at level 1, where another waits for the executor, and of a faulted record
that TRSM starts again. -/
theorem witness_TileForms_more :
    (let kept : TKept :=
        { opc := 0xA6, min := 0, regs := [some 0x10000, none, none], exp := 0, scope := 0, imm := 3, pc := 0 }
     let one : State := { stateT with mem := BMap.writeNat stateT.mem 0x1000B 1 1 }
     let key := one.execKey one.g.p.id 1
     let queued : State := { one with execQ := [(key, [(⟨1, 0, 0⟩, 2)])] }
     let faulted : State := { stateT with g := { stateT.g with recs := [(3, { (default : TRec) with state := 3, kept := kept })] } }
     (Instr.trsm ⟨0, 0, 0, 0, 0, 0, 0⟩ ⟨0, 0, 0, 0, 3⟩).wellFormed = true ∧ one.Ready 0 [5] ∧ faulted.Ready 0 [] ∧
     ((one.prepare 0 3 true kept).toOption.any fun ready => ready.level == 1 &&
        decide (one.tileOwner ready.level ready.op ready.reads ready.writes 0 = none) && decide (block1.full ready.reads = false)) = true ∧
     SMap.get [] queued.execQ key ≠ [] ∧
     ((queued.prepare 0 3 true kept).toOption.any fun ready => ready.level == 1) = true ∧
     one.recBusy one.g.p.id 3 = false ∧
     ({ stateT with g := { stateT.g with r := { stateT.g.r with tok := [(0, 15)] } } } : State).g.r.getTok 0 = 15 ∧
     (SMap.get default faulted.g.recs 3).state = 3 ∧ (SMap.get default faulted.g.recs 3).bitmap = [] ∧
     ((faulted.prepare 0 3 false kept).toOption.any fun ready => ready.level == 0) = true) := by
  refine ⟨?_, ready_of ?_, ready_of ?_, ?_⟩ <;> decide +kernel

def putDesc (m : BMap 8) (addr fmt rows cols stride slot base : Nat) : BMap 8 :=
  [(0, 8, base), (10, 1, fmt), (12, 2, rows), (14, 2, cols), (16, 4, stride), (40, 1, slot), (44, 4, 2)].foldl
    (fun m x => BMap.writeNat m (addr + x.1) x.2.1 x.2.2) m

/-- Level-0 descriptors at 0x10000 (slot 0) and 0x10040 (slot 1), of tiles that report on token 2. -/
def stateTiles (fd fa rd cd ra ca : Nat) : State :=
  { state1 (regs [(5, 0x10000), (6, 0x10040)]) with
    mem := putDesc (putDesc tables 0x10000 fd rd cd 128 0 0x10100) 0x10040 fa ra ca 128 1 0x10200 }

def tileOf (s : State) (addr : Nat) : TDesc × TIssue := parseDesc addr (s.readSpans (memSpan addr 64))

theorem ok_of {α β : Type} {x : Except α β} {b : β} (h : x.toOption = some b) : x = .ok b := by
  cases x <;> simp_all [Except.toOption]

/-- The conditions of a level-0 form, for a form without memory tiles or with a local one. -/
theorem tilesOk_of (s : State) (opc min e arow acol : Nat) (d : TDesc) (a b : Option TDesc) (sp : Nat → List Span)
    (h0 : ((d :: (a.toList ++ b.toList)).all (fun x => !x.cw && !x.scaled) && (tileFormatsD opc).contains d.fmt &&
      (a.toList ++ b.toList).all (fun x => (tileFormatsAB opc).contains x.fmt)) = true)
    (h1 : shapesAgree opc min d a b)
    (h2 : (slotTiles opc d a b).all (fun x => decide (x.imageAt + x.imageLen ≤ s.g.u.scratch)) = true)
    (h4 : (opc = 0xA2 ∨ opc = 0xAA → ((a.toList ++ b.toList).all fun x =>
        decide (d.imageAt + d.imageLen ≤ x.imageAt ∨ x.imageAt + x.imageLen ≤ d.imageAt)) = true) ∧
      (arow + d.rows ≤ 128 ∧ acol + (if opc = 0xA4 then (a.map TDesc.cols).getD 0 else d.cols) ≤ 256) ∧
      d.slot + ceilDiv (d.rows * d.cols * e) 2048 ≤ 256 ∧ (d.cols * e ≤ d.stride ∧ d.stride % e = 0) ∧ d.loc = 0)
    (h9 : opc ∈ [0xA0, 0xA1, 0xA3, 0xA9] → ∀ i ∈ List.range d.rc, d.base + i * d.stride < 2 ^ 57 ∧
      (s.check (rowAcc s opc 0 d e i (d.cc * e))).toOption = some (.here (sp i))) :
    TilesOk s opc min 0 e arow acol d a b := by
  simp only [Bool.and_eq_true, List.all_eq_true, Bool.not_eq_true', List.contains_iff_mem, decide_eq_true_eq] at h0 h2 h4
  obtain ⟨h4, h5, h6, h7, h8⟩ := h4
  exact ⟨h0.1.1, h0.1.2, h0.2, h1, h2, h4, fun _ _ => h5, fun _ => h6, fun _ => h7,
    fun h => ⟨.inl h8, fun i hi _ => ⟨(h9 h i (List.mem_range.2 hi)).1, sp i,
      ok_of (h9 h i (List.mem_range.2 hi)).2⟩⟩⟩

/-- A transposed copy, a load from memory, a product and a contribution to memory meet the conditions. -/
theorem witness_TileForms_tiles :
    (let s := stateTiles 10 9 2 3 3 2
     TilesOk s 0xA2 1 0 4 0 0 (tileOf s 0x10000).1 (some (tileOf s 0x10040).1) none) ∧
    (let s := stateTiles 10 10 2 2 2 2
     TilesOk s 0xA0 0 0 4 0 0 (tileOf s 0x10000).1 none none) ∧
    (let s := stateTiles 12 13 2 32 32 2
     TilesOk s 0xA4 1 0 1 3 5 (tileOf s 0x10000).1 (some (tileOf s 0x10040).1) none) ∧
    (let s := stateTiles 14 9 2 3 2 3
     TilesOk s 0xA9 4 0 16 0 0 (tileOf s 0x10000).1 (some (tileOf s 0x10040).1) none) := by
  refine ⟨?_, ?_, ?_, ?_⟩
  · exact tilesOk_of _ _ _ _ _ _ _ _ _ (fun _ => []) (by decide +kernel) (by constructor <;> decide +kernel) (by decide +kernel)
      (by decide +kernel) (by decide +kernel)
  · exact tilesOk_of _ _ _ _ _ _ _ _ _ (fun i => memSpan (0x10100 + 128 * i) 8) (by decide +kernel) trivial (by decide +kernel)
      (by decide +kernel) (by decide +kernel)
  · exact tilesOk_of _ _ _ _ _ _ _ _ _ (fun _ => []) (by decide +kernel) (by constructor <;> decide +kernel) (by decide +kernel)
      (by decide +kernel) (by decide +kernel)
  · exact tilesOk_of _ _ _ _ _ _ _ _ _ (fun i => memSpan (0x10100 + 128 * i) 48) (by decide +kernel) (by constructor <;> decide +kernel) (by decide +kernel)
      (by decide +kernel) (by decide +kernel)

/-- No granule of a block whose owner states are all T is in the way. -/
theorem tilesIdle_of (s : State) (opc : Nat) (d : TDesc) (a b : Option TDesc)
    (h : (s.findBlock s.g.p.id.launch s.g.p.id.block).map Block.owner = some []) : TilesIdle s opc d a b := by
  intro _ _ g _ _
  cases hb : s.findBlock s.g.p.id.launch s.g.p.id.block with
  | none => simp [State.ownerOf, hb]
  | some b => simp [hb] at h; simp [State.ownerOf, hb, h, SMap.get]

theorem witness_TileForms_idle :
    let s := stateTiles 10 9 2 3 3 2
    TilesIdle s 0xA2 (tileOf s 0x10000).1 (some (tileOf s 0x10040).1) none := tilesIdle_of _ _ _ _ _ rfl

/-- The issue fields, the checks of the descriptors' reads and the engine's room in those states. -/
theorem witness_TileForms_issue :
    (let s := stateTiles 10 9 2 3 3 2
     (Instr.tcp ⟨0, 5, 6, 0, 1, 0, 0⟩ ⟨0, 0, 0, 0, 3⟩).wellFormed = true ∧ s.Ready 0 [5, 6] ∧ s.g.pend = .idle ∧
      s.g.present = true ∧ s.g.frozen = false ∧ s.jobs = [] ∧ (SMap.get default s.g.recs 3).state = 0 ∧
      (s.check (s.descAcc 0 0x10000)).toOption = some (.here (memSpan 0x10000 64)) ∧
      (s.check (s.descAcc 0 0x10040)).toOption = some (.here (memSpan 0x10040 64)) ∧
      (tileOf s 0x10000).2 = { lvl := 0, plan := 0, done := 2, bad := false } ∧ (tileOf s 0x10040).2.bad = false ∧
      s.g.r.getTok 2 < 15 ∧ s.engineFull 0 (.tile 3 0 0 0 { (default : TOp) with opc := 0xA2 }) = false) :=
  ⟨by decide +kernel, ready_of (by decide +kernel), by decide +kernel⟩

/-- A record that is idle, one that runs; a lease that is free, the group's own and another's; a valid and an invalid
format entry. -/
theorem witness_TileSystemForms :
    (Instr.trsm ⟨0, 0, 0, 0, 0, 0, 0⟩ ⟨0, 0, 0, 0, 15⟩).wellFormed = true ∧
    (∀ m ∈ ([0, 1, 2, 3, 4] : List Nat),
      (Instr.tbmap ⟨0, 5, 0, 0, BitVec.ofNat 8 m, 0, 0⟩ ⟨0, 0, 0, 0, 15⟩).wellFormed = true) ∧
    (Instr.tlease ⟨0, 0, 0, 0, 0, 0, 0⟩ ⟨0, 0, 0, 0, 0⟩).wellFormed = true ∧
    (∀ m ∈ ([0, 1] : List Nat), (Instr.tfree ⟨0, 0, 0, 0, BitVec.ofNat 8 m, 0, 0⟩ ⟨0, 0, 0, 0, 0⟩).wellFormed = true) ∧
    (Instr.tfmt ⟨0, 0, 5, 0, 0x41, 0, 0⟩ ⟨0, 0, 0, 0, 0⟩).wellFormed = true ∧ stateT.Ready 0 [] ∧ stateT.Ready 0 [5] ∧
    stateT.g.pend = .idle ∧ (SMap.get default stateT.g.recs 15).state = 0 ∧ (stateT.leaseOf 0).holder = none ∧
    stateT.hasArrayWork stateT.g.p.id = false ∧
    (let s : State := { stateT with leases := [(0, { (default : Lease) with holder := some ⟨1, 0, 0⟩ })] }
     s.Ready 0 [] ∧ (s.leaseOf s.g.p.core).holder = some s.g.p.id) ∧
    (let s : State := { stateT with leases := [(0, { (default : Lease) with holder := some ⟨9, 0, 0⟩ })] }
     s.Ready 0 [] ∧ (s.leaseOf s.g.p.core).holder = some ⟨9, 0, 0⟩ ∧ (⟨9, 0, 0⟩ : GRef) ≠ s.g.p.id) ∧
    (let acc : Acc := { lane := 0, addr := some 0x10000, size := 8, align := 8, read := true,
                        bad := Config.canonAddr 0 0x10000 % 2 ^ 72, ctx := 1 }
     (stateT.check acc).toOption = some (.here (memSpan 0x10000 8))) ∧
    (0x0001000000000388#64).extractLsb' 14 34 = 0 ∧ (0x4000#64).extractLsb' 14 34 ≠ 0 := by
  refine ⟨?_, ?_, ?_, ?_, ?_, ready_of ?_, ready_of ?_, rfl, rfl, rfl, ?_, ⟨ready_of ?_, rfl⟩, ⟨ready_of ?_,
    rfl, ?_⟩, ?_⟩ <;> decide +kernel

def job (k : JobKind) : Job :=
  { id := 4, who := ⟨1, 0, 0⟩, ctx := 1, kind := k, start := 0, reqs := [], data := [], writing := false }

/-- A copy within the scratchpad, a prefetch, and a child of level 0. -/
theorem witness_EngineCompletion :
    (let j := job (.acp 3 0x1FF000000000000 0x1FF000000001000 16 1)
     let s : State := { state1 { regs [] with tok := [(3, 1)] } with jobs := [j] }
     s.jobs = [j] ∧ j.who = s.g.p.id ∧ s.g.present = true ∧ s.isLocal 0x1FF000000000000 = true ∧
      winScratch ≤ localOf 0x1FF000000001000 ∧ (s.findBlock s.g.p.id.launch s.g.p.id.block).isSome ∧
      localOf 0x1FF000000000000 - winScratch + 16 ≤ localOf 0x1FF000000001000 - winScratch) ∧
    (let j := job (.bpf (.token 3) (some 0x10000) 16)
     let s : State := { state1 { regs [] with tok := [(3, 1)] } with jobs := [j] }
     s.jobs = [j] ∧ j.who = s.g.p.id ∧ s.g.present = true) ∧
    (let j := job (.tile 3 0 0 0 default)
     let r : TRec := { (default : TRec) with state := 1, target := .token 2 }
     let s : State := { state1 { regs [] with tok := [(2, 1)] } with
        jobs := [j], g := { group1 { regs [] with tok := [(2, 1)] } with recs := [(3, r)] } }
     s.jobs = [j] ∧ j.who = s.g.p.id ∧ (SMap.get default s.g.recs 3).state = 1 ∧
      (SMap.get default s.g.recs 3).level = 0 ∧ (SMap.get default s.g.recs 3).reports = [] ∧
      (SMap.get default s.g.recs 3).target = .token 2) := by decide +kernel

/-- The transposed copy under way, as the one job of its group. -/
def stateRuns (opc min : Nat) (d a : TDesc) (useA : Bool) (s : State) : State :=
  let op : TOp := { (default : TOp) with opc := opc, min := min, d := some d, a := if useA then some a else none }
  { s with
    jobs := [job (.tile 3 0 0 0 op)]
    g := { s.g with recs := [(3, { (default : TRec) with state := 1, target := .token 2, writes := [0], op := op })] } }

/-- A copy under way meets the premises of its result, and so do a load and a weight load, whose page has been accessed. -/
theorem witness_TileResults :
    (let s0 := stateTiles 10 9 2 3 3 2
     let d := (tileOf s0 0x10000).1
     let a := (tileOf s0 0x10040).1
     let s := stateRuns 0xA2 1 d a true s0
     TilesOk s 0xA2 1 0 4 0 0 d (some a) none ∧ d.empty = false ∧ s.poison = [] ∧ s.scratchPoison = [] ∧ s.g.arr.bad = [] ∧
      (s.findBlock s.g.p.id.launch s.g.p.id.block).isSome ∧ (SMap.get default s.g.recs 3).state = 1 ∧
      (SMap.get default s.g.recs 3).level = 0 ∧ (SMap.get default s.g.recs 3).reports = [] ∧
      (SMap.get default s.g.recs 3).bitmap = [] ∧ (SMap.get default s.g.recs 3).target = .token 2 ∧ sizeOfD 0xA2 1 d = 4 ∧
      d.rc ≤ d.rows ∧ d.cc ≤ d.cols ∧ a.rc ≤ a.rows ∧ a.cc ≤ a.cols ∧
      ∀ i < d.rc, (s.check (rowAcc s 0xA2 0 d 4 i (d.cc * 4))).toOption = some (.here (memSpan (0x10100 + 128 * i) 12))) := by
  refine ⟨tilesOk_of _ _ _ _ _ _ _ _ _ (fun _ => []) (by decide +kernel) (by constructor <;> decide +kernel)
    (by decide +kernel) (by decide +kernel) (by decide +kernel), ?_⟩
  decide +kernel

/-- The walks of a tile's page change nothing once its entry has A and D. -/
theorem witness_TileResults_touched :
    let s0 := stateTiles 12 12 2 32 32 3
    let s : State := { s0 with mem := (s0.touchPages 1 true 2 0x10200 4).mem }
    ∀ i < 32, s.touchPages 1 false 2 (0x10200 + 128 * i) 3 = s := by decide +kernel

/-- Two children of level 1, one with a failed request; a lease past its tenure that another partition asks for. -/
theorem witness_TileChildrenAndLease :
    (let j : Job := { job (.tile 3 0 1 0 default) with writing := true }
     let y : Job := { job (.tile 3 1 1 0 default) with id := 5 }
     let s : State := { state1 (regs []) with jobs := [j, y] }
     s.kidJob j.who 3 0 = some j ∧ reqsFault j.reqs j.writing = none ∧ j.who = s.g.p.id ∧ s.g.present = true ∧
      y ∈ s.jobs ∧ y.id ≠ j.id ∧ y.who = j.who) ∧
    (let q : ReqOut := { tag := 0, msg := default, lanes := [], deadline := 0, answer := some .timeout }
     (reqsFault [q] true).isSome = true) ∧
    (let s : State := { state1 (regs []) with
        others := [{ group1 (regs []) with p := { (group1 (regs [])).p with id := ⟨1, 0, 1⟩, part := 1 } }]
        leases := [(0, { holder := some ⟨1, 0, 0⟩, count := 32, since := 0, asks := [⟨1, 0, 1⟩] })] }
     (s.leaseOf 0).holder = some ⟨1, 0, 0⟩ ∧ 32 ≤ (s.leaseOf 0).count ∧ (s.leaseOf 0).asks = [⟨1, 0, 1⟩] ∧
      s.partOf ⟨1, 0, 1⟩ ≠ s.partOf ⟨1, 0, 0⟩ ∧ s.hasArrayWork ⟨1, 0, 0⟩ = false) ∧
    (state1 (regs [])).leaseOf 0 = { holder := none, count := 0, since := 0, asks := [] } := by decide +kernel

/-- A translation of two empty bundles, the first a commit bundle. -/
def xlat : Translation :=
  { (default : Translation) with
      id := 7, ctx := 1, entry := 0x8000, vw0 := 16, vw1 := 16, sw := 16, bundles := [1#256 <<< 255, 0],
      rows := [{ vpc := 0x8000, boff := 0, flags := 1, entries := [] }] }

def stateN : State :=
  { state1 (regs []) with
      g := { group1 (regs []) with nat := { (default : Native) with on := true, tid := 7, home := 0x8000, npc := lanes.map fun l => (l, 1) } }
      xlats := [xlat] }

theorem witness_NativeBundles :
    (Instr.ibset 0 0x201 1023).wellFormed = true ∧ stateN.g.bundleActive 0 ≠ [] ∧ stateN.g.bundleActive 1 = [] ∧
    stateN.xlatOf stateN.g = some xlat ∧ stateN.g.differs xlat (stateN.g.bundleActive 0) 1 2 = false ∧
    (let s : State := { stateN with g := { stateN.g with nat := { stateN.g.nat with va := [(32, 1)] } } }
     s.g.differs xlat (s.g.bundleActive 0) 1 2 = true ∧ s.xlatOf s.g = some xlat ∧ s.g.nat.mid = none) ∧
    stateN.g.p.id = ⟨1, 0, 0⟩ ∧ stateN.g.present = true ∧ stateN.g.nat.on = true ∧
    xlat.bundles[stateN.g.bundleIndex]? = some 0 ∧ bundleOk xlat stateN.g.bundleIndex = true ∧
    stateN.g.nat.ibPend = [] ∧ stateN.g.nat.flight = [] ∧
    (let x : Flight := { due := 0, seq := 0, place := .sca 0, value := 0, missing := true }
     let s : State := { stateN with g := { stateN.g with nat := { stateN.g.nat with flight := [x] } } }
     s.g.nat.flight = [x] ∧ x.due ≤ s.g.nat.pos) ∧
    (state1 (regs [])).xlatOf (state1 (regs [])).g = none ∧ stateN.g.nat.mid = none ∧
    (state1 (regs [])).g.nat.on = false ∧ (state1 (regs [])).xlats = [] ∧ (state1 (regs [])).olds = [] := by decide +kernel

/-- An ICINV in progress, a group at a stub, an offered translation, and a hot and a cold one. -/
theorem witness_TranslationService :
    (let e : Icinv := { id := 0, who := ⟨1, 0, 0⟩, ctx := 1, start := 0x8000, len := 8 }
     let s : State := { stateN with icinvs := [e] }
     s.icinvs.find? (fun x => x.id == 0) = some e ∧ s.g.p.id = e.who ∧ s.g.present = true) ∧
    (state1 (regs [])).icinvs.find? (fun e => e.id == 0) = none ∧
    (let s : State := { state1 (regs []) with gtime := 100000000, g := { group1 (regs []) with pend := .xlate 0x8000 0 } }
     s.g.pend = .xlate 0x8000 0 ∧ 0x8000 < 0x1FD * 2 ^ 48 ∧ 0 + 100000000 ≤ s.gtime) ∧
    (let x : Translation := { xlat with words := [(0x8000, 0)] }
     let s : State := { stateN with xlats := [x], g := { stateN.g with pend := .xlate 0x8000 0 } }
     let stands (t : Translation) : Bool := t.ctx == s.g.p.ctx && t.xchk == s.g.u.xchk &&
        ((t.entry == 0x8000 && !t.words.isEmpty) || (SMap.find? t.words 0x8000).isSome)
     s.xlats.find? stands = some x ∧ (state1 (regs [])).xlats.find? stands = none ∧ s.g.pend = .xlate 0x8000 0) ∧
    stateN.olds = [] ∧ xlatOk xlat = true ∧ stateN.wordsNow xlat = true ∧ stateN.hoistsOk xlat = true ∧
    stateN.bundlesUsed + xlat.bundles.length ≤ 2 ^ 29 ∧ xlatOk { xlat with bundles := [BitVec.allOnes 256] } = false ∧
    (let p : Profile := { (default : Profile) with entries := 10001 }
     let s : State := { stateN with profiles := [(7, p)] }
     s.gtime ≤ (SMap.get default s.profiles 7).window + 100000000 ∧ 10000 < (SMap.get default s.profiles 7).entries) ∧
    (let p : Profile := { (default : Profile) with aborts := [(3, 8)] }
     let s : State := { stateN with profiles := [(7, p)] }
     s.gtime ≤ (SMap.get default s.profiles 7).window + 100000000 ∧
      ∃ a ∈ (SMap.get default s.profiles 7).aborts, 8 ≤ a.2) ∧
    ((SMap.get default stateN.profiles 7).entries ≤ 10000 ∧ (SMap.get default stateN.profiles 7).clk = 0 ∧
      (SMap.get default stateN.profiles 7).aborts = []) := by decide +kernel

/-- System queue 0's control block at physical 0, full and with room. -/
theorem witness_TranslatorKernelStart :
    (let s := state1 (regs [])
     (s.ringAt (s.cbAt 0)).fill ≠ 2 ^ (s.ringAt (s.cbAt 0)).logcap) ∧
    (let s : State := { state1 (regs []) with mem := BMap.writeNat tables (0 + 8) 8 1 }
     (s.ringAt (s.cbAt 0)).fill = 2 ^ (s.ringAt (s.cbAt 0)).logcap) ∧
    (let s : State := { state1 (regs []) with
        ctxs := [{ context1 with id := 0 }]
        mem := BMap.writeNat (BMap.writeNat tables 16 8 0x20000) 25 1 64 }
     let r := s.ringAt (s.cbAt 0)
     r.valid = true ∧ r.esize = 64 ∧ r.fill < 2 ^ r.logcap ∧
      (s.slotSpans 0 r r.tail true).toOption = some (memSpan 0x20000 64) ∧ s.shelf = []) := by decide +kernel

/-- The loader ring of context 1 at 0x10000, of one slot at 0x20000 that holds a record of the KIND and base given. -/
def stateLd (kind loc : Nat) : State :=
  { state1 (regs []) with
      ctxs := [{ context1 with loader := 0x10000 }]
      mem := BMap.writeNat (BMap.writeNat (BMap.writeNat (BMap.writeNat (BMap.writeNat (BMap.writeNat (BMap.writeNat
        tables 0x10008 8 1) 0x10010 8 0x20000) 0x10019 1 64) 0x20000 1 kind) 0x20002 2 1) 0x20008 8 loc) 0x20010 8 64 }

theorem witness_ObjectService :
    (state1 (regs [])).loaderHead 1 = none ∧
    (∀ k ∈ ([0, 1, 2] : List Nat), ((stateLd k 0x40000).loaderHead 1).any (fun x => fieldAt x.1 0 1 == k &&
      (requestOk 1 x.1 == decide (k ≤ 1)) && ((k != 0) || (x.2.readCtx 1 (fieldAt x.1 8 8) (fieldAt x.1 16 8) == some 0))) = true) ∧
    fieldAt 0 0 4 ≠ 0x464C457F ∧
    (let o : LObject := { (default : LObject) with ctx := 1, handle := 0, kdescs := [0x6000] }
     let s : State := { stateLd 1 0 with objects := [o] }
     (s.loaderHead 1).any (fun x => (x.2.objects.find? fun o => o.ctx == 1 && o.handle == fieldAt x.1 40 8) == some o &&
       x.2.launches.isEmpty) = true) ∧
    (let o : LObject := { (default : LObject) with
        ctx := 1, slots := [{ addr := 0x5000, name := [65], index := some 2 }],
        defs := [{ name := [65], value := 0x8000, strong := true }] }
     let s : State := { state1 (regs []) with
        objects := [o], g := { group1 (regs []) with pend := .xlate (0x1FD * 2 ^ 48 + 16) 0 } }
     s.g.present = true ∧ s.g.p.ctx = 1 ∧ s.others = [] ∧
      s.slotOf 1 2 = some { addr := 0x5000, name := [65], index := some 2 } ∧ lookupIn (s.scope 1) [65] = some 0x8000 ∧
      lookupIn (s.scope 1) [66] = none ∧
      s.slotHolds 1 { addr := 0x5000, name := [65], index := some 2 } (0x1FD * 2 ^ 48 + 16) = false) := by decide +kernel

/-- An object with no section, whose header is that of R274. -/
def emptyObject : Nat :=
  0x464C457F + 2 * 256 ^ 4 + 256 ^ 5 + 256 ^ 6 + 256 ^ 8 + 3 * 256 ^ 16 + 0xD7E5 * 256 ^ 18 + 256 ^ 20 + 64 * 256 ^ 40 +
    0x0100 * 256 ^ 48 + 64 * 256 ^ 52 + 64 * 256 ^ 58

theorem witness_ObjectServiceLoad :
    ((state1 (regs [])).tryLoad 1 emptyObject 64 0x80000000 false false).toOption.any (fun l => l.base == 0x80000000) =
      true := by decide +kernel

theorem witness_MemoryService :
    (state1 (regs [])).g.present = true ∧ (state1 (regs [])).g.pend = .idle ∧ (state1 (regs [])).shelf = [] ∧
    (let t : Trap := { cause := .page, va := winPrivate, aux := 0 }
     let s : State := { state1 (regs []) with g := { group1 (regs []) with pend := .service t none } }
     s.g.pend = .service t none ∧ winPrivate ≤ localOf t.va ∧ localOf t.va < winScratch) ∧
    (let t : Trap := { cause := .page, va := 0x5000, aux := 0 }
     let s : State := { state1 (regs []) with g := { group1 (regs []) with pend := .service t none } }
     s.g.pend = .service t none ∧ localOf t.va < winPrivate) ∧
    (let s : State := { state1 (regs []) with g := { group1 (regs []) with pend := .privsize 4096 none } }
     s.g.pend = .privsize 4096 none) ∧
    (state1 (regs [])).pinned 1 = false ∧
    ({ state1 (regs []) with jobs := [job (.bpf (.token 0) none 0)] } : State).pinned 1 = true := by decide +kernel

/-- A launch of one block of one group that runs on core 0. -/
def kdesc1 : KDesc := { (default : KDesc) with entry := 0x8000, scratch := 0x2000, groups := 1 }

def launch1 (runs : List BlockRun) : Launch :=
  { id := 1, ctx := 1, queue := 3, die := 0, priority := 0, kaddr := 0x6000, k := kdesc1, affbase := 2 ^ 40,
    affstride := 0, count := 1, det := false, lchk := false, xchk := false, idem := false, eclass := 0, rlvl := 0,
    rcores := 0, rdies := 0, rset := 0, pbound := 0, ckind := 0, carg := 0, caddr := 0, deps := [], ready := true,
    readySince := 0, waitSince := [], unfit := none, next := 1, runs := runs, ended := 0, res := none,
    complete := false, logBase := 0, logCap := 0, replays := [] }

def run1 (st : BStat) (p : Preempt) : BlockRun := { (default : BlockRun) with stat := st, preempt := p }

/-- An EXIT of all lanes with a token counting, with a SEND outstanding, with a record in state 1, with a barrier
arrival outstanding, with a held fault, and of the only group of the last block of a launch. -/
theorem witness_ExitForms_ends :
    let g := group1 (regs [])
    let j0 : Job := job (.bpf (.barrier 0) none 0)
    (Instr.exit ⟨0, 0, 0, 0, 0, 0, 0⟩).wellFormed = true ∧
    (∀ x ∈ [{ state1 (regs []) with g := { g with r := { regs [] with tok := [(3, 1)] } } },
        { state1 (regs []) with g := { g with sends := [⟨0, 0, 0, 0, 0, 0, 0⟩] } },
        { state1 (regs []) with g := { g with recs := [(0, { (default : TRec) with state := 1 })] } },
        { state1 (regs []) with jobs := [j0] }],
      (x.Ready 0 [] ∧ (∀ l ∈ x.g.r.live, l ∈ x.g.r.active 0)) ∧ ((∃ k, k < 16 ∧ 0 < x.g.busy k) ∨
        (∃ y ∈ x.g.recs, y.2.state = 1) ∨ x.g.sends ≠ [] ∨ (∃ j ∈ x.jobs, j.who = x.g.p.id ∧ j = j0))) ∧
    (let s : State := { state1 (regs []) with g := { g with
        r := { regs [] with tok := [(3, 1)] }, held := [⟨some 3, false, true, { cause := .fabric, va := 0, aux := 0 }⟩] } }
     s.Ready 0 [] ∧ s.undrained = false ∧ ∃ h, s.g.held = [h]) ∧
    (let l : Launch := launch1 [default]
     let s : State := { state1 (regs []) with launches := [l] }
     s.Ready 0 [] ∧ s.undrained = false ∧ s.g.held = [] ∧ s.g.present = true ∧ s.others = [] ∧
      s.launches.find? (fun x => x.id == s.g.p.id.launch) = some l ∧ l.ended + 1 = l.count) := by
  refine ⟨by decide +kernel, fun x hx => ?_, ⟨ready_of ?_, ?_, _, rfl⟩, ready_of ?_, ?_⟩ <;> try decide +kernel
  simp only [List.mem_cons, List.not_mem_nil, or_false] at hx
  rcases hx with rfl | rfl | rfl | rfl
  · exact ⟨⟨ready_of (by decide +kernel), by decide +kernel⟩, .inl ⟨3, by decide +kernel⟩⟩
  · exact ⟨⟨ready_of (by decide +kernel), by decide +kernel⟩, .inr (.inr (.inl (by simp)))⟩
  · exact ⟨⟨ready_of (by decide +kernel), by decide +kernel⟩, .inr (.inl ⟨_, .head _, rfl⟩)⟩
  · exact ⟨⟨ready_of (by decide +kernel), by decide +kernel⟩, .inr (.inr (.inr ⟨_, .head _, rfl, rfl⟩))⟩

theorem witness_ContextEndAndReplay :
    (state1 (regs [])).findCtx 9 = none ∧ (state1 (regs [])).findCtx 1 = some context1 ∧ context1.live = true ∧
    ((state1 (regs [])).jobs.any fun j => j.ctx == 1 && !j.isArray) = false ∧
    ([job (.bpf (.token 0) none 0)].any fun j => j.ctx == 1 && !j.isArray) = true ∧
    (let log : RLog := { base := 0x40000, cap := 256, used := 256, off := false, replay := false }
     let s : State := { state1 (regs []) with
        launches := [launch1 [run1 (.running 0 0) .none]], blocks := [{ block1 with log := some log }]
        g := { group1 (regs []) with pend := .log false } }
     s.g.pend = .log false ∧ s.g.present = true ∧ s.others = [] ∧ s.g.recs = [] ∧
      s.launchById 1 = some (launch1 [run1 (.running 0 0) .none]) ∧
      s.findBlock 1 0 = some { block1 with log := some log } ∧ s.shelf = []) ∧
    (state1 (regs [])).launchById 1 = none ∧ (state1 (regs [])).waitingLog ⟨1, 0, 0⟩ = none ∧
    (let o : OldLog := { l := launch1 [], block := 0, log := { base := 0, cap := 256, used := 0, off := false, replay := false } }
     let s : State := { state1 (regs []) with oldLogs := [o] }
     s.oldLogs.find? (fun o => o.l.id == 1 && o.block == 0) = some o ∧ s.launchById 1 = none ∧
      (state1 (regs [])).oldLogs = []) := by decide +kernel

/-- Queue 2 enabled, its ring at physical 128 with one record that names no kernel and one that names the loaded one. -/
def stateDq (kaddr : Nat) : State :=
  { state1 (regs []) with
      queues := [(2, { (default : DQueue) with ctx := some 1, enable := true })]
      dies := [], objects := [{ (default : LObject) with ctx := 1, kdescs := [0x6000] }]
      mem := BMap.writeNat (BMap.writeNat (BMap.writeNat (BMap.writeNat (BMap.writeNat (BMap.writeNat (BMap.writeNat
        tables (128 + 8) 8 1) (128 + 16) 8 0x20000) (128 + 25) 1 64) 0x20000 8 kaddr) 0x20014 4 1) 0x6000 8 0x8000)
        0x602C 1 1 }

theorem witness_DeskQueues :
    (∀ k ∈ ([0x6000, 0x7000] : List Nat), let s := stateDq k
      s.wants = [] ∧ s.dies = [] ∧ s.devPower ≠ 4 ∧ (s.queueOf 2).enable = true ∧
      (s.queueOf 3).enable = false ∧ (s.launches.filter fun l => l.die == s.deskOf 2 && l.pending).length < 256 ∧
      (s.ringAt (s.cbAt 2)).valid = true ∧ (s.ringAt (s.cbAt 2)).esize = 64 ∧
      (s.deqAt 1 (s.cbAt 2) 0).toOption.any (fun x => x.1 != 2 ^ 64 - 1 &&
        ((x.2.2.2.kernelAt 1 (fieldAt x.2.1 0 8)).isSome == (k == 0x6000))) = true) ∧
    (state1 (regs [])).launchById 1 = none ∧
    (let l : Launch := { launch1 [] with ready := false, deps := [(0x10000, 0)] }
     let s : State := { state1 (regs []) with launches := [l] }
     s.launches = [l] ∧ s.ctxSpans 1 0x10000 8 false = some (memSpan 0x10000 8) ∧ 0 ≤ s.readSpans (memSpan 0x10000 8)) ∧
    (let l : Launch := { launch1 [] with ended := 1 }
     let s : State := { state1 (regs []) with launches := [l] }
     s.launchById l.id = some l ∧ l.complete = false ∧ l.ended = l.count ∧ l.ckind = 0) ∧
    (let l : Launch := { launch1 [] with complete := true, ckind := 1, carg := 2, caddr := 0x10000 }
     let s : State := { state1 (regs []) with launches := [l] }
     let acc : Acc := { lane := 0, addr := some l.caddr, size := 8, align := 8, read := true, write := true,
                        win := .globalOnly, host := false, thread := false, ctx := l.ctx }
     s.launchById l.id = some l ∧ (s.check acc).toOption = some (.here (memSpan 0x10000 8))) := by decide +kernel

/-- A record that passes every check of R340. -/
theorem witness_DeskQueueRecord :
    ((stateDq 0x6000).deqAt 1 ((stateDq 0x6000).cbAt 2) 0).toOption.any (fun x =>
      match x.2.2.2.kernelAt 1 0x6000 with
      | some k => decide (x.2.2.2.recErrors 1 (BMap.readNat x.2.2.2.mem (x.2.2.2.cbAt 2 + 32) 8) k x.2.1 = [])
      | none => false) = true := by decide +kernel

/-- A ready launch whose first block the desk of die 0 places at once, and one that waited 2 µs. -/
def statePl (l : Launch) : State :=
  { State.reset with
      ctxs := [context1], mem := tables, launches := [l], gtime := 5000
      dies := [(0, { (default : DieSt) with energy := 10 ^ 15, at_ := 5000 }),
               (1, { (default : DieSt) with energy := 10 ^ 15, at_ := 5000 }),
               (2, { (default : DieSt) with energy := 10 ^ 15, at_ := 5000 }),
               (3, { (default : DieSt) with energy := 10 ^ 15, at_ := 5000 })] }

theorem witness_Placement :
    (state1 (regs [])).deskPick 0 = none ∧ (state1 (regs [])).launchById 1 = none ∧
    (let l : Launch := { launch1 [] with next := 0 }
     (match (statePl l).deskPick 0 with | some (.place m b _ seats _) => m == l && b == 0 && seats.length == 1 | _ => false) =
        true ∧ l.runOf 0 = none) ∧
    (state1 (regs [])).starving 0 = [] ∧
    (let l : Launch := { launch1 [] with next := 0, unfit := some 0 }
     ({ statePl l with gtime := 64000 } : State).starving 0 = [1]) ∧
    (let l := launch1 [run1 .saved .none]
     let s : State := { statePl l with g := group1 (regs []) }
     s.launchById l.id = some l ∧
      (match s.deskTry l with | some (.place m b _ _ _) => m == l && b == 0 | _ => false) = true ∧
      l.runOf 0 = some (run1 .saved .none) ∧ s.g.p.id.launch = l.id ∧ s.g.p.id.block = 0 ∧ s.g.recs = [] ∧
      s.g.asksLease = false ∧ s.g.present = true ∧ s.others = [] ∧ s.g.image = none) := by
  refine ⟨rfl, rfl, ?_, rfl, ?_, ?_⟩ <;> decide +kernel

/-- A save image whose version no hardware has is not accepted (R208). -/
theorem witness_Placement_image (lost : Bool) :
    ({ (default : SaveImage) with version := 65536 } : SaveImage).accepted lost = false := by
  have h : (65536 == Config.imageVersion % 65536) = false := by
    rw [beq_eq_false_iff_ne]
    exact fun e => absurd (Nat.mod_lt Config.imageVersion (by decide : 0 < 65536)) (by omega)
  simp [SaveImage.accepted, h]

/-- Receive queues that may and may not be allotted (R36, R178). -/
theorem witness_DeskQueues_allotment :
    (let s := state1 (regs [])
     (SMap.get default s.rxq 5).ctx = none ∧ s.findCtx 1 = some context1 ∧ context1.live = true ∧ s.g ∈ s.groups ∧
      s.g.p.ctx = 1) ∧
    (let s : State := { State.reset with ctxs := [context1] }
     (SMap.get default s.rxq 5).ctx = none ∧ s.findCtx 1 = some context1 ∧ context1.started = false ∧ s.groups = [] ∧
      s.launches = []) := by
  decide +kernel

/-- A block at each stage of a pre-emption. Whether a save area can be had is the opaque `Config.saveRoom`. -/
theorem witness_Preemption :
    (∀ p ∈ [Preempt.none, .drain 7, .save, .flush], let l := launch1 [run1 (.running 0 0) p]
      let s : State := { state1 (regs []) with launches := [l] }
      s.launchById l.id = some l ∧ l.runOf 0 = some (run1 (.running 0 0) p) ∧ s.gtime < 7 ∧ s.jobs = [] ∧
        (∀ g ∈ s.groups, g.recs = [] ∧ g.dbg.stopAt = [])) ∧
    (let l := launch1 [run1 .unplaced .none]
     let s : State := { state1 (regs []) with launches := [l] }
     s.launchById l.id = some l ∧ l.runOf 0 = some (run1 .unplaced .none)) := by decide +kernel
/-- A machine that has been idle since power-up for 100 s, its cores and dies in the power states given. -/
def statePw (core die dev : Nat) : State :=
  { State.reset with
      gtime := 10 ^ 11, devPower := dev
      boot := { State.reset.boot with stage := 2 }
      cores := (List.range 144).map fun c => (c, { (default : CoreSt) with power := core })
      dies := (List.range 4).map fun d => (d, { (default : DieSt) with power := die }) }

theorem witness_PowerStates :
    (let s := statePw 0 0 0
     (s.coreSt 0).power = 0 ∧ (s.coreSt 0).wakeAt = none ∧ s.latencyOk 100 = true ∧ s.latencyOk 15000 = true ∧
      (s.coreSt 0).idleSince + 100 ≤ s.gtime ∧ (s.coreSt 0).idleSince + 15000 ≤ s.gtime ∧ s.groups = [] ∧ s.jobs = [] ∧
      s.granulesUsed 0 = 0 ∧ s.stages = [] ∧ s.devPower = 0 ∧ s.devWakeAt = none ∧ (s.dieSt (dieOf 0)).power = 0 ∧
      (s.dieSt (dieOf 0)).wakeAt = none) ∧
    (let s := statePw 2 0 0
     (s.dieSt 0).power = 0 ∧ (s.dieSt 0).wakeAt = none ∧ (s.dieSt 0).off = false ∧ s.latencyOk 1500000 = true ∧
      (s.dieSt 0).since + 1500000 ≤ s.gtime ∧ s.launches = [] ∧
      (∀ c, c < 144 → dieOf c = 0 → (s.coreSt c).power = 2 ∧ (s.coreSt c).idleSince + 1500000 ≤ s.gtime)) ∧
    (let s := statePw 2 3 0
     s.devPower = 0 ∧ s.devWakeAt = none ∧ (∀ d, d < 4 → (s.dieSt d).power = 3) ∧ s.fab.out = [] ∧ s.trace.buf = [] ∧
      s.latencyOk 30000000 = true ∧ s.devSince + 30000000 ≤ s.gtime ∧
      (∀ d, d < 4 → (s.dieSt d).since + 30000000 ≤ s.gtime) ∧ (s.dieSt 0).wakeAt = none) ∧
    (let s := statePw 2 3 4
     s.devPower = 4 ∧ s.devWakeAt = none ∧ (s.dieSt 0).power = 3 ∧ (s.dieSt 0).wakeAt = none) ∧
    ((statePw 1 0 0).coreSt 5).power = 1 ∧
    (let s : State := { statePw 1 3 4 with
        cores := [(0, { (default : CoreSt) with power := 1, wakeAt := some (10 ^ 11) })]
        dies := [(0, { (default : DieSt) with power := 3, wakeAt := some (10 ^ 11) })], devWakeAt := some (10 ^ 11) }
     (s.coreSt 0).wakeAt = some (10 ^ 11) ∧ 10 ^ 11 ≤ s.gtime ∧ (s.coreSt 0).power = 1 ∧
      (s.dieSt 0).wakeAt = some (10 ^ 11) ∧ s.devWakeAt = some (10 ^ 11)) := by decide +kernel

theorem witness_TemperatureAndDieErrors :
    (let s := state1 (regs [])
     s.g.present = true ∧ s.g.ended = false ∧ (s.profOf s.g.p.ctx).port = false ∧ s.relcount = 0 ∧ s.others = [] ∧
      s.findCtx s.g.p.ctx = some context1 ∧ context1.live = true ∧ dieOf s.g.p.core = 0 ∧ dieOf s.g.p.core ≠ 1 ∧
      s.standsOn s.g.p.core s.g = true ∧ s.groups = [s.g]) := by decide +kernel

theorem witness_HostInterface :
    (statePw 0 0 4).devPower = 4 ∧
    (let s := statePw 0 0 0
     s.devPower ≠ 4 ∧ s.boot.stage = 2 ∧ 0x8BFFFFFFFF + [1#8].length ≤ 0x8C00000000 ∧
      0x8C00000000 < 0x8C00000000 + [1#8].length ∧ s.shelf = [] ∧ s.relcount = 0) ∧
    (State.reset.boot.stage ≠ 2 ∧ State.reset.devPower ≠ 4) ∧
    (let s : State := { statePw 0 0 0 with
        ctxs := [context1]
        mem := BMap.writeNat (BMap.writeNat tables (128 + 16) 8 0x20000) (128 + 25) 1 64
        queues := [(2, { (default : DQueue) with ctx := some 1, enable := true, hosten := true })] }
     2 ≤ s.boot.stage ∧ (s.queueOf 2).enable = true ∧ (s.queueOf 2).hosten = true ∧
      (s.enqAt 1 (s.cbAt 2) 0 64 0).toOption.isSome = true) ∧
    BMap.readBytes State.reset.mem 128 128 = List.replicate 128 0 ∧ (List.replicate 128 (0#8)).length = 128 := by
  decide +kernel

/-- Whether an image verifies is the opaque `Config.mldsaVerify`: of the three clauses of stage 1, and of the two of
stage 2, one applies to any two images. -/
theorem witness_BootStages :
    State.reset.boot.stage = 0 ∧ State.reset.boot.recovery = false ∧
    ({ State.reset with boot := { State.reset.boot with stage := 1 } } : State).boot.stage = 1 ∧
    (statePw 0 0 0).boot.stage ≠ 0 ∧ (statePw 0 0 0).boot.stage ≠ 1 ∧
    ∀ (s : State) (keys : List Nat) (a b : BootImage),
      let verified (i : BootImage) : Prop :=
        s.boot.svn ≤ i.svn ∧ ∃ k ∈ keys, Config.mldsaVerify k i.digest i.signature = true
      verified a ∨ (¬verified a ∧ verified b) ∨ (¬verified a ∧ ¬verified b) := by
  refine ⟨rfl, rfl, rfl, by decide, by decide, fun s keys a b => ?_⟩
  by_cases h : s.boot.svn ≤ a.svn ∧ ∃ k ∈ keys, Config.mldsaVerify k a.digest a.signature = true
  · exact .inl h
  · by_cases h' : s.boot.svn ≤ b.svn ∧ ∃ k ∈ keys, Config.mldsaVerify k b.digest b.signature = true
    · exact .inr (.inl ⟨h, h'⟩)
    · exact .inr (.inr ⟨h, h'⟩)

/-- No session, an unfinished and a finished one, with and without the key encapsulation negotiated; a link that no peer
has made trusted. -/
theorem witness_SpdmRequests :
    (∀ x ∈ State.reset.boot.sessions, x.id ≠ 1) ∧ .mlKem1024 ∉ State.reset.boot.negotiated ∧
    (let s : State := { State.reset with boot := { State.reset.boot with negotiated := [.mlKem1024] } }
     (∀ x ∈ s.boot.sessions, x.id ≠ 1) ∧ .mlKem1024 ∈ s.boot.negotiated) ∧
    (let x : Session := ⟨1, 2, 0, false, 0, 0⟩
     let s : State := { State.reset with boot := { State.reset.boot with sessions := [x] } }
     s.boot.sessions = [x] ∧ x.done = false) ∧
    (let x : Session := ⟨1, 2, 0, true, 0, 0⟩
     let s : State := { State.reset with boot := { State.reset.boot with sessions := [x] } }
     s.boot.sessions = [x] ∧ x.done = true ∧ s.linkTrusted 3 = false ∧ NMap.get (s.link 3).txKeys 0 = 0 ∧
      (s.link 3).txNext = [] ∧ (s.link 3).waiting = []) := by decide +kernel

def dbgReq : DbgReq := { all := false, ctx := 1, who := ⟨1, 0, 0⟩, arg0 := 0, arg1 := 0, buf := 0x100000, result := 0x10000 }

/-- A group that runs, one that is stopped, one of another context, one that has ended, and none; argument words at the
bounds of SETBP and SETWP; and a stopped group's own view, which WRITE accepts. -/
theorem witness_DebugService :
    (let s := state1 (regs [])
     s.g.present = true ∧ s.findGroup ⟨9, 0, 0⟩ = none ∧ s.g.p.id = dbgReq.who ∧ s.g.p.ctx = dbgReq.ctx ∧
      s.g.ended = false ∧ s.g.dbg.stopped = false ∧ s.g.dbg.stepping = none ∧ s.others = [] ∧
      s.ctxSpans 1 dbgReq.result 8 true = some (memSpan 0x10000 8) ∧ dbgReq.result % 8 = 0 ∧ dbgReq.buf % 64 = 0 ∧
      s.g.nat.on = false ∧ s.g.r.issueAddr = some 0) ∧
    (2 : Nat) ≠ (state1 (regs [])).g.p.ctx ∧ ({ group1 (regs []) with ended := true } : Group).ended = true ∧
    ({ group1 (regs []) with dbg := { Dbg.reset with stopped := true } } : Group).dbg.stopped = true ∧
    (0x8000000000000008#64).extractLsb' 57 6 = 0 ∧ (0x8000000000000008#64).extractLsb' 0 3 = 0 ∧
    (0x4#64).extractLsb' 0 3 ≠ 0 ∧ (0x0200000000000000#64).extractLsb' 57 6 ≠ 0 ∧
    ((0xC1FFFFFFFFFFFFFF#64).extractLsb' 57 5 = 0 ∧ (0xC1FFFFFFFFFFFFFF#64).toNat % 2 ^ 57 + 1 ≤ 2 ^ 57 ∧
      (1#64).toNat % 2 ^ 30 ≠ 0) ∧ (0#64).toNat % 2 ^ 30 = 0 ∧
    (let s := state1 (regs [])
     s.findGroup s.g.p.id = some s.g ∧ (0x8000000000000000#64).getLsbD 63 = true ∧
      (0x8000000000000000#64).toNat % 2 ^ 57 / 8 = 0 / 8) := by decide +kernel

def profReq (arg0 arg1 : BitVec 64) : ProfReq := { ctx := 1, arg0 := arg0, arg1 := arg1, buf := 0x100000, result := 0x10000 }

theorem witness_Profiling :
    (profReq 0 0).arg0.toNat = 0 ∧ (8 ≤ (profReq 24 0).arg0.toNat ∧ (profReq 24 0).arg0.toNat ≤ 24) ∧
    ((profReq 25 0).arg0.toNat ≠ 0 ∧ 24 < (profReq 25 0).arg0.toNat) ∧ (7#64).toNat < 8 ∧
    ((∀ i : Nat, i < 64 → (profReq 0x1FFE 0).arg0.getLsbD i = true → 1 ≤ i ∧ i ≤ 12)) ∧
    (profReq 0x2000 0).arg0.getLsbD 13 = true ∧ (profReq 1 0).arg0.getLsbD 0 = true ∧
    144 < (profReq 144 1).arg0.toNat + (profReq 144 1).arg1.toNat ∧
    (143 + 1 ≤ 144 ∧ (profReq 143 1).buf % 64 = 0) ∧ ((state1 (regs [])).writeFields 1 0x100000 [(0, 8, 5)]).isSome = true ∧
    (let s := state1 (regs [])
     s.groups = [s.g] ∧ s.standsOn 0 s.g = true ∧ s.g.p.part = 0 ∧ (s.profOf 1).period = 0) ∧
    (let s : State := { state1 (regs []) with
        trace := { State.reset.trace with cfg := [(1, { period := 256, types := 2, filter := 0xFFFFFFFF, port := true })] } }
     (s.profOf 1).period ≠ 0 ∧ (s.profOf 1).wants 1 s.g.p.id.launch = true ∧ s.trace.lost = 0 ∧
      s.trace.buf.length < 4096 ∧ s.trace.buf = []) := by decide +kernel

/-- A FAO request for device 0x4002 that element 0 holds, with its port 3 up in the table, and a combinable request at
the tail of that port's queue. -/
def faoMsg (lrid : Nat) : Msg :=
  { (default : Msg) with type := 0x0B, dst := 0x4002, src := 0x4000, ctx := 1, sz := 3, lrid := lrid, operand := 1 }

def stateFab : State :=
  { State.reset with
      fab := { State.reset.fab with
        out := [faoMsg 32], elems := [(0, { (default : Elem) with tables := [(66, 8)], up := 0xFFF })] } }

theorem portFor_single (s : State) (e dst cls p : Nat)
    (h : ((List.range 64).filter fun q => (s.maskFor e dst).testBit q && (s.elem e).up.testBit q) = [p]) :
    s.portFor e dst cls = some p := by
  unfold State.portFor
  simp only [h, List.isEmpty_cons, List.length_cons, List.length_nil, Nat.zero_add, Nat.mod_one]
  rfl

theorem witness_FabricElements_route :
    stateFab.routeOf 0 (faoMsg 32) = some 3 ∧ State.reset.routeOf 0 (faoMsg 32) = none :=
  ⟨Eq.trans (b := stateFab.portFor 0 0x4002 0) rfl (portFor_single _ _ _ _ _ (by decide +kernel)), rfl⟩

theorem witness_FabricElements :
    stateFab.fab.out = [faoMsg 32] ∧ (faoMsg 32).depth < 16 ∧
    stateFab.endsAt 0 { faoMsg 32 with depth := 1, path := [3], here := some 0 } = false ∧
    SMap.get [] (stateFab.elem 0).queues (queueKey 3 (faoMsg 32)) = [] ∧
    16 ≤ ({ faoMsg 32 with depth := 16 } : Msg).depth ∧ (faoMsg 32).routed = false ∧ (faoMsg 32).acks.length ≤ 1 ∧
    1 < ({ faoMsg 32 with kind := 1, acks := [(0x4000, 1), (0x4001, 2)] } : Msg).acks.length ∧
    ownPort 0 3 = false ∧ ownPort 0 63 = true ∧ elemKind (routerNo 3 0 35) = 3 ∧
    State.reset.endsAt 0 { (default : Msg) with type := 0x20, dst := State.reset.devloc.toNat } = true := by
  exact ⟨rfl, by decide, rfl, rfl, by decide, rfl, by decide, by decide, rfl, rfl, by decide, rfl⟩

theorem witness_FabricElements_queues :
    (let s : State := { stateFab with
        fab := { stateFab.fab with elems := [(0, { (default : Elem) with
          tables := [(66, 8)], up := 0xFFF, queues := [(12, [faoMsg 0])] })] } }
     SMap.get [] (s.elem 0).queues (queueKey 3 { faoMsg 32 with depth := 1, path := [3] }) = [] ++ faoMsg 0 :: [] ∧
      (∀ x ∈ (s.elem 0).waits, x.port ≠ 3) ∧ (faoMsg 0).lrid ≤ (faoMsg 32).lrid) ∧
    (let s : State := { stateFab with
        fab := { stateFab.fab with elems := [(1, { (default : Elem) with tables := [(66, 8)], up := 8 })] } }
     0x4002 / 512 % 32 = s.devloc.toNat / 512 % 32 ∧ 0x4002 / 16 % 32 = (1 - 1) / 6 ∧
      NMap.get (s.elem 1).tables (64 + 0x4002 % 16) = 2 ^ 3 ∧ (s.elem 1).up.testBit 3 = true) ∧
    (∀ k ∈ ([0x1A, 0x1B, 0x1C] : List Nat),
      let m : Msg := { (default : Msg) with type := k, src := 0x4002, rtag := ⟨true, 0, 0, 0⟩ }
      let w : WaitEntry := { (default : WaitEntry) with dst := 0x4002 }
      let s : State := { State.reset with
        fab := { State.reset.fab with out := [m], elems := [(0, { (default : Elem) with waits := [w] })] } }
      (s.elem 0).waits = [w] ∧ m.rtag.combined = true ∧ m.rtag.hop = m.depth ∧ w.hop = m.depth ∧
      w.entry = m.rtag.entry ∧ w.dst = m.src ∧ w.cls = m.cls ∧ w.first.rtag.combined = false ∧ w.second.depth = 0) := by
  decide +kernel

/-- A link that is up, with a flit in order, one out of order, one of an unknown type and one with a bad check word. -/
def link1 : Link := { (default : Link) with up := true }

def flit (type seq : Nat) : Flit :=
  let f : Flit := { (default : Flit) with type := type, seq := seq, last := true, payload := List.replicate 8 0 }
  { f with chk := (crc64 (flitCovered f)).toNat }

theorem witness_LinkLayer :
    (let s : State := { State.reset with fab := { State.reset.fab with links := [(3, link1)] } }
     (s.link 3).up = true ∧ (s.link 3).encrypt = false ∧ (s.link 3).waiting = [] ∧ (s.link 3).training = false ∧
      s.relcount = 0 ∧ (s.link 4).up = false ∧ s.host.linkPolicy = 0 ∧ s.linkTrusted 3 = false ∧
      NMap.get (s.link 3).txKeys 0 = 0 ∧
      (flit 0 0).chk = (crc64 (flitCovered (flit 0 0))).toNat ∧ (flit 8 0).seq = (s.link 3).expect ∧
      (flit 8 1).seq ≠ (s.link 3).expect ∧ (flit 1 0).seq = (s.link 3).expect ∧
      (flit 0x3F 0).type ∉ [0, 1, 8, 9, 0x0A, 0x0B, 0x0C, 0x0D, 0x0E, 0x0F, 0x10, 0x18, 0x19, 0x1A, 0x1B, 0x1C, 0x1D, 0x20,
        0x30] ∧ (flit 8 0).last = true ∧ SMap.get [] (s.link 3).part (flit 8 0).vc = [] ∧
      ({ flit 8 0 with chk := (flit 8 0).chk + 1 } : Flit).chk ≠
        (crc64 (flitCovered { flit 8 0 with chk := (flit 8 0).chk + 1 })).toNat) ∧
    (let l : Link := { link1 with encrypt := true, fails := 15 }
     l.up = true ∧ l.encrypt = true ∧ NMap.get l.rxKeys (flit 8 0).kid = 0 ∧ 15 ≤ l.fails) ∧
    (let l : Link := { link1 with encrypt := true, fails := 14 }
     l.fails < 15 ∧ NMap.get l.rxKeys 0 = 0) ∧
    (readMsg [flit 0x20 0]).type = 0x20 ∧ (readMsg [flit 8 0]).type < 0x18 := by decide +kernel

theorem flitCovered_chk (f : Flit) (c : Nat) : flitCovered { f with chk := c } = flitCovered f := rfl

/-- Whether a flit may start on an idle link does not hang on the opaque count of credits, which is at least 1; a flit
sealed with a key carries the opaque tag; and whether a peer is trusted is the opaque `Config.mldsaVerify`: either clause
of a session applies to any peer. -/
theorem witness_LinkLayer_opaque :
    link1.mayStart 3 0 = true ∧
    (let l : Link := { link1 with encrypt := true, rxKeys := [(0, 5)] }
     let f : Flit := { flit 8 0 with
       chk := Config.flitTag 5 (3 :: 0 :: (flitCovered (flit 8 0)).map BitVec.toNat) % 2 ^ 64 }
     l.up = true ∧ l.encrypt = true ∧ f.seq = l.expect ∧ NMap.get l.rxKeys f.kid ≠ 0 ∧ NMap.get l.sealed (2 + f.kid) = 0 ∧
      f.chk = Config.flitTag 5 (3 :: 0 :: (flitCovered f).map BitVec.toNat) % 2 ^ 64) ∧
    ∀ (s : State) (p : Peer), s.trusts p = true ∨ s.trusts p = false := by
  refine ⟨?_, ⟨rfl, rfl, rfl, by decide, rfl, by simp only [flitCovered_chk]⟩, fun s p => by cases s.trusts p <;> simp⟩
  have h : 0 < max 1 (Config.credits 3 0) := by omega
  exact decide_eq_true h

def req (type : Nat) (ops : List (Nat × Nat × Nat)) : Msg :=
  { (default : Msg) with type := type, dst := 0x4000, src := 0x4001, ctx := 1, addr := 0x10000, sz := 3, ops := ops }

/-- Before stage 2, asleep, and awake; an access that is served, one that reaches a window and one that no table maps. -/
theorem witness_RequestsOfOthers :
    State.reset.boot.stage < 2 ∧
    (let s := statePw 2 3 4
     2 ≤ s.boot.stage ∧ s.devPower = 4 ∧ s.devWakeAt = none) ∧
    (let s : State := { statePw 0 0 0 with ctxs := [context1], mem := tables, devloc := 0x4000, dies := [] }
     let m := req 8 [(0, 0x10000, 8)]
     let acc (a size : Nat) (r w h : Bool) : Acc := s.inAcc m 0 a size size r w .globalOnly h
     2 ≤ s.boot.stage ∧ s.asleep m.ctx m.addr = none ∧ m.count = 0 ∧
      (s.inCheck [acc 0x10000 8 true false true]).toOption =
        some [(acc 0x10000 8 true false true, memSpan 0x10000 8)] ∧
      (s.inCheck [acc 0x10000 8 true true false]).toOption =
        some [(acc 0x10000 8 true true false, memSpan 0x10000 8)] ∧
      (s.inCheck [acc 0x10000 8 false true false, acc 0x10008 8 true true false]).toOption =
        some [(acc 0x10000 8 false true false, memSpan 0x10000 8), (acc 0x10008 8 true true false, memSpan 0x10008 8)] ∧
      (s.inCheck [acc (2 ^ 40) 8 true false true]).toOption = none ∧
      (0x1FE * 2 ^ 48 < 0x1FE * 2 ^ 48 + 8 ∧ 0x1FE * 2 ^ 48 < 2 ^ 57) ∧ (2 ≤ 2 ∧ (2 : Nat) ≤ 2 ^ 20) ∧ s.sets = [] ∧
      s.joins = []) := by decide +kernel

/-- A ring, receive queues, and a full one. -/
theorem witness_RequestsOfOthers_queues :
    (let s : State := { statePw 0 0 0 with ctxs := [context1], mem := ringBytes 3 4, dies := [] }
     let m := req 0x0D [(0, 7, 0)]
     let y : Acc := s.inAcc m 0 m.addr 32 64 true true .globalOnly false
     (s.inCheck [y.early]).toOption = some [(y.early, memSpan 0x10000 32)] ∧
      (s.lateTrap [(y, memSpan 0x10000 32)]).isNone = true ∧
      (s.ringAt 0x10000).valid = true ∧ (s.ringAt 0x10000).esize = 8 ∧ s.headBits 1 0x10000 = 0 ∧
      ((s.touch y).enqAt 1 0x10000 (0x4000 * 2 ^ 57 + 0x10000) 8 7).toOption.isSome = true ∧
      ((s.touch y).deqAt 1 0x10000 (0x4000 * 2 ^ 57 + 0x10000)).toOption.isSome = true) ∧
    (let s : State := { statePw 0 0 0 with rxq := [(5, { ctx := some 1, entries := [] })] }
     (SMap.get default s.rxq 5).ctx = some 1 ∧ (SMap.get default s.rxq 5).entries.length < 64 ∧
      (SMap.get default s.rxq 6).ctx ≠ some 1) ∧
    64 ≤ (List.replicate 64 (0#64)).length := by decide +kernel

/-- A combined RED of two members, a page that the runtime has taken away, a launch of another device that holds its
reservation, one that finds no room, and a tile child. -/
theorem witness_RequestsOfOthers_more :
    (let s : State := { statePw 0 0 0 with ctxs := [context1], mem := tables, devloc := 0x4000, dies := [] }
     let m := req 0x0B []
     let y : Acc := s.inAcc m 0 0x10000 8 8 true true .globalOnly false
     (s.inCheck [y.early]).toOption = some [(y.early, memSpan 0x10000 8)] ∧
      (s.lateTrap [(y, memSpan 0x10000 8)]).isNone = true ∧
      m.acks.length ≤ 1) ∧
    1 < ({ req 0x0B [] with acks := [(0x4001, 1), (0x4002, 2)] } : Msg).acks.length ∧
    (let s : State := { statePw 0 0 0 with
        ctxs := [{ context1 with nonresident := [0x40000000 / 4096] }], mem := tables, devloc := 0x4000, dies := [] }
     s.pageAway 1 (localOf 0x40000000 / 4096) = true ∧ (s.asleep 1 0x40000000).isNone = true ∧
      (match s.inCheck [s.inAcc { req 8 [] with addr := 0x40000000 } 0 0x40000000 8 8 true false .globalOnly true] with
        | .error t => t.cause == .page | .ok _ => false) = true) ∧
    (let m : Msg := { req 0x0F [(1, 1, 4096), (0, 0, 0)] with kind := 2, who := ⟨3, 0, 0⟩ }
     let s : State := { statePw 0 0 0 with ctxs := [context1], mem := tables, devloc := 0x4000, dies := [] }
     let held : State := { s with podRes := [(podKey m, { (default : Reservation) with dies := [0] })] }
     2 ≤ s.boot.stage ∧ s.asleep m.ctx m.addr = none ∧ SMap.find? s.podRes (podKey m) = none ∧
      (SMap.find? held.podRes (podKey m)).isSome = true ∧
      ({ s with dies := (List.range 4).map fun d => (d, { (default : DieSt) with off := true }) } : State).reservation
        (podAsk { m with ctx := 9 }) = none) ∧
    (let m : Msg := { req 0x0F [] with kind := 0, tile := some default }
     let s : State := { statePw 0 0 0 with ctxs := [context1], mem := tables, devloc := 0x4000, dies := [] }
     m.tile = some default ∧ s.asleep m.ctx m.addr = none) := by decide +kernel

/-- A CHECK of 64 bytes of mapped memory. -/
theorem witness_RequestsOfOthers_check :
    let s : State := { statePw 0 0 0 with ctxs := [context1], mem := tables, devloc := 0x4000, dies := [] }
    let q : Msg := { req 0x0E [(0, 0x10000, 64)] with count := 64, opc := 8 }
    let x : Acc := { s.inAcc q 0 0x10000 64 1 true false .globalOnly true with eats := false }
    2 ≤ s.boot.stage ∧ s.asleep q.ctx q.addr = none ∧ q.ops = [(0, 0x10000, q.count)] ∧ 0 < q.count ∧ q.opc = 8 ∧
      q.kind = 0 ∧ (s.inCheck [x]).toOption = some [(x, memSpan 0x10000 64)] := by decide +kernel

/-- A group with one request outstanding, and one with a SEND. -/
theorem witness_RepliesToRequests :
    (let q : ReqOut := { tag := 7, msg := req 8 [], lanes := [0], deadline := 0, answer := none }
     let s : State := { state1 (regs []) with g := { group1 (regs []) with pend := .remote true [q] [] } }
     let m : Msg := { (default : Msg) with rtag := ⟨false, 0, 0, 7⟩, trap := some ⟨.page, 0, 0, none⟩ }
     s.g.present = true ∧ s.others = [] ∧ s.jobs = [] ∧ s.g.pend = .remote true [q] [] ∧ q.tag = m.rtag.stag ∧
      q.answer = none ∧ q.msg.type ≠ 0x0B ∧ m.trap = some ⟨.page, 0, 0, none⟩ ∧ s.g.p.id ≠ m.who ∧ q.deadline ≤ s.gtime ∧
      s.gtime < ({ q with deadline := 1 } : ReqOut).deadline ∧ q.tag ≠ ({ m with rtag := ⟨false, 0, 0, 8⟩ } : Msg).rtag.stag) ∧
    (let o : SendOut := { index := 2, loc := 0x4001, queue := 5, value := 1, pc := 0, retryAt := 3, deadline := 9 }
     let s : State := { state1 (regs []) with gtime := 3, g := { group1 (regs []) with sends := [o] } }
     s.g.sends = [o] ∧ o.retryAt ≠ 0 ∧ o.retryAt ≤ s.gtime ∧ 2 ^ 14 ≤ o.loc ∧ o.loc ≠ s.devloc.toNat ∧
      s.gtime < o.deadline ∧ ({ o with deadline := 3 } : SendOut).deadline ≤ s.gtime ∧
      ({ o with retryAt := 0 } : SendOut).retryAt = 0) := by decide +kernel

/-- A group at a NOP at 0x8000, with nothing due. -/
def stateStep : State :=
  { state1 { regs [] with pcv := at_ 0x8000 } with
      mem := BMap.writeNat tables 0x8000 8 0x6C00000000000000
      xlats := [{ (default : Translation) with ctx := 1, entry := 0x8000, words := [(0x8000, 0x6C00000000000000)] }] }

/-- `stateStep` after the time that passes before a step. -/
def stateStepped : State := stateStep.passTime

/-- Nothing but the group's own instruction is due there. -/
theorem witness_StepRunsDecoded_alone :
    stateStep.agenda = [] ∧ stateStepped.dueNow = [] ∧ stateStepped.candidates = [stateStepped.g.p.id] ∧
    stateStepped.g.present = true ∧ (stateStepped.coreSt stateStepped.g.p.core).power ≠ 1 := by decide +kernel

theorem witness_StepRunsDecoded_rings : stateStepped.serveRings = none :=
  Option.isNone_iff_eq_none.mp (by decide +kernel)

/-- Neither native code, nor a debugger, nor an error stands in the group's way. -/
theorem witness_StepRunsDecoded_plain :
    stateStepped.g.nat.on = false ∧ stateStepped.tryEnter.g.nat.on = false ∧ stateStepped.g.nat.gate = [] ∧
    stateStepped.g.nat.checking = none ∧ stateStepped.g.nat.late = [] := by decide +kernel

theorem witness_StepRunsDecoded_free :
    stateStepped.breakpoint = none ∧ stateStepped.g.dbg = Dbg.reset ∧ stateStepped.g.badRegs = [] ∧
    stateStepped.g.pend = .idle ∧ stateStepped.g.kept = none := by decide +kernel

/-- The word at the program counter is a NOP. -/
theorem witness_StepRunsDecoded :
    stateStepped.pc < 0x1FD * 2 ^ 48 ∧ stateStepped.translated stateStepped.pc = some 0x6C00000000000000#64 ∧
    longOp (opOf 0x6C00000000000000#64) = false := by decide +kernel

theorem witness_StepRunsDecoded_nop :
    decodeWords 0x6C00000000000000#64 0 = .nop ⟨0, 0, 0, 0, 0, 0, 0⟩ := rfl

/-- A group that waits inside an instruction has its words. -/
theorem witness_StepRunsDecoded_begun :
    let s : State := { stateStep with g := { stateStep.g with
      pend := .shelf none, begun := some (0x8000, [0x6C00000000000000#64]) } }
    s.passTime.g.begun = some (s.passTime.pc, [0x6C00000000000000#64]) ∧ s.passTime.g.inside = true := by
  decide +kernel

theorem witness_StepRunsDecoded_next : ∃ t, exec (.nop ⟨0, 0, 0, 0, 0, 0, 0⟩) stateStep.passTime = .next t ∧
    (stateStep.passTime.resultStop t (.nop ⟨0, 0, 0, 0, 0, 0, 0⟩)).isNone = true ∧ t.g.nat.checking = none ∧
    onlyWaited stateStep.passTime (stateStep.passTime.afterVirtual t (.nop ⟨0, 0, 0, 0, 0, 0, 0⟩)) = false :=
  ⟨_, rfl, by decide +kernel⟩

/-- The premises of the invariants hold of the states above. -/
theorem witness_MachineInvariants :
    Memory.wf stateStep.mem = true ∧ (∀ g ∈ stateStep.groups, g.u.super = true → g.p.ctx = 0) ∧
    Memory.wf State.reset.mem = true := by decide +kernel

/-- An instruction and words that meet the premises of the round trips. -/
theorem witness_DecodeEncode :
    (Instr.add ⟨0, 5, 6, 7, 0, 6, 0⟩).legal = true ∧ encode (.add ⟨0, 5, 6, 7, 0, 6, 0⟩) = [0x0000050060070060#64] ∧
    (∀ w0 w1, Instr.add ⟨0, 5, 6, 7, 0, 6, 0⟩ ≠ .unassignedEncoding w0 w1) ∧
    (∀ x y, decodeWords 0x0000050060070060#64 0 ≠ .unassignedEncoding x y) := by
  refine ⟨by decide, by decide, fun _ _ h => (by cases h), fun x y h => ?_⟩
  have : decodeWords 0x0000050060070060#64 0 = .add ⟨0, 5, 6, 7, 0, 6, 0⟩ := rfl
  rw [this] at h
  cases h


/-- Copies between memory and the scratchpad, and arrivals at a valid and an invalid barrier object. -/
theorem witness_EngineCompletion_copies :
    (let s (k : JobKind) : State := { state1 { regs [] with tok := [(3, 1)] } with jobs := [job k] }
     (∀ k, (s k).jobs = [job k] ∧ (job k).who = (s k).g.p.id ∧ (s k).g.present = true ∧ (job k).reqs = [] ∧
        (job k).writing = false ∧ ((s k).findBlock (s k).g.p.id.launch (s k).g.p.id.block).isSome) ∧
     (s (.acp 3 0x1FF000000000100 0x10010 4 1)).isLocal 0x1FF000000000100 = true ∧
     winScratch ≤ localOf 0x1FF000000000100 ∧ localOf 0x10010 < winPrivate ∧
     (s (.acp 3 0x1FF000000000100 0x10010 4 1)).pageSpans 1 {} 2 0x10010 4 = (memSpan 0x10010 4, none) ∧
     (s (.acp 3 0x10010 0x1FF000000000100 4 1)).pageSpans 1 { write := true } 2 0x10010 4 = (memSpan 0x10010 4, none)) ∧
    (let b (v : Nat) : State := { state1 (regs []) with blocks := [{ block1 with scratch := BMap.writeNat [] 32 16 v }] }
     BMap.readNat (b 2).scratch 32 4 = 2 ∧ BMap.readNat (b 2).scratch 36 4 = 0 ∧ BMap.readNat (b 0).scratch 32 4 = 0) :=
  ⟨⟨fun _ => ⟨rfl, rfl, rfl, rfl, rfl, rfl⟩, by decide +kernel, by decide +kernel, by decide +kernel, by decide +kernel,
    by decide +kernel⟩, by decide +kernel⟩

/-- A level-1 operation of TZERO whose only child writes, and one of whose two children is to run. -/
def zeroDesc : TDesc := { (default : TDesc) with rows := 4, cols := 4, rc := 4, cc := 4, fmt := 10, stride := 16 }
def zeroOp : TOp := { (default : TOp) with opc := 0xA6, d := some zeroDesc }
def stateZero (js : List Job) : State :=
  { state1 { regs [] with tok := [(2, 1)] } with
    jobs := js, execQ := [(0, [(⟨1, 0, 0⟩, 3)])]
    g := { group1 { regs [] with tok := [(2, 1)] } with
      recs := [(3, { (default : TRec) with state := 1, level := 1, target := .token 2, op := zeroOp })] } }

theorem witness_TileChildrenAndLease_last :
    (let j : Job := { job (.tile 3 0 1 0 zeroOp) with writing := true }
     let s := stateZero [j]
     let r := SMap.get default s.g.recs 3
     s.kidJob j.who 3 0 = some j ∧ j.who = s.g.p.id ∧ s.g.present = true ∧ reqsFault j.reqs j.writing = none ∧
      (∀ y ∈ s.jobs, y.who = j.who → y.id = j.id) ∧ r.state = 1 ∧ 1 ≤ r.level ∧ r.reports = [] ∧ r.target = .token 2 ∧
      (match s.kids (keyOf j.who) (dieOf s.g.p.core) r.level r.op with
        | .ok l => l.all fun k => k.index == 0 | .error _ => false) = true ∧
      s.execQ = [(s.execKey j.who r.level, [(j.who, 3)])]) ∧
    (let j : Job := job (.tile 3 0 1 0 zeroOp)
     let y : Job := { job (.tile 3 1 1 0 zeroOp) with id := 5 }
     let s := stateZero [j, y]
     s.kidJob j.who 3 0 = some j ∧ j.ctx = s.g.p.ctx ∧ zeroDesc.empty = false ∧ s.g.arr.bad = [] ∧ y ∈ s.jobs ∧
      y.id ≠ j.id ∧ (s.findBlock s.g.p.id.launch s.g.p.id.block).isSome) := by decide +kernel

theorem witness_TileChildrenAndLease_zero : TilesOk (stateZero []) 0xA6 0 0 zeroDesc.e 0 0 zeroDesc none none :=
  tilesOk_of _ _ _ _ _ _ _ _ _ (fun _ => []) (by decide +kernel) (by simp [shapesAgree]) (by decide +kernel)
    (by decide +kernel) (by decide)

/-- A translation without bundles of the word that stands at 0x8000; and, for a peer's key whose signatures verify, the
other conditions of a package. -/
theorem witness_TranslationService_plain :
    (let s : State := { state1 (regs []) with
        boot := { State.reset.boot with stage := 2, domain := [Config.shake256 [0]], slots := [] }
        g := { group1 (regs []) with pend := .xlate 0x8000 0 } }
     let x : Translation := { (default : Translation) with ctx := 1, entry := 0x8000, words := [(0x8000, 0)] }
     let m : Msg := { (default : Msg) with type := 0x10 }
     let p : Peer := { (default : Peer) with slots := [0, 0, 0] }
     s.xlats = [] ∧ s.olds = [] ∧ x.bundles = [] ∧
      (∀ w ∈ x.words, ∃ f, s.leafOf x.ctx { fetch := true } w.1 = .ok f ∧ Mem.read64 s.mem (f.pa w.1) = w.2) ∧
      m.type = 0x10 ∧ 2 ≤ s.boot.stage ∧ s.devPower ≠ 4 ∧ s.pageWaits = [] ∧
      Config.shake256 [p.identity] ∈ s.boot.domain ∧ p.slots = [2, 3, 4].map (NMap.get s.boot.slots) ∧
      s.g.pend = .xlate x.entry 0 ∧ (∀ d, d < 4 → (s.dieSt d).power ≠ 3 ∧ (s.dieSt d).off = false)) := by
  refine ⟨rfl, rfl, rfl, fun w hw => ?_, rfl, by decide, by decide, rfl, List.mem_singleton.2 rfl, by decide, rfl, by decide⟩
  simp only [List.mem_singleton] at hw
  subst hw
  exact ⟨{ at_ := 0x3000, e := 0x0F, level := 3 }, by rfl, by decide +kernel⟩

/-- A group in a region at an empty bundle: the first, and one after a bundle that starts no long operation. -/
theorem witness_NativeBundles_empty :
    stateN.g.nat.on = true ∧ stateN.g.nat.mid = none ∧ stateN.xlatOf stateN.g = some xlat ∧
    xlat.bundles[stateN.g.bundleIndex]? = some 0 ∧ stateN.g.nat.ibPend = [] ∧ stateN.g.nat.flight = [] ∧
    stateN.g.bundleIndex = 0 + 1 ∧ (∀ b, xlat.bundles[0]? = some b → startsLong b = false) :=
  ⟨by decide +kernel, by decide +kernel, by decide +kernel, by decide +kernel, by decide +kernel, by decide +kernel,
    by decide +kernel, fun b h => by
      have : b = 1#256 <<< 255 := by simpa [xlat] using h.symm
      subst this; decide +kernel⟩

/-- A load request for the object without sections, at base 2^31. -/
theorem witness_ObjectService_empty :
    let s : State := { stateLd 0 0x40000 with
      mem := BMap.writeNat (BMap.writeNat (stateLd 0 0x40000).mem 0x40000 64 emptyObject) 0x20018 8 0x80000000 }
    (s.loaderHead 1).any (fun x => fieldAt x.1 0 1 == 0 && decide (fieldAt x.1 1 1 < 4) && fieldAt x.1 2 2 == 1 &&
      fieldAt x.1 32 8 == 0 && fieldAt x.1 16 8 == 64 && fieldAt x.1 24 8 == 0x80000000 &&
      x.2.readCtx 1 (fieldAt x.1 8 8) 64 == some emptyObject && decide (x.2.frames - x.2.freed ≤ contextFrames)) = true ∧
    fieldAt emptyObject 0 4 = 0x464C457F ∧ fieldAt emptyObject 4 1 = 2 ∧ fieldAt emptyObject 5 1 = 1 ∧
    fieldAt emptyObject 6 1 = 1 ∧ fieldAt emptyObject 7 1 = 0 ∧ fieldAt emptyObject 8 1 = 1 ∧ fieldAt emptyObject 16 2 = 3 ∧
    fieldAt emptyObject 18 2 = 0xD7E5 ∧ fieldAt emptyObject 20 4 = 1 ∧ fieldAt emptyObject 24 8 = 0 ∧
    fieldAt emptyObject 48 4 = 0x0100 ∧ fieldAt emptyObject 56 2 = 0 ∧ fieldAt emptyObject 58 2 = 64 ∧
    fieldAt emptyObject 60 2 = 0 ∧ fieldAt emptyObject 40 8 ≤ 64 ∧ 0x80000000 % 4096 = 0 ∧ 0x80000000 ≤ bindBase := by
  decide +kernel

/-- Queue 2's ring, with one record of the loaded kernel; and a host's ring with room, and a full one. -/
theorem witness_DeskQueues_ring :
    (let s := stateDq 0x6000
     RingReady s 1 (s.cbAt 2) 0 false (memSpan 0x20000 64) ∧ (s.ringAt (s.cbAt 2)).tail ≠ (s.ringAt (s.cbAt 2)).head ∧
      (∃ o ∈ s.objects, o.ctx = 1 ∧ fieldAt (s.readSpans (memSpan 0x20000 64)) 0 8 ∈ o.kdescs) ∧
      ((s.dequeued 1 (s.cbAt 2)).readCtx 1 0x6000 64).isSome = true ∧
      RecordOk s 1 0 (kdescOf (((s.dequeued 1 (s.cbAt 2)).readCtx 1 0x6000 64).getD 0)) (s.readSpans (memSpan 0x20000 64))) ∧
    (let s (n : Nat) : State := { statePw 0 0 0 with
        ctxs := [context1]
        mem := BMap.writeNat (BMap.writeNat (BMap.writeNat tables (128 + 8) 8 n) (128 + 16) 8 0x20000) (128 + 25) 1 64
        queues := [(2, { (default : DQueue) with ctx := some 1, enable := true, hosten := true })] }
     ∀ n ∈ ([0, 1] : List Nat), RingReady (s n) 1 ((s n).cbAt 2) n true (memSpan 0x20000 64) ∧
      ((s n).ringAt ((s n).cbAt 2)).fill = n ∧ 2 ^ ((s n).ringAt ((s n).cbAt 2)).logcap = 1) := by
  have h {a : Acc} {s : State} {l : List Span} (h : (s.check a).toOption = some (.here l)) : s.check a = .ok (.here l) := by
    cases e : s.check a <;> simp_all [Except.toOption]
  refine ⟨⟨⟨by decide +kernel, by decide +kernel, by decide +kernel, h (by decide +kernel)⟩, by decide +kernel,
    by decide +kernel, by decide +kernel, ?_⟩, fun n hn => ?_⟩
  · constructor <;> decide +kernel
  · simp only [List.mem_cons, List.not_mem_nil, or_false] at hn
    rcases hn with rfl | rfl <;>
      exact ⟨⟨by decide +kernel, by decide +kernel, by decide +kernel, h (by decide +kernel)⟩, by decide +kernel⟩

/-- The only launch, with nothing placed; with its near dies off; not fitting for 64 µs; and with a saved block. -/
def lonely : Launch := { launch1 [] with next := 0, affbase := 0x10000, waitSince := [(0, 10)], unfit := some 0 }
def stateFar (k : Nat) : State :=
  { statePl lonely with dies := (statePl lonely).dies.map fun d => (d.1, { d.2 with off := d.1 == k }) }
def stateUnfit : State := { statePl lonely with gtime := 64000, ctxs := [] }
def stateSaved : State := { statePl (launch1 [run1 .saved .none]) with g := group1 (regs []) }

theorem witness_Placement_only :
    OnlyLaunch (statePl lonely) lonely ∧ OnlyLaunch stateUnfit lonely ∧
    OnlyLaunch stateSaved (launch1 [run1 .saved .none]) := by
  refine ⟨?_, ?_, ?_⟩ <;> constructor <;> decide +kernel

theorem witness_Placement_begins :
    lonely.runs = [] ∧ lonely.next = 0 ∧ 0 < lonely.count ∧ (statePl lonely).g.present = false ∧
    (statePl lonely).others = [] ∧ (statePl lonely).blocks = [] ∧
    (∀ d, d < 4 → ((statePl lonely).dieSt d).off = false) ∧ lonely.waitSince.lookup 0 = some 10 ∧
    10 + 2000 ≤ (statePl lonely).gtime ∧ lonely.unfit = some 0 ∧
    0 + 64000 ≤ stateUnfit.gtime ∧ stateUnfit.cores = [] ∧ lonely.id ∉ (stateUnfit.dieSt 0).starved := by decide +kernel

theorem witness_Placement_off :
    ∀ k, k < 4 → (∀ d, d < 4 → ((stateFar k).dieSt d).off = decide (d = k)) ∧
      ∀ d, d < 4 → blockDebit ((stateFar k).classOf lonely) ≤ (stateFar k).energyOf d := by decide +kernel

theorem leastOf_le {l : List Nat} {a : Nat} (h : a ∈ l) : (leastOf l).getD 0 ≤ a := by
  induction l with
  | nil => cases h
  | cons b t ih =>
    rw [leastOf]
    cases e : leastOf t with
    | none =>
      rcases List.mem_cons.1 h with rfl | h
      · exact Nat.le_refl _
      · cases t with
        | nil => cases h
        | cons c t => rw [leastOf] at e; cases x : leastOf t <;> simp [x] at e
    | some c =>
      rcases List.mem_cons.1 h with rfl | h
      · exact Nat.min_le_left _ _
      · have := ih h; rw [e] at this; exact Nat.le_trans (Nat.min_le_right _ _) this

theorem le_foldl_max {l : List Nat} {a x : Nat} (h : a ≤ x ∨ a ∈ l) : a ≤ l.foldl max x := by
  induction l generalizing x with
  | nil => simpa using h
  | cons b t ih =>
    refine ih ?_
    rcases h with h | h
    · exact .inl (Nat.le_trans h (Nat.le_max_left _ _))
    · rcases List.mem_cons.1 h with rfl | h
      · exact .inl (Nat.le_max_right _ _)
      · exact .inr h

/-- The cores near a stack stand on its die: with that die off, no near core is left. -/
theorem witness_Placement_near (c st : Nat) (hst : st < 12) (h : distance c st ≤ leastDistance st + 2) :
    dieOf c = st / 3 := by
  refine Classical.byContradiction fun hne => ?_
  have hd : dieOf (36 * (st / 3)) = st / 3 := by unfold dieOf; omega
  have hm : 36 * (st / 3) ∈ allCores := List.mem_range.2 (by omega)
  have h1 : leastDistance st ≤ distance (36 * (st / 3)) st := leastOf_le (List.mem_map.2 ⟨_, hm, rfl⟩)
  rw [distance, if_pos hd] at h1
  have h2 : Config.hops (36 * (st / 3)) st ≤
      ((allCores.filter fun c => dieOf c == st / 3).map fun c => Config.hops c st).foldl max 0 :=
    le_foldl_max (.inr (List.mem_map.2 ⟨_, List.mem_filter.2 ⟨hm, by simp [hd]⟩, rfl⟩))
  rw [distance, if_neg hne] at h
  omega

/-- The affinity address has a stack; which one is the configuration's. -/
theorem witness_Placement_far (k : Nat) :
    (∃ st, st < 12 ∧ (stateFar k).stackAt lonely.ctx (lonely.affinity 0) = some st) ∧
    stateUnfit.stackAt lonely.ctx (lonely.affinity 0) = none := by
  have h : (statePl lonely).leafOf lonely.ctx {} (lonely.affinity 0) = .ok { at_ := 0x3000, e := 0x0F, level := 3 } :=
    ok_of (by decide +kernel)
  have e : (stateFar k).leafOf lonely.ctx {} (lonely.affinity 0) =
      (statePl lonely).leafOf lonely.ctx {} (lonely.affinity 0) := by
    unfold State.leafOf State.findCtx
    rw [show (stateFar k).ctxs = (statePl lonely).ctxs from rfl, show (stateFar k).mem = (statePl lonely).mem from rfl]
  refine ⟨⟨stackOf 0x10000, Nat.mod_lt _ (by decide), ?_⟩, by decide +kernel⟩
  unfold State.stackAt
  rw [e, h]
  dsimp only
  rw [if_pos (by decide +kernel)]
  exact congrArg (fun a => some (stackOf a)) (by decide +kernel)

theorem witness_Placement_saved :
    stateSaved.g.p.id = ⟨1, 0, 0⟩ ∧ (run1 .saved .none).index = 0 ∧ stateSaved.g.recs = [] ∧
    stateSaved.g.asksLease = false ∧ stateSaved.g.image = none ∧ stateSaved.g.present = true ∧ stateSaved.others = [] := by
  decide +kernel

/-- The tables of the first GiB with A and D set in the leaf: memory that agrees with them below 1 MiB maps it. -/
def tabW : BMap 8 := [(0x1000, 0x01), (0x1001, 0x20), (0x2000, 0x01), (0x2001, 0x30), (0x3000, 0xCF)]
def leafW : Leaf := { at_ := 0x3000, e := 0xCF, level := 3 }

theorem vaIndex_low {x l : Nat} (hx : x < 2 ^ 30) (h : 3 ≤ l) : vaIndex x l = 0 := by
  have : 2 ^ 30 ≤ 2 ^ (12 + 9 * (l - 1)) := Nat.pow_le_pow_right (by omega) (by omega)
  rw [vaIndex, Nat.div_eq_of_lt (by omega)]

theorem read_W {m : BMap 8} (h : ∀ a, a < 0x100000 → BMap.get m a = BMap.get tabW a) {a : Nat} (ha : a + 8 ≤ 0x100000) :
    Mem.read64 m a = Mem.read64 tabW a := by
  unfold Mem.read64
  rw [BMap.readNat_congr fun i hi => h (a + i) (by omega)]

theorem walk_W {m : BMap 8} (h : ∀ a, a < 0x100000 → BMap.get m a = BMap.get tabW a) {x : Nat} (hx : x < 2 ^ 30) :
    walkFrom m x 5 0x1000 = .ok leafW := by
  have r5 : Mem.read64 m 0x1000 = 0x2001#64 := (read_W h (by omega)).trans (by decide +kernel)
  have r4 : Mem.read64 m 0x2000 = 0x3001#64 := (read_W h (by omega)).trans (by decide +kernel)
  have r3 : Mem.read64 m 0x3000 = 0xCF#64 := (read_W h (by omega)).trans (by decide +kernel)
  have p5 : pteAddr 0x2001#64 = 0x2000 := by decide
  have p4 : pteAddr 0x3001#64 = 0x3000 := by decide
  have step {l t : Nat} (h1 : l ≠ 0) : ∀ e : BitVec 64, Mem.read64 m (t + 8 * vaIndex x (l + 1)) = e → e.getLsbD 0 = true →
      e.extractLsb' 52 7 = 0#7 → e.getLsbD 11 = false → e.getLsbD 1 = false →
      walkFrom m x (l + 1) t = walkFrom m x l (pteAddr e) := by
    intro e he a b c d
    rw [walkFrom]
    dsimp only
    rw [he, if_neg (by rw [a]; decide), if_neg (by rw [b, c]; decide), if_pos (by rw [d]; decide), if_neg h1]
  rw [step (l := 4) (by omega) 0x2001#64 (by rw [vaIndex_low hx (by omega)]; exact r5) (by decide) (by decide) (by decide) (by decide), p5,
    step (l := 3) (by omega) 0x3001#64 (by rw [vaIndex_low hx (by omega)]; exact r4) (by decide) (by decide) (by decide) (by decide), p4]
  have v3 : 0x3000 + 8 * vaIndex x (2 + 1) = 0x3000 := by rw [vaIndex_low hx (by omega)]
  unfold walkFrom
  dsimp only
  rw [v3, r3, if_neg (by decide), if_neg (by decide), if_neg (by decide), if_neg (by decide), if_neg (by decide +kernel),
    if_neg (by decide), if_neg (by decide +kernel)]
  rfl

theorem pa_W {x : Nat} (hx : x < 2 ^ 30) : leafW.pa x = x := by
  show pteAddr 0xCF#64 + x % leafSize 3 = x
  rw [show pteAddr 0xCF#64 = 0 by decide, Nat.mod_eq_of_lt (by rw [leafSize]; omega), Nat.zero_add]

theorem same_W {m : BMap 8} (h : ∀ a, a < 0x100000 → BMap.get m a = BMap.get tabW a) (a : Nat) :
    BMap.get (markUsed m leafW true) a = BMap.get m a := by
  have e : markUsed m leafW true = BMap.writeNat m 0x3000 8 0xCF := by
    have r3 : Mem.read64 m 0x3000 = 0xCF#64 := (read_W h (by omega)).trans (by decide +kernel)
    show setAD m 0x3000 true = _
    unfold setAD
    rw [r3]
    rfl
  rw [e]
  by_cases ha : 0x3000 ≤ a ∧ a < 0x3008
  · have hi : a - 0x3000 < 8 := by omega
    have := BMap.get_writeNat_in m (a := 0x3000) 0xCF hi
    rw [show 0x3000 + (a - 0x3000) = a by omega] at this
    rw [this, h a (by omega)]
    obtain ⟨i, rfl⟩ : ∃ i, a = 0x3000 + i := ⟨a - 0x3000, by omega⟩
    rw [Nat.add_sub_cancel_left] at hi ⊢
    clear this ha h e m
    revert i
    decide +kernel
  · exact BMap.get_writeNat_out _ _ (by omega)

def stateW : State := { state1 (regs []) with mem := tabW }

/-- Whatever stands from 1 MiB on, the mapping stays. -/
theorem witness_Writable : Writable stateW 1 0x100000 557824 := by
  refine ⟨by decide +kernel, fun a => 0x100000 ≤ a ∧ a < 0x100000 + 557824, fun u hc hm x h1 h2 => ?_⟩
  have h : ∀ a, a < 0x100000 → BMap.get u.mem a = BMap.get tabW a := fun a ha => hm a (by omega)
  have hx : x < 2 ^ 30 := by omega
  refine ⟨leafW, ?_, by rw [pa_W hx]; exact ⟨h1, h2⟩, same_W h⟩
  have hb : x < bindBase := by have : 2 ^ 30 ≤ bindBase := by decide
                               omega
  have fc : u.findCtx 1 = some context1 := by
    unfold State.findCtx; rw [hc]; rfl
  have lc : leafCheck { write := true } leafW = .ok () := by
    unfold leafCheck
    dsimp only
    simp +decide only [ite_false]
  unfold State.leafOf
  rw [fc]
  simp only [show context1.live = true from rfl, show context1.root = some 0x1000 from rfl, Bool.true_and, decide_eq_true hb, if_true, walk_W h hx, lc]

/-- A stopped group, and a note of zero registers but for k0 and program counters at 0. -/
theorem witness_DebugService_buffers :
    (let s : State := { stateW with g := { group1 (regs []) with dbg := { Dbg.reset with stopped := true } } }
     s.g.present = true ∧ dbgReq.all = false ∧ dbgReq.who = s.g.p.id ∧ s.g.p.ctx = dbgReq.ctx ∧ s.g.ended = false ∧
      s.g.dbg.stopped = true ∧ s.g.nat.on = false ∧ dbgReq.buf % 64 = 0 ∧
      (s.attach 1).ctxs.map Ctx.root = stateW.ctxs.map Ctx.root ∧
      (∃ f, (s.attach 1).leafOf 1 { fetch := true } (fieldAt (256 ^ 320 * (2 ^ 32 - 1)) 64 8 % 2 ^ 57) = .ok f)) ∧
    (let v := 256 ^ 320 * (2 ^ 32 - 1)
     fieldAt v 320 4 = 2 ^ 32 - 1 ∧ fieldAt v 768 8 = 0 ∧ fieldAt v 352 2 = 0 ∧
      (∀ i, i < 16 → fieldAt v (352 + 2 * i) 2 < 2 ^ 15) ∧
      (∀ l, l < 32 → fieldAt v (64 + 8 * l) 8 = 0)) ∧
    40 * (profReq 3 2).arg1.toNat ≤ 557824 ∧ (profReq 3 2).arg0.toNat + (profReq 3 2).arg1.toNat ≤ 144 := by
  refine ⟨⟨rfl, rfl, rfl, rfl, rfl, rfl, rfl, by decide, rfl, { at_ := 0x3000, e := 0xCF, level := 3 }, ?_⟩, ?_⟩
  · rw [show fieldAt (256 ^ 320 * (2 ^ 32 - 1)) 64 8 % 2 ^ 57 = 0 by decide +kernel]; rfl
  · decide +kernel
/-- A set of two whose other member is of another group of the block: the group's one lane completes it. -/
theorem witness_OrderedSets_last :
    let m : SetMember := { lrid := State.reset.devloc.toNat * 2 ^ 34 + 36, operand := 3, who := ⟨1, 0, 1⟩, lane := 4, msg := none }
    let o : OrderedSet := { slice := 0, pa := 0x10000, size := 8, opc := 0, p := 2, members := [m], deadline := 1000000 }
    let r : Regs := { regs [(5, 0x10000), (7, 2)] with pcv := oneLane }
    let g : Group := { group1 (regs []) with
      p := { (group1 (regs [])).p with id := ⟨1, 0, 1⟩ }, pend := .faor [(4, none)] }
    let s : State := { state1 r with sets := [o], others := [g] }
    let mine : SetMember := { lrid := s.lrid 0, operand := s.g.r.dataV 3 8 0, who := s.g.p.id, lane := 0, msg := none }
    (Instr.faor ⟨0, 4, 5, 7, 0, 0, 0, 3, 0⟩ ⟨4, 3, 8, 0, 0⟩).wellFormed = true ∧ s.g.r.active 0 = [0] ∧
    s.g.pend = .idle ∧ s.g.present = true ∧ s.joins = [] ∧ s.shelf = [] ∧ s.sets = [o] ∧ (s.source 7).toNat = 2 ∧
    o.pa = ((memSpan 0x10000 8).head?.map Span.at_).getD 0 ∧ o.size = szBytes 3 ∧ o.opc = (0#12).toNat % 16 ∧
    o.members.length + 1 = 2 ∧ m.who ≠ s.g.p.id ∧ g.p.id = m.who ∧ g.pend = .faor [(m.lane, none)] ∧ s.others = [g] ∧
    mine.lrid < m.lrid := by decide +kernel

/-- Its address is that of the word, and its registers can be read. -/
theorem witness_OrderedSets_ready :
    let s := state1 { regs [(5, 0x10000), (7, 2)] with pcv := oneLane }
    s.Ready 0 [5, 7] ∧ (s.check { mkAcc s 0 0 (s.source 5) 0 8 true true 0 with
      win := .globalOnly, host := false }).toOption = some (.here (memSpan 0x10000 8)) :=
  ⟨ready_of (by decide +kernel), by decide +kernel⟩

/-- A parked group whose comparison holds: the word at 0x10000 is 0. -/
theorem witness_HomeSlice_compare :
    let e : ShelfEntry :=
      { slice := 0, pa := 0x10000, size := 8, code := 0, comparand := 0, ctx := 1, who := some ⟨1, 0, 0⟩,
        deadline := none, wake := none }
    let s : State := { state1 (regs []) with shelf := [e], g := { group1 (regs []) with pend := .shelf none } }
    e ∈ s.shelf ∧ e.pa = 0x10000 ∧ e.who = some s.g.p.id ∧ s.g.present = true ∧
    waitCond e.code (BitVec.ofNat (8 * e.size) (BMap.readNat s.mem e.pa e.size)) (BitVec.ofNat _ e.comparand) = true := by
  decide +kernel

/-- The requests of witness_RequestsOfOthers find no unit asleep and nothing waiting before them; one of the same source
and class waits for a page; a launch of another device that ends. -/
theorem witness_RequestsOfOthers_order :
    (let s : State := { statePw 0 0 0 with ctxs := [context1], mem := tables, devloc := 0x4000, dies := [] }
     let m := req 8 [(0, 0x10000, 8)]
     s.asleepFor m = none ∧ s.waitsBefore m = none ∧ s.pins = [] ∧ m.acks.length ≤ 1 ∧ m.type ≠ 0x20 ∧
      (let x : PageWait := { who := ⟨2, 0, 0⟩, ctx := 1, page := 0x40000, req := .rd m, trap := ⟨.page, 0x40000000, 0, none⟩,
                             msg := m, refusal := none, answer := m, job := none, behind := false }
       ({ s with pageWaits := [x] } : State).waitsBefore m = some x) ∧
      s.asleepFor { m with type := 0x20 } = none ∧
      ({ s with dies := (List.range 4).map fun d => (d, { (default : DieSt) with power := 3 }) } : State).asleepFor
        { m with type := 0x20 } ≠ none) ∧
    ({ req 0x0F [] with kind := 3 } : Msg).kind = 3 := by decide +kernel

/-- A SEND whose message gets FAULT or WAKE. -/
theorem witness_RepliesToRequests_sends :
    let o : SendOut := { index := 2, loc := 0x4001, queue := 5, value := 1, pc := 0, retryAt := 0, deadline := 9 }
    let s : State := { state1 (regs []) with g := { group1 (regs []) with sends := [o] } }
    let m (k : Nat) : Msg := { (default : Msg) with kind := k, who := ⟨1, 0, 0⟩, operand := 2 }
    s.g.sends = [o] ∧ s.g.pend = .idle ∧ s.jobs = [] ∧ s.others = [] ∧
    ∀ k ∈ ([1, 16] : List Nat), (m k).who = s.g.p.id ∧ (m k).operand = o.index ∧ (m k).kind = k := by decide +kernel

/-- Records that were lost, with no process that has DROP records, and with one; and the oldest record of the buffer. -/
theorem witness_Profiling_drop :
    let r : TraceRec := { type := 1, core := 0, part := 0, slot := 0, group := 0, block := 0, seq := 0, time := 0, payload := 0 }
    let s (c : SMap ProfCfg) : State :=
      { state1 (regs []) with trace := { State.reset.trace with cfg := c, buf := [r], lost := 3 } }
    (s []).trace.buf = [r] ∧ (s []).trace.lost ≠ 0 ∧ (s []).dropOn = false ∧
    (s [(1, { period := 256, types := 0x1000, filter := 0xFFFFFFFF, port := true })]).dropOn = true ∧
    ([] : List TraceRec).length < 4096 := by decide +kernel

/-- Nothing of the host hangs on what the opaque `Config.mboxCommand` reads in a mailbox word: one of its four clauses
applies to every word. -/
theorem witness_HostInterface_mailbox (n : Nat) (w : BitVec 64) :
    (∃ p ds, Config.mboxCommand n w = .podSet p ds) ∨ (∃ p, Config.mboxCommand n w = .linkPolicy p) ∨
    (∃ k, Config.mboxCommand n w = .svnCommit k) ∨ Config.mboxCommand n w = .other := by
  cases Config.mboxCommand n w <;> simp

/-- No group owes a result to the debugger; a block that is being saved; a stopped group in a region; and the process of
a stopped group that detaches. -/
theorem witness_DebugService_owes :
    (let s := state1 (regs [])
     ∀ g ∈ s.groups, g.dbg.stepping ≠ some (dbgReq.ctx, dbgReq.result) ∧ (dbgReq.ctx, dbgReq.result) ∉ g.dbg.stopAt ∧
      g.dbg.viewing = none) ∧
    (let s : State := { state1 (regs []) with
        launches := [{ (launch1 [run1 (.running 0 0) .save]) with id := 1 }] }
     s.beingSaved s.g.p.id = true ∧ s.g.dbg.stopped = false) ∧
    (let s : State := { stateN with g := { stateN.g with dbg := { Dbg.reset with stopped := true } } }
     s.g.dbg.stopped = true ∧ dbgReq.buf % 64 = 0 ∧ s.g.nat.on = true ∧ s.g.p.ctx = dbgReq.ctx ∧ s.others = []) := by
  decide +kernel

/-- VADD of v5 and v6 into v4. -/
def vaddWord : BitVec 64 := 0x1800040050060000

/-- A VADD of v5 and v6 into v4, of a group that checks it or has an error in v6; a failed check that named it; and a fault that
waits for a commit point. -/
def stateErr (late : List (Trap × Nat × Nat)) (checking : Option Nat) (xchk : Bool) (bad : List (RName × Nat)) : State :=
  { stateStep with
    mem := BMap.writeNat tables 0x8000 8 vaddWord.toNat
    xlats := [{ (default : Translation) with ctx := 1, entry := 0x8000, words := [(0x8000, vaddWord)] }]
    g := { stateStep.g with
      u := { stateStep.g.u with xchk := xchk }
      badRegs := bad
      nat := { (default : Native) with late := late, checking := checking } } }

theorem witness_ErrorsOfRegions (l c x b) : (stateErr l c x b).g.dbg = Dbg.reset ∧ (stateErr l c x b).g.nat.gate = [] ∧
    (stateErr [(⟨.fabric, 0, 0, none⟩, 0x8000, 0)] c x b).g.nat.late = [(⟨.fabric, 0, 0, none⟩, 0x8000, 0)] ∧
    (stateErr [] c x b).g.nat.late = [] := ⟨rfl, rfl, rfl, rfl⟩

theorem witness_ErrorsOfRegions_word :
    (stateErr [] none false [(.v 6, 0)]).breakpoint = none ∧
    (stateErr [] none false [(.v 6, 0)]).translated 0x8000 = some vaddWord ∧
    (stateErr [] none false [(.v 6, 0)]).readsBad (.vadd ⟨0, 4, 5, 6, 0, 0, 0⟩) = true ∧
    (stateErr [] (some 0x8000) true []).g.nat.checking = some (stateErr [] (some 0x8000) true []).pc ∧
    (stateErr [] none true []).g.u.xchk = true ∧ duplicated (.vadd ⟨0, 4, 5, 6, 0, 0, 0⟩) = true := by decide +kernel

theorem witness_ErrorsOfRegions_begins :
    ∃ v, exec (.vadd ⟨0, 4, 5, 6, 0, 0, 0⟩) (stateErr [] none false [(.v 6, 0)]).armBp = .next v ∧
      (stateErr [] none false [(.v 6, 0)]).begins v = true :=
  ⟨_, rfl, by decide +kernel⟩

/-- A slot that holds its own stub, in memory that is mapped and resident. -/
theorem witness_ObjectService_bind :
    let stub := 0x1FD * 2 ^ 48 + 16
    let g : GotSlot := { addr := 0x5000, name := [65], index := some 2 }
    let o : LObject := { (default : LObject) with
      ctx := 1, slots := [g], defs := [{ name := [65], value := 0x8000, strong := true }] }
    let s : State := { state1 (regs []) with
      objects := [o], mem := BMap.writeNat tables 0x5000 8 stub, g := { group1 (regs []) with pend := .xlate stub 0 } }
    s.slotOf 1 2 = some g ∧ s.awayIn 1 g.addr 8 = false ∧ s.slotHolds 1 g stub = true ∧ s.shelf = [] ∧
    lookupIn (s.scope 1) g.name = some 0x8000 ∧ s.g.pend = .xlate stub 0 := by decide +kernel
/-! ### Single steps, with results worked out from the rules -/

/-- What a test asks of the state that an instruction answers. -/
def after (i : Instr) (s : State) (p : State → Bool) : Bool :=
  match exec i s with
  | .next t => p t
  | _ => false

/-- R91, R97: 0x7FFFFFFF + 1 at S32 is −2^31, extended; R14: s0 stays 0. -/
theorem test_add_wraps :
    after (.add ⟨0, 1, 2, 3, 0, 4, 0⟩) (state1 (regs [(2, 0x7FFFFFFF), (3, 1)])) (fun t =>
      t.g.r.getS 1 == 0xFFFFFFFF80000000 && t.pc == 8) = true ∧
    after (.add ⟨0, 0, 2, 3, 0, 6, 0⟩) (state1 (regs [(2, 5), (3, 1)])) (fun t => t.g.r.getS 0 == 0) = true := by
  decide +kernel

/-- R40: a quotient by 0 is all ones, and the least value by −1 wraps. -/
theorem test_div_corners :
    after (.div ⟨0, 1, 2, 3, 0, 7, 0⟩) (state1 (regs [(2, 9)])) (fun t => t.g.r.getS 1 == BitVec.allOnes 64) = true ∧
    after (.div ⟨0, 1, 2, 3, 0, 6, 0⟩) (state1 (regs [(2, 0x8000000000000000), (3, BitVec.allOnes 64)]))
      (fun t => t.g.r.getS 1 == 0x8000000000000000) = true := by decide +kernel

/-- R98: a shift by the width gives 0, and SAR keeps the sign. -/
theorem test_shifts_at_width :
    after (.shl ⟨0, 1, 2, 3, 0, 5, 0⟩) (state1 (regs [(2, 0xFFFFFFFF), (3, 32)])) (fun t => t.g.r.getS 1 == 0) = true ∧
    after (.sar ⟨0, 1, 2, 3, 0, 6, 0⟩) (state1 (regs [(2, 0x8000000000000000), (3, 64)]))
      (fun t => t.g.r.getS 1 == BitVec.allOnes 64) = true := by decide +kernel

/-- R105: VSUB under guard k1 writes lane 2 only. -/
theorem test_vsub_guard :
    after (.vsub ⟨1, 1, 1, 2, 0, 5, 0⟩)
      (state1 { regs [] with k := [(1, 4)], v := [(32, 9), (34, 7), (66, 8)] })
      (fun t => t.g.r.getV 1 2 == 0xFFFFFFFF && t.g.r.getV 1 0 == 9) = true := by decide +kernel

/-- R111: 1.5 · 2.0 + 0.25 = 3.25 in FP32. -/
theorem test_vfma :
    after (.vfma ⟨1, 4, 1, 2, 3, 10⟩)
      (state1 { regs [] with k := [(1, 1)], v := [(32, 0x3FC00000), (64, 0x40000000), (96, 0x3E800000)] })
      (fun t => t.g.r.getV 4 0 == 0x40500000) = true := by decide +kernel

/-- R117: 2.5 to S8 rounds to nearest with ties away by default: 3. -/
theorem test_vcvt_default_direction :
    after (.vcvt ⟨1, 4, 1, 0, 0xA0, 0, 0⟩) (state1 { regs [] with k := [(1, 1)], v := [(32, 0x40200000)] })
      (fun t => t.g.r.getV 4 0 == 3) = true := by decide +kernel

/-- R159: BR by −1 from 0x8000 goes to 0x7FF8; R161: LOOP at 1 falls through with 0. -/
theorem test_transfers :
    after (.br ⟨0, 0, 0xFFFFFFFF, 0⟩) (state1 { regs [] with pcv := at_ 0x8000 }) (fun t => t.pc == 0x7FF8) = true ∧
    after (.loop ⟨0, 1, 0xFFFFFFFF, 0⟩) (state1 { regs [] with pcv := at_ 0x8000, lc := [(1, 1)] })
      (fun t => t.pc == 0x8008 && t.g.r.getLc 1 == 0) = true := by decide +kernel

/-- R128, R136: STI of 4 bytes then LDI of 2 reads the low half, zero-extended (R2: little-endian). -/
theorem test_store_then_load :
    after (.sti ⟨0, 6, 5, 0, 0, 0, 0, 2, 0⟩) (state1 (regs [(5, 0x10000), (6, 0x12345678)])) (fun t =>
      BMap.get t.mem 0x10003 == 0x12 &&
      after (.ldi ⟨0, 7, 5, 0, 0, 0, 0, 1, 0⟩) t (fun u => u.g.r.getS 7 == 0x5678)) = true := by decide +kernel

/-- R133, R169: an address that no table maps, of a context the runtime serves no page of, takes PAGE, held with its address; R397: the process ends. -/
theorem test_page_fault :
    after (.ldi ⟨0, 7, 5, 0, 0, 0, 0, 3, 0⟩)
      { state1 (regs [(5, 0x40000000)]) with ctxs := [{ context1 with live := false }] } (fun t =>
      t.g.r.faultcause == 4 && t.g.r.faultva == 0x40000000 && t.g.r.faultpc == 0 && t.g.stall == .fault) = true := by
  decide +kernel

/-- R133, R408: a load of a poisoned byte takes MCHK there; a store of the byte leaves it clean. -/
theorem test_poison :
    (after (.ldi ⟨0, 7, 5, 0, 0, 0, 0, 3, 0⟩) { state1 (regs [(5, 0x10000)]) with poison := [(0x10003, 1)] } (fun t =>
      t.g.r.faultcause == 14 && t.g.r.faultva == 0x10003 && t.g.r.getS 7 == 0) &&
     after (.sti ⟨0, 7, 5, 0, 0, 0, 0, 3, 0⟩) { state1 (regs [(5, 0x10000)]) with poison := [(0x10003, 1)] } (fun t =>
      t.poison == [])) = true := by decide +kernel

/-- R143, R145: two lanes add to one word in lane order and read 0 and 5. -/
theorem test_fao_lane_order :
    after (.fao ⟨1, 4, 5, 0, 0, 0, 0, 2, 0⟩ ⟨4, 0, 6, 0, 0⟩)
      (state1 { regs [(5, 0x10000)] with k := [(1, 3)], v := [(6 * 32, 5), (6 * 32 + 1, 7)] }) (fun t =>
      t.g.r.getV 4 0 == 0 && t.g.r.getV 4 1 == 5 && BMap.readNat t.mem 0x10000 4 == 12) = true := by decide +kernel

/-- R155: the arrival that fills the phase starts the next. -/
theorem test_bara_fills :
    after (.bara ⟨0, 7, 6, 0, 0, 0, 0, 4, 0⟩ ⟨1, 0, 0, 0, 0⟩)
      { state1 (regs [(6, 0x1FF000000000000)]) with blocks := [{ block1 with scratch := [(0, 2), (4, 1), (8, 5)] }] }
      (fun t => t.g.r.getS 7 == 5 && BMap.readNat t.scratch 8 4 == 6 && BMap.readNat t.scratch 4 4 == 0) = true := by
  decide +kernel

/-- R150: DEQ of the one element moves HEAD and gives its old value. -/
theorem test_deq :
    after (.deq ⟨0, 7, 5, 0, 0, 0, 0, 0, 0⟩ ⟨4, 1, 6, 0, 0⟩)
      { stateRing 3 4 with mem := BMap.writeNat (ringBytes 3 4) 0x20008 8 77 } (fun t =>
      t.g.r.getS 7 == 3 && BMap.readNat t.mem 0x10000 8 == 4 && BMap.readNat t.mem 0x30000 8 == 77) = true := by
  decide +kernel

/-- R133, R150: a misaligned buffer (ALIGN, item 5) is reported before an invalid control block (PROT 0x06, item 9). -/
theorem test_enq_precedence :
    after (.enq ⟨0, 7, 5, 0, 0, 0, 0, 0, 0⟩ ⟨4, 2, 6, 0, 0⟩)
      { stateRing 3 4 with mem := BMap.writeNat (ringBytes 3 4) 0x10019 1 0,
                            g := { (stateRing 3 4).g with r := regs [(5, 0x10000), (6, 0x30004)] } } (fun t =>
      t.g.r.faultcause == 3 && t.g.r.faultva == 0x30004) = true := by decide +kernel

/-- R174: TRAP reaches the runtime with its code in %faultaux, its lanes already at the successor. -/
theorem test_trap :
    after (.trap ⟨0, 0, 0, 0x54321, 0, 0⟩) (state1 { regs [] with pcv := at_ 0x8000 }) (fun t =>
      t.g.r.faultcause == 15 && t.g.r.faultaux == 0x54321 && t.g.r.faultpc == 0x8000 && t.pc == 0x8008) = true := by
  decide +kernel

/-- R65: a step right after reset fetches and runs the word placed there: ADDI s1, s0, 5. -/
theorem test_step_runs_placed_word :
    (match step (State.reset.withFetchWord 64 0x1500010000000506) with
     | .next t => t.g.r.getS 1 == 5
     | _ => false) = true := by decide +kernel

/-- R384: a SETBP record for group 3 of block 9 of launch 5, with ALL clear. -/
theorem test_debug_record : Sys2Proof.Machine.dbgReq
    (0x04 + 7 * 2 ^ 16 + 5 * 2 ^ 32 + (9 * 32 + 3) * 2 ^ 64 + 2 * 2 ^ 128 + 0x100 * 2 ^ 320) =
    { all := false, ctx := 7, who := ⟨5, 9, 3⟩, arg0 := 2, arg1 := 0, buf := 0, result := 0x100 } := by decide +kernel
end Sys2Proof.Tests
end

section
/-! ### What every step keeps of memory and of the groups' privilege (O59)

Memory's canonical form (R2) and the groups that hold privilege S (R8, R20, R31) rest on three parts of the state
only: memory, the face of the group in focus, and the other groups. `State.Inv` speaks of these parts alone, so a
change of any other field keeps it by definition. One lemma for each function that a step runs (`inv_<its name>`) says
that the function keeps it, in the order of the model's files; `inv_step` puts them together for a step, and the
obligation follows. -/

namespace Sys2Proof.Machine

/-- The facts of a state that every step keeps: the canonical form of memory (R2), and that the groups that hold
privilege S are of the system context (R8, R20, R31). The second one says nothing of a focus group that is not there,
unless it is held in the stronger form, `focus`, as it is once a group has been brought into focus to be tried. -/
inductive Facet where
  | memory
  | privilege
  | focus

/-- What the privilege of a group rests on: whether it is there, whether it holds S, and its context. -/
def Group.face (g : Group) : Bool × Bool × Nat := (g.present, g.u.super, g.p.ctx)

/-- A group that holds privilege S is of the system context. -/
def FaceOk (face : Bool × Bool × Nat) : Prop := face.2.1 = true → face.2.2 = 0

/-- What a fact of the state says of one group. -/
def Group.Inv (k : Facet) (g : Group) : Prop :=
  match k with
  | .memory => True
  | _ => FaceOk g.face

theorem Group.inv_congr {k : Facet} {g g' : Group} (e : g.face = g'.face) : g.Inv k ↔ g'.Inv k := by
  unfold Group.Inv
  rw [e]

/-- A fact of the state, as a property of the only fields that it reads. -/
def Upheld (k : Facet) (mem : BMap 8) (face : Bool × Bool × Nat) (others : List Group) : Prop :=
  match k with
  | .memory => Memory.wf mem = true
  | .privilege => (face.1 = true → FaceOk face) ∧ ∀ g ∈ others, FaceOk g.face
  | .focus => FaceOk face ∧ ∀ g ∈ others, FaceOk g.face

/-- A fact of the state. A change to any other field keeps it by definition. -/
def State.Inv (k : Facet) (s : State) : Prop := Upheld k s.mem s.g.face s.others

/-- The states that a stop carries. -/
def Stop.Inv (k : Facet) : Stop → Prop
  | .trapIn s _ => s.Inv k
  | .hold s _ => s.Inv k
  | _ => True

/-- The state after a step. -/
def OutInv (k : Facet) : Out → Prop
  | .next s => s.Inv k
  | _ => True

/-- The state of a tile operation that runs. -/
def TRun.Inv (k : Facet) (x : TRun) : Prop := x.s.Inv k

/-- The state that an attempt at an operation leaves. -/
def Attempt.Inv (k : Facet) : Attempt → Prop
  | .done s => s.Inv k
  | .waits s => s.Inv k
  | .faults s => s.Inv k
  | .none => True

/-- The state that a slot's operation leaves. -/
def SlotEnd.Inv (k : Facet) : SlotEnd → Prop
  | .on s => s.Inv k
  | .stop s => s.Inv k
  | .waits s => s.Inv k

/-- What may come of a computation that can fail. -/
def Res {ε α : Type} (E : ε → Prop) (P : α → Prop) : Except ε α → Prop
  | .ok a => P a
  | .error e => E e

/-- What may come of a computation that can have no result. -/
def Opt {α : Type} (P : α → Prop) : Option α → Prop
  | some a => P a
  | none => True

theorem Res.ok {ε α : Type} {E : ε → Prop} {P : α → Prop} {x : Except ε α} {a : α} (h : Res E P x)
    (e : x = .ok a) : P a := by subst e; exact h

theorem Res.of_error {ε α : Type} {E : ε → Prop} {P : α → Prop} {e : ε} (h : E e) : Res E P (.error e) := h

theorem Res.of_ok {ε α : Type} {E : ε → Prop} {P : α → Prop} {a : α} (h : P a) : Res E P (.ok a) := h

theorem Res.error {ε α : Type} {E : ε → Prop} {P : α → Prop} {x : Except ε α} {a : ε} (h : Res E P x)
    (e : x = .error a) : E a := by subst e; exact h

theorem Opt.some {α : Type} {P : α → Prop} {x : Option α} {a : α} (h : Opt P x) (e : x = .some a) : P a := by
  subst e; exact h

theorem Opt.of_some {α : Type} {P : α → Prop} {a : α} (h : P a) : Opt P (.some a) := h

theorem Opt.map {α β : Type} {P : β → Prop} {f : α → β} {x : Option α} (h : ∀ a, P (f a)) : Opt P (x.map f) := by
  cases x with
  | none => trivial
  | some a => exact h a

theorem Opt.orElse {α : Type} {P : α → Prop} {x : Option α} {y : Unit → Option α} (hx : Opt P x) (hy : Opt P (y ())) :
    Opt P (x.orElse y) := by
  cases x with
  | none => exact hy
  | some => exact hx

theorem Opt.findSome {α β : Type} {P : β → Prop} {f : α → Option β} {l : List α} (hf : ∀ a, Opt P (f a)) :
    Opt P (l.findSome? f) := by
  cases e : l.findSome? f with
  | none => trivial
  | some b =>
    obtain ⟨a, _, ha⟩ := List.exists_of_findSome?_eq_some e
    exact (hf a).some ha

theorem Opt.unless {α : Type} {P : α → Prop} {x : Option α} {c : Prop} [Decidable c] (h : Opt P x) :
    Opt P (if c then none else x) := by
  split
  · trivial
  · exact h

theorem OutInv.next {k : Facet} {x : Out} {s : State} (h : OutInv k x) (e : x = .next s) : s.Inv k := by
  subst e; exact h

theorem Res.map {ε α β : Type} {E : ε → Prop} {P : α → Prop} {x : Except ε α} (f : α → β) (h : Res E P x) :
    Res E (fun _ => True) (x.map f) := by
  cases x with
  | ok => trivial
  | error => exact h

theorem mapError_eq_ok {ε ε' α : Type} {x : Except ε α} {f : ε → ε'} {a : α} (e : x.mapError f = .ok a) :
    x = .ok a := by
  cases x with
  | ok => simpa [Except.mapError] using e
  | error => exact nomatch e

/-- The errors of a computation over a list are those of its pieces. -/
theorem Res.mapM {ε α β : Type} {E : ε → Prop} {f : α → Except ε β} (hf : ∀ x, Res E (fun _ => True) (f x)) :
    ∀ l : List α, Res E (fun _ => True) (l.mapM f)
  | [] => trivial
  | x :: l => by
    rw [List.mapM_cons]
    have hx := hf x
    have hl := Res.mapM hf l
    cases hfx : f x with
    | error => exact hx.error hfx
    | ok =>
      cases hfl : l.mapM f with
      | error => exact hl.error hfl
      | ok => trivial

theorem Attempt.Inv.done {k : Facet} {x : Attempt} {s : State} (h : x.Inv k) (e : x = .done s) : s.Inv k := by
  subst e; exact h

theorem Attempt.Inv.waits {k : Facet} {x : Attempt} {s : State} (h : x.Inv k) (e : x = .waits s) : s.Inv k := by
  subst e; exact h

theorem SlotEnd.Inv.on {k : Facet} {x : SlotEnd} {s : State} (h : x.Inv k) (e : x = .on s) : s.Inv k := by
  subst e; exact h

theorem SlotEnd.Inv.stop {k : Facet} {x : SlotEnd} {s : State} (h : x.Inv k) (e : x = .stop s) : s.Inv k := by
  subst e; exact h

theorem SlotEnd.Inv.waits {k : Facet} {x : SlotEnd} {s : State} (h : x.Inv k) (e : x = .waits s) : s.Inv k := by
  subst e; exact h

theorem of_pair {α : Type} {P : State → Prop} {x : α × State} {a : α} {s : State} (h : P x.2) (e : x = (a, s)) :
    P s := by subst e; exact h

section
variable {k : Facet} {s : State}

/-- Work done once for each entry of a list keeps the fact when each piece of it does. -/
theorem inv_each {α : Type} {work : State → α → State} {todo : List α}
    (piece : ∀ u x, u.Inv k → (work u x).Inv k) (h : s.Inv k) : (todo.foldl work s).Inv k := by
  induction todo generalizing s with
  | nil => exact h
  | cons x _ ih => exact ih (piece s x h)

theorem TRun.inv_each {α : Type} {work : TRun → α → TRun} {todo : List α} {x : TRun}
    (piece : ∀ u a, u.Inv k → (work u a).Inv k) (h : x.Inv k) : (todo.foldl work x).Inv k := by
  induction todo generalizing x with
  | nil => exact h
  | cons a _ ih => exact ih (piece x a h)

theorem inv_getD {o : Option State} {d : State} (h : Opt (State.Inv k) o) (hd : d.Inv k) : (o.getD d).Inv k := by
  cases o with
  | none => exact hd
  | some => exact h

theorem inv_reset : State.reset.Inv k := by
  cases k
  · rfl
  all_goals exact ⟨fun h => (nomatch h), fun _ h => (nomatch h)⟩

/-- Memory, the focus group and the other groups may come of three states. -/
theorem State.Inv.mix {a b c t : State} (hm : a.Inv k) (hg : b.Inv k) (ho : c.Inv k) (em : t.mem = a.mem := by rfl)
    (eg : t.g.face = b.g.face := by rfl) (eo : t.others = c.others := by rfl) : t.Inv k := by
  unfold State.Inv
  rw [em, eg, eo]
  cases k with
  | memory => exact hm
  | privilege => exact ⟨hg.1, ho.2⟩
  | focus => exact ⟨hg.1, ho.2⟩

/-- A change of memory to another canonical one. -/
theorem State.Inv.withMem {m : BMap 8} (h : s.Inv k) (hm : Memory.wf s.mem = true → Memory.wf m = true) :
    ({ s with mem := m } : State).Inv k := by
  cases k
  · exact hm h
  all_goals exact h

/-- The fact holds of each of the other groups. -/
theorem State.Inv.other (h : s.Inv k) : ∀ g ∈ s.others, g.Inv k := by
  cases k
  · exact fun _ _ => trivial
  all_goals exact h.2

/-- The fact holds of the focus group when it is there. -/
theorem State.Inv.here (h : s.Inv k) (hp : s.g.present = true) : s.g.Inv k := by
  cases k with
  | memory => trivial
  | privilege => exact h.1 hp
  | focus => exact h.1

/-- The fact holds of every resident group. -/
theorem State.Inv.group {g : Group} (h : s.Inv k) (hg : g ∈ s.groups) : g.Inv k := by
  unfold State.groups at hg
  split at hg
  · rcases List.mem_cons.mp hg with rfl | hg
    · exact h.here ‹_›
    · exact h.other g hg
  · exact h.other g hg

/-- The fact holds of a group that a name finds. -/
theorem State.Inv.found {g : Group} {who : GRef} (h : s.Inv k) (e : s.findGroup who = some g) : g.Inv k := by
  unfold State.findGroup at e
  split at e
  · obtain rfl := Option.some.inj e
    exact h.here (‹_ ∧ _›).2
  · exact h.other g (List.mem_of_find?_eq_some e)

/-- Another focus group, and other groups, of each of which the fact holds. -/
theorem State.Inv.withGroups {g : Group} {l : List Group} (h : s.Inv k) (hg : g.Inv k ∨ g.face = s.g.face)
    (hl : ∀ x ∈ l, x.Inv k) : ({ s with g := g, others := l } : State).Inv k := by
  cases k with
  | memory => exact h
  | privilege =>
    refine ⟨fun hp => ?_, hl⟩
    rcases hg with hg | e
    · exact hg
    · exact (Group.inv_congr e).mpr (h.here ((congrArg Prod.fst e).symm.trans hp))
  | focus =>
    refine ⟨?_, hl⟩
    rcases hg with hg | e
    · exact hg
    · exact (Group.inv_congr (k := .focus) e).mpr h.1

theorem wf_dropRange {m : BMap 8} (a n : Nat) (h : Memory.wf m = true) : Memory.wf (SMap.dropRange m a n) = true :=
  wfFrom_filter _ h

/-- A change of the focus group that leaves its face. -/
theorem State.Inv.withG {g : Group} (h : s.Inv k) (e : g.face = s.g.face) : ({ s with g := g } : State).Inv k := by
  unfold State.Inv; rw [e]; exact h

/-- A change of every group that leaves their faces. -/
theorem State.Inv.mapGroups {g : Group} {f : Group → Group} (h : s.Inv k) (e : g.face = s.g.face)
    (hf : ∀ g, (f g).face = g.face) : ({ s with g := g, others := s.others.map f } : State).Inv k := by
  refine h.withGroups (.inr e) fun x hx => ?_
  obtain ⟨y, hy, rfl⟩ := List.mem_map.mp hx
  exact (Group.inv_congr (hf y)).mpr (h.other y hy)

/-- The focus group may leave. -/
theorem State.Inv.leave (h : s.Inv k) (q : Prop) [Decidable q] :
    ({ s with g := if q then { s.g with present := false } else s.g } : State).Inv k := by
  split
  · cases k with
    | memory => exact h
    | privilege => exact ⟨fun hp => (nomatch hp), h.2⟩
    | focus => exact h
  · exact h

/-- Groups that a predicate selects are taken away. -/
theorem State.Inv.withoutGroups (h : s.Inv k) (p : Group → Bool) (q : Prop) [Decidable q] :
    ({ s with g := if q then { s.g with present := false } else s.g
              others := s.others.filter fun g => !p g } : State).Inv k :=
  (h.leave q).withGroups (.inr rfl) fun x hx => h.other x (List.mem_filter.mp hx).1

/-- One group is changed to one of which the fact holds. -/
theorem inv_updGroup_of {who : GRef} {f : Group → Group} (hf : ∀ g, g.Inv k → (f g).Inv k) (h : s.Inv k) :
    (s.updGroup who f).Inv k := by
  unfold State.updGroup
  split
  · exact h.withGroups (.inl (hf _ (h.here (‹_ ∧ _›).2))) h.other
  · refine h.withGroups (.inr rfl) fun x hx => ?_
    obtain ⟨y, hy, rfl⟩ := List.mem_map.mp hx
    split
    · exact hf y (h.other y hy)
    · exact h.other y hy

theorem inv_updGroup {who : GRef} {f : Group → Group} (hf : ∀ g, (f g).face = g.face) (h : s.Inv k) :
    (s.updGroup who f).Inv k := by
  unfold State.updGroup
  split
  · exact h.withG (hf _)
  · refine h.mapGroups rfl fun g => ?_
    split
    · exact hf g
    · rfl

/-! ### Registers and records of the state (Machine/Regs) -/

theorem inv_mapR {f : Regs → Regs} (h : s.Inv k) : (s.mapR f).Inv k := h

theorem inv_setStall {r : Stall} (h : s.Inv k) : (s.setStall r).Inv k := h

theorem inv_updBlock {launch block : Nat} {f : Block → Block} (h : s.Inv k) : (s.updBlock launch block f).Inv k := h

theorem inv_updCtx {id : Nat} {f : Ctx → Ctx} (h : s.Inv k) : (s.updCtx id f).Inv k := h

theorem inv_later {i : Instr} (h : s.Inv k) : (s.later i).Inv k := h

theorem inv_fresh (h : s.Inv k) : s.fresh.2.Inv k := h

/-! ### Memory (Machine/Mem) -/

theorem inv_wakeSlice {slice : Nat} (h : s.Inv k) : (s.wakeSlice slice).Inv k := by
  unfold State.wakeSlice
  split
  · exact inv_later h
  · exact h

theorem inv_wakeOne {e : ShelfEntry} (h : s.Inv k) : (s.wakeOne e).Inv k := by
  unfold State.wakeOne
  split
  · exact inv_updGroup (fun _ => rfl) (inv_wakeSlice h)
  · exact inv_later (inv_wakeSlice h)
  · exact h

theorem inv_wakes {pa n : Nat} (h : s.Inv k) : (s.wakes pa n).Inv k := by
  unfold State.wakes
  split
  · exact h
  · exact inv_each (fun _ _ h1 => inv_wakeOne h1) h

theorem inv_writeMem {pa n v : Nat} (h : s.Inv k) : (s.writeMem pa n v).Inv k :=
  inv_wakes (h.withMem fun hm => BMap.wf_writeNat hm pa n v)

theorem inv_putMarks {who : GRef} {marks : List Nat} {l : List Span} (h : s.Inv k) :
    (s.putMarks who marks l).Inv k := by
  induction l generalizing s marks with
  | nil => exact h
  | cons p ps ih =>
    unfold State.putMarks
    apply ih
    split <;> exact h

theorem inv_writeSpans {l : List Span} {v : Nat} (h : s.Inv k) : (s.writeSpans l v).Inv k := by
  induction l generalizing s v with
  | nil => exact h
  | cons p ps ih =>
    unfold State.writeSpans
    apply ih
    split
    · exact h
    · split
      · exact h
      · exact inv_writeMem h

theorem inv_countRel {i n : Nat} (h : s.Inv k) : (s.countRel i n).Inv k := by
  unfold State.countRel
  dsimp only
  split
  · exact h
  · exact inv_writeSpans h

theorem inv_countHint {ctx : Nat} {f : Leaf} (h : s.Inv k) : (s.countHint ctx f).Inv k := by
  unfold State.countHint
  split
  · exact inv_updCtx h
  · exact h

theorem inv_touchPages {ctx fuel va n : Nat} {write : Bool} (h : s.Inv k) :
    (s.touchPages ctx write fuel va n).Inv k := by
  induction fuel generalizing s va n with
  | zero => exact h
  | succ fuel ih =>
    unfold State.touchPages
    split
    · exact h
    · apply ih
      split
      · exact h.withMem fun hm => wf_markUsed hm _ _
      · exact h

theorem inv_mark {a : Acc} (h : s.Inv k) : (s.mark a).Inv k := by
  unfold State.mark
  dsimp only
  split
  · exact h
  · split
    · exact h
    · split
      · exact inv_each (fun _ _ h1 => inv_touchPages h1) h
      · exact inv_touchPages h

theorem inv_countHints {pages : List (Nat × Nat)} (h : s.Inv k) : (s.countHints pages).Inv k := by
  unfold State.countHints
  refine inv_each (fun _ _ h0 => ?_) h
  split
  · exact inv_countHint h0
  · exact h0

theorem inv_touch {a : Acc} (h : s.Inv k) : (s.touch a).Inv k := inv_countHints (inv_mark h)

theorem inv_touchAll {l : List Acc} (h : s.Inv k) : (s.touchAll l).Inv k :=
  inv_countHints (inv_each (fun _ _ h2 => inv_mark h2) h)

/-! ### The replay log of a block (Machine/Log) -/

theorem inv_logOne {kind lane value : Nat} (h : s.Inv k) : (s.logOne kind lane value).Inv k := by
  unfold State.logOne
  dsimp only
  split
  · exact h
  · split
    · exact h
    · exact inv_updBlock (inv_writeSpans h)

theorem inv_logFrom {n : Nat} (h : s.Inv k) : (s.logFrom n).Inv k := by
  unfold State.logFrom
  dsimp only
  split <;> exact h

theorem inv_logAll {es : List (Nat × Nat × Nat)} (h : s.Inv k) : (s.logAll es).Inv k := by
  unfold State.logAll
  dsimp only
  split
  · exact inv_each (fun _ _ h1 => inv_logOne h1) h
  · exact h

theorem inv_logSkip (h : s.Inv k) : s.logSkip.Inv k := h

/-! ### Trace records (Machine/Trace) -/

theorem inv_flushDrop (h : s.Inv k) : s.flushDrop.Inv k := by
  unfold State.flushDrop
  dsimp only
  split <;> exact h

theorem inv_putRecord {r : TraceRec} (h : s.Inv k) : (s.putRecord r).Inv k := by
  unfold State.putRecord
  dsimp only
  split
  · split
    · exact inv_flushDrop h
    · exact h
  · split
    · exact inv_flushDrop h
    · exact h

theorem inv_emitAt {p : Place} {core type payload : Nat} (h : s.Inv k) : (s.emitAt p core type payload).Inv k := by
  unfold State.emitAt
  split
  · exact inv_putRecord h
  · exact h

theorem inv_emitFor {g : Group} {type payload : Nat} (h : s.Inv k) : (s.emitFor g type payload).Inv k := inv_emitAt h

theorem inv_emit {type payload : Nat} (h : s.Inv k) : (s.emit type payload).Inv k := inv_emitFor h

theorem inv_emitHub {ctx launch type payload : Nat} (h : s.Inv k) : (s.emitHub ctx launch type payload).Inv k := by
  unfold State.emitHub
  split
  · exact inv_putRecord h
  · exact h

theorem inv_arrayRecords {p : Place} {core nba n : Nat} {counts : List Nat} (h : s.Inv k) :
    (s.arrayRecords p core nba counts n).Inv k := by
  induction n generalizing s counts with
  | zero => exact h
  | succ n ih =>
    unfold State.arrayRecords
    dsimp only
    split
    · exact inv_emitAt h
    · exact ih (inv_emitAt h)

theorem inv_account {core : Nat} {counts : List Nat} (h : s.Inv k) : (s.account core counts).Inv k := h

theorem inv_closeIdle {p : Place} {core : Nat} (h : s.Inv k) : (s.closeIdle p core).Inv k := by
  unfold State.closeIdle
  dsimp only
  split
  · exact h
  · exact inv_account (inv_arrayRecords h)

theorem inv_closeCommands {p : Place} {core nba : Nat} {cmds : List (List Nat)} (h : s.Inv k) :
    (s.closeCommands p core nba cmds).Inv k :=
  inv_each (fun _ _ h2 => inv_arrayRecords h2) h

theorem inv_scanArray {core : Nat} (h : s.Inv k) : (s.scanArray core).Inv k := h

/-! ### Checks and accesses (Machine/Ops) -/

theorem Stop.inv_keep {ws : List Where} {e : Stop} (h : Stop.Inv k e) : Stop.Inv k (e.keep ws) := by
  cases e <;> exact h

theorem inv_writeFrame {lane : Nat} (h : s.Inv k) : (s.writeFrame lane).Inv k := by
  unfold State.writeFrame
  split
  · exact inv_writeSpans (inv_touch h)
  · exact h

theorem inv_endProcess (h : s.Inv k) : s.endProcess.Inv k := inv_later (inv_updCtx h)

theorem inv_enterHandler {t : Trap} {pc : Nat} {refused : Bool} (h : s.Inv k) :
    (s.enterHandler t pc refused).Inv k := by
  unfold State.enterHandler
  dsimp only
  split
  · exact inv_endProcess h
  · split
    · exact inv_each (fun _ _ h1 => inv_writeFrame h1) h
    · split
      · exact h
      · exact inv_endProcess h

theorem inv_countFault {c : Cause} (h : s.Inv k) : (s.countFault c).Inv k := by
  unfold State.countFault
  split
  · exact inv_countRel h
  · exact inv_countRel h
  · exact h

theorem inv_takeTrap {t : Trap} {pc : Nat} (h : s.Inv k) : (s.takeTrap t pc).Inv k := by
  unfold State.takeTrap
  dsimp only
  split
  · exact inv_countFault (inv_emit h)
  · split
    · exact inv_enterHandler (inv_countFault (inv_emit h))
    · exact inv_endProcess (inv_countFault (inv_emit h))

theorem inv_askMap {who : GRef} {page : Nat} (h : s.Inv k) : (s.askMap who page).Inv k := by
  unfold State.askMap
  split
  · exact inv_later h
  · exact h

theorem inv_faultHere {t : Trap} (h : s.Inv k) : (s.faultHere t).Inv k := by
  unfold State.faultHere
  dsimp only
  split
  · exact inv_askMap h
  · exact inv_takeTrap h

theorem inv_stopWith {e : Stop} (h : s.Inv k) (he : Stop.Inv k e) : (s.stopWith e).Inv k := by
  cases e with
  | trap => exact inv_faultHere h
  | trapIn => exact inv_takeTrap he
  | wait => exact h
  | hold => exact he

theorem inv_peekQ {r : Nat} : Res (Stop.Inv k) (fun _ => True) (s.peekQ r) := by
  unfold State.peekQ
  (repeat' split) <;> trivial

theorem inv_peekAll {srcs : List Nat} (h : s.Inv k) : Res (Stop.Inv k) (fun _ => True) (s.peekAll srcs) := by
  unfold State.peekAll
  dsimp only
  split
  · trivial
  · split
    · exact h
    · exact Res.mapM (fun _ => inv_peekQ.map _) _

theorem inv_popQ {r : Nat} (h : s.Inv k) : (s.popQ r).Inv k := by
  unfold State.popQ
  dsimp only
  split <;> exact h

theorem inv_popAll {n : Nat} {qv : List (Nat × BitVec 64)} (h : s.Inv k) : (s.popAll n qv).Inv k := by
  unfold State.popAll
  dsimp only
  split
  · exact h
  · split
    · exact inv_logSkip h
    · exact inv_logAll (inv_logFrom (inv_each (fun _ _ h3 => inv_popQ h3) h))

theorem inv_complete {s0 : State} {qv : List (Nat × BitVec 64)} {len : Nat} (hs : s.Inv k) :
    (s0.complete s qv len).Inv k :=
  inv_popAll hs

theorem inv_issue {g : BitVec 4} {len : Nat} {srcs : List Nat} {body : List Nat → (Nat → BitVec 64) → State → Eff}
    (h : s.Inv k) (hbody : ∀ act rd, Res (Stop.Inv k) (State.Inv k) (body act rd s)) :
    (s.issue g len srcs body).Inv k := by
  unfold State.issue
  dsimp only
  split
  · exact inv_complete h
  · split
    · exact inv_stopWith h ((inv_peekAll h).error ‹_›)
    · split
      · next e => exact inv_stopWith h ((hbody _ _).error e)
      · next e => exact inv_complete ((hbody _ _).ok e)

theorem inv_issueRegs {g : BitVec 4} {srcs : List Nat} {f : List Nat → (Nat → BitVec 64) → Regs → Regs} (h : s.Inv k) :
    (s.issueRegs g srcs f).Inv k :=
  inv_issue h (fun _ _ => inv_mapR h)

theorem inv_issueJump {g : BitVec 4} {srcs : List Nat} {body : List Nat → (Nat → BitVec 64) → Regs → Except Trap Regs}
    (h : s.Inv k) : (s.issueJump g srcs body).Inv k := by
  unfold State.issueJump
  dsimp only
  split
  · exact inv_complete h
  · split
    · exact inv_stopWith h ((inv_peekAll h).error ‹_›)
    · split
      · exact inv_stopWith h trivial
      · exact inv_popAll h

theorem inv_leaveHandler {l : List (Nat × BitVec 64)} (h : s.Inv k) : (s.leaveHandler l).Inv k := h

/-! ### Issue and operands (Machine/Operands) -/

theorem inv_sendReqs {checking : Bool} {hd : Head} {gs : List (List RemOp)} (h : s.Inv k) :
    (s.sendReqs checking hd gs).Inv k :=
  h

theorem inv_post {m : Msg} (h : s.Inv k) : (s.post m).Inv k := h

theorem inv_afterWait {x : PageWait} (h : s.Inv k) : (s.afterWait x).Inv k := inv_each (fun _ _ h1 => inv_later h1) h

theorem inv_farAnswer {ops : List RemOp} {write : Bool} {reqs : List ReqOut} :
    Res (Stop.Inv k) (fun _ => True) (farAnswer ops write reqs) := by
  unfold farAnswer
  dsimp only
  (repeat' split) <;> trivial

theorem inv_remote {hd : Head} {ops : List RemOp} {twoPhase : Bool} (h : s.Inv k) :
    Res (Stop.Inv k) (fun _ => True) (s.remote hd ops twoPhase) := by
  unfold State.remote
  dsimp only
  split
  · split
    · trivial
    · split
      · split
        · trivial
        · exact inv_sendReqs h
      · exact inv_farAnswer
  · split <;> exact inv_sendReqs h

theorem inv_checkFar {hd : Head} {l : List Acc} (h : s.Inv k) :
    Res (Stop.Inv k) (fun _ => True) (s.checkFar hd l) := by
  unfold State.checkFar
  dsimp only
  split
  · trivial
  · split
    · trivial
    · split
      · (repeat' split) <;> trivial
      · exact inv_sendReqs h

theorem inv_orFarFault {hd : Head} {op : RemOp} {t : Trap} (h : s.Inv k) : Stop.Inv k (s.orFarFault hd op t) := by
  unfold State.orFarFault
  split
  · (repeat' split) <;> trivial
  · exact inv_sendReqs h

/-! ### Loads and stores (Machine/MemOps) -/

theorem inv_loadAt {hd : Head} {l : List (Acc × Where)} (h : s.Inv k) :
    Res (Stop.Inv k) (fun x => x.st.Inv k) (s.loadAt hd l) := by
  unfold State.loadAt
  dsimp only
  split
  · exact inv_touchAll h
  · split
    · exact (inv_remote h).error ‹_›
    · exact inv_touchAll h

theorem inv_loadAll {hd : Head} {accs : List Acc} (h : s.Inv k) :
    Res (Stop.Inv k) (fun x => x.st.Inv k) (s.loadAll hd accs) := by
  unfold State.loadAll
  split
  · exact (inv_checkFar h).error ‹_›
  · split
    · exact Stop.inv_keep ((inv_loadAt h).error ‹_›)
    · exact (inv_loadAt h).ok ‹_›

theorem inv_storeAt {hd : Head} {l : List ((Acc × Nat) × Where)} (h : s.Inv k) :
    Res (Stop.Inv k) (State.Inv k) (s.storeAt hd l) := by
  unfold State.storeAt
  dsimp only
  split
  · exact inv_each (fun _ _ h1 => inv_writeSpans (inv_touch h1)) h
  · split
    · exact (inv_remote h).error ‹_›
    · split <;> exact inv_each (fun _ _ h1 => inv_writeSpans (inv_touch h1)) h

theorem inv_storeAll {hd : Head} {accs : List (Acc × Nat)} (h : s.Inv k) :
    Res (Stop.Inv k) (State.Inv k) (s.storeAll hd accs) := by
  unfold State.storeAll
  split
  · exact (inv_checkFar h).error ‹_›
  · split
    · exact Stop.inv_keep ((inv_storeAt h).error ‹_›)
    · exact (inv_storeAt h).ok ‹_›

theorem inv_finishLoad {l : Loaded} {f : List (Nat × Nat) → Regs → Regs} (hl : l.st.Inv k) :
    Res (Stop.Inv k) (State.Inv k) (finishLoad l f) := by
  unfold finishLoad
  split <;> exact inv_mapR hl

theorem inv_loadScalar {f : FM} {len : Nat} {srcs : List Nat} {xorg : Bool} {scope ord : Nat}
    {off : (Nat → BitVec 64) → Int} (h : s.Inv k) : (s.loadScalar f len srcs xorg scope ord off).Inv k := by
  unfold State.loadScalar
  refine inv_issue h (fun _ _ => ?_)
  dsimp only
  split
  · exact (inv_loadAll h).error ‹_›
  · exact inv_finishLoad ((inv_loadAll h).ok ‹_›)

theorem inv_storeScalar {f : FM} {len : Nat} {srcs : List Nat} {scope ord : Nat} {off : (Nat → BitVec 64) → Int}
    (h : s.Inv k) : (s.storeScalar f len srcs scope ord off).Inv k :=
  inv_issue h (fun _ _ => inv_storeAll h)

theorem inv_loadVector {f : FM} {len : Nat} {srcs : List Nat} {xorg : Bool} {scope ord : Nat}
    {off : (Nat → BitVec 64) → Nat → Int} (h : s.Inv k) : (s.loadVector f len srcs xorg scope ord off).Inv k := by
  unfold State.loadVector
  refine inv_issue h (fun _ _ => ?_)
  dsimp only
  split
  · exact (inv_loadAll h).error ‹_›
  · exact inv_finishLoad ((inv_loadAll h).ok ‹_›)

theorem inv_storeVector {f : FM} {len : Nat} {srcs : List Nat} {scope ord : Nat} {off : (Nat → BitVec 64) → Nat → Int}
    (h : s.Inv k) : (s.storeVector f len srcs scope ord off).Inv k :=
  inv_issue h (fun _ _ => inv_storeAll h)

theorem inv_cacheForm {f : FM} {srcs : List Nat} {index : (Nat → BitVec 64) → Nat → Int} (h : s.Inv k) :
    (s.cacheForm f srcs index).Inv k :=
  inv_issue h (fun _ _ => inv_touchAll h)

theorem inv_keptOf {l : List (Acc × Except Ranked Where)} {e : Stop} (he : Stop.Inv k e) :
    Stop.Inv k (keptOf l e) := by
  unfold keptOf
  split
  · exact Stop.inv_keep he
  · exact he

theorem inv_farVals {f : FM} {w : W1} {ps : List (Acc × Except Ranked Where)} (h : s.Inv k) :
    Res (Stop.Inv k) (fun _ => True) (s.farVals f w ps) := by
  unfold State.farVals
  dsimp only
  split
  · trivial
  · split
    · trivial
    · split
      · split
        · trivial
        · exact h
      · exact inv_sendReqs h

theorem inv_keepPtrs {vals : List (Nat × Nat)} (h : s.Inv k) : (s.keepPtrs vals).Inv k := by
  unfold State.keepPtrs
  dsimp only
  split <;> exact h

theorem inv_farTargets {f : FM} {w : W1} {write : Bool} {accs : List Acc} (h : s.Inv k) :
    Res (Stop.Inv k) (fun x => x.1.Inv k) (s.farTargets f w write accs) := by
  unfold State.farTargets
  dsimp only
  split
  · exact inv_keptOf ((inv_farVals h).error ‹_›)
  · split
    · split
      · exact h
      · exact inv_keepPtrs h
    · split
      · split
        · trivial
        · split
          · trivial
          · exact inv_keptOf (inv_keepPtrs h)
      · split
        · trivial
        · split
          · trivial
          · exact inv_keptOf (inv_keepPtrs h)

theorem inv_execNld {f : FM} {w : W1} (h : s.Inv k) : OutInv k (execNld f w s) := by
  unfold execNld
  refine inv_issue h (fun _ _ => ?_)
  dsimp only
  split
  · exact (inv_farTargets h).error ‹_›
  · split
    · exact Stop.inv_keep ((inv_loadAt ((inv_farTargets h).ok ‹_›)).error ‹_›)
    · exact inv_finishLoad (inv_touchAll ((inv_loadAt ((inv_farTargets h).ok ‹_›)).ok ‹_›))

theorem inv_execNst {f : FM} {w : W1} (h : s.Inv k) : OutInv k (execNst f w s) := by
  unfold execNst
  refine inv_issue h (fun _ _ => ?_)
  dsimp only
  split
  · exact (inv_farTargets h).error ‹_›
  · split
    · exact Stop.inv_keep ((inv_storeAt (inv_touchAll ((inv_farTargets h).ok ‹_›))).error ‹_›)
    · exact (inv_storeAt (inv_touchAll ((inv_farTargets h).ok ‹_›))).ok ‹_›

theorem inv_bumpFlag {l : List Span} (h : s.Inv k) : (s.bumpFlag l).Inv k := inv_writeSpans h

theorem inv_execStf {f : FM} {w : W1} (h : s.Inv k) : OutInv k (execStf f w s) := by
  unfold execStf
  refine inv_issue h (fun _ _ => ?_)
  dsimp only
  split
  · exact (inv_checkFar h).error ‹_›
  · split
    · exact inv_bumpFlag (inv_touch (inv_each (fun _ _ h3 => inv_writeSpans (inv_touch h3)) h))
    · split
      · split
        · trivial
        · split
          · trivial
          · exact h
      · exact Res.of_error (Stop.inv_keep (inv_sendReqs h))

/-! ### Atomics and their ordered sets (Machine/Atomics) -/

theorem inv_logWait (h : s.Inv k) : Stop.Inv k s.logWait := h

theorem inv_atomic {o : AtomicOp} (h : s.Inv k) : (s.atomic o).2.Inv k := by
  unfold State.atomic
  dsimp only
  split
  · exact inv_writeSpans h
  · split
    · exact inv_writeSpans h
    · exact h

theorem inv_atomics {ops : List AtomicOp} (h : s.Inv k) : (s.atomics ops).2.Inv k := by
  induction ops generalizing s with
  | nil => exact h
  | cons o os ih => exact ih (inv_atomic h)

theorem inv_applyWave {who : GRef} {j : Nat} (h : s.Inv k) : (s.applyWave who j).Inv k := by
  unfold State.applyWave
  dsimp only
  split
  · exact h
  · split
    · split
      · exact inv_updGroup (fun _ => rfl) (inv_atomics h)
      · exact h
    · exact h

theorem inv_releaseWave {j : Nat} (h : s.Inv k) : (s.releaseWave j).Inv k := by
  unfold State.releaseWave
  split
  · exact inv_each (fun _ _ h1 => inv_applyWave h1) h
  · exact h

theorem inv_countWave {j : Nat} (h : s.Inv k) : (s.countWave j).Inv k := h

theorem inv_waveResults {ops : List AtomicOp} (h : s.Inv k) :
    Res (Stop.Inv k) (fun x => x.2.Inv k) (s.waveResults ops) := by
  unfold State.waveResults
  dsimp only
  split
  · split
    · split <;> exact h
    · refine inv_releaseWave ?_
      split <;> exact h
  · split
    · split <;> exact h
    · refine inv_releaseWave ?_
      split <;> exact h

theorem inv_inWave {ops : List AtomicOp} (h : s.Inv k) : Res (Stop.Inv k) (fun x => x.2.Inv k) (s.inWave ops) := by
  unfold State.inWave
  split
  · exact (inv_waveResults h).error ‹_›
  · exact inv_countWave ((inv_waveResults h).ok ‹_›)

theorem inv_inWaveFar {hd : Head} {rops : List RemOp} {ops : List AtomicOp} (h : s.Inv k) :
    Res (Stop.Inv k) (fun x => x.2.Inv k) (s.inWaveFar hd rops ops) := by
  unfold State.inWaveFar
  dsimp only
  split
  · split
    · exact (inv_waveResults h).error ‹_›
    · split <;> exact (inv_waveResults h).ok ‹_›
  · split
    · trivial
    · split
      · trivial
      · split
        · exact (inv_waveResults h).error ‹_›
        · split <;> exact (inv_waveResults h).ok ‹_›
  · split
    · trivial
    · split
      · exact inv_farAnswer.error ‹_›
      · exact inv_countWave h
  · exact inv_sendReqs h

theorem inv_giveOld {f : FM} {form : AtomicForm} {vals : List (Nat × Nat)} (h : s.Inv k) :
    (s.giveOld f form vals).Inv k := by
  unfold State.giveOld
  split
  · exact inv_logAll (inv_mapR h)
  · exact h

theorem inv_atomicForm {f : FM} {w : W1} {form : AtomicForm} {base : BitVec 64} {act : List Nat} (h : s.Inv k) :
    Res (Stop.Inv k) (State.Inv k) (s.atomicForm f w form base act) := by
  unfold State.atomicForm
  extract_lets _ hd accs
  split
  · trivial
  · split
    · exact (inv_checkFar h).error ‹_›
    · split
      · exact inv_logWait h
      · split
        · exact inv_logSkip (inv_mapR h)
        · extract_lets here away ops touched wave rops one done
          have ht : touched.Inv k := inv_touchAll h
          split
          · split
            · split
              · exact Res.of_error (Stop.inv_keep ((inv_inWave ht).error ‹_›))
              · exact inv_giveOld ((inv_inWave ht).ok ‹_›)
            · exact inv_giveOld (inv_atomics ht)
          · have hdone : Res (Stop.Inv k) (fun x => x.2.Inv k) done := by
              unfold done
              split
              · exact inv_inWaveFar ht
              · split
                · exact (inv_remote h).error ‹_›
                · exact inv_atomics ht
            clear_value done
            split
            · exact Res.of_error (Stop.inv_keep hdone)
            · split
              · exact inv_giveOld hdone
              · exact inv_giveOld hdone

theorem inv_faorReply {x : FaorIn} (h : s.Inv k) : (s.faorReply x).Inv k := by
  unfold State.faorReply
  dsimp only
  split
  · exact h
  · split <;> exact inv_post h

theorem inv_faorGive {m : SetMember} {res : Option Nat} (h : s.Inv k) : (s.faorGive m res).Inv k := by
  unfold State.faorGive
  dsimp only
  split
  · refine inv_updGroup (fun _ => ?_) h
    (repeat' split) <;> rfl
  · split
    · exact h
    · exact inv_faorReply h

theorem inv_serveSet {o : OrderedSet} (h : s.Inv k) : (s.serveSet o).Inv k :=
  inv_each (fun _ _ h1 => inv_faorGive h1) (inv_writeSpans h)

theorem inv_tryJoin {j : SetJoin} (h : s.Inv k) : (s.tryJoin j).2.Inv k := by
  unfold State.tryJoin
  dsimp only
  split
  · split
    · exact h
    · split
      · exact inv_serveSet h
      · exact h
  · split
    · exact inv_faorGive h
    · split
      · exact h
      · split
        · exact inv_serveSet h
        · exact h

theorem inv_joinOrWait {j : SetJoin} (h : s.Inv k) : (s.joinOrWait j).Inv k := by
  unfold State.joinOrWait
  dsimp only
  split <;> exact inv_tryJoin h

theorem inv_retryFrom {n : Nat} (h : s.Inv k) : (State.retryFrom n s).Inv k := by
  induction n generalizing s with
  | zero => exact h
  | succ n ih =>
    unfold State.retryFrom
    dsimp only
    have round : ∀ u j, State.Inv k u → State.Inv k
        (if j.since + 1000000 ≤ u.gtime then u.faorGive j.member none else u.joinOrWait j) := by
      intro u j hu
      split
      · exact inv_faorGive hu
      · exact inv_joinOrWait hu
    split
    · exact ih (inv_each round h)
    · exact inv_each round h

theorem inv_retryJoins (h : s.Inv k) : s.retryJoins.Inv k := inv_retryFrom h

theorem inv_joinSet {j : SetJoin} (h : s.Inv k) : (s.joinSet j).Inv k := by
  unfold State.joinSet
  dsimp only
  split
  · exact inv_retryJoins (inv_joinOrWait h)
  · exact inv_joinOrWait h

theorem inv_execFaor {f : FM} {w : W1} (h : s.Inv k) : OutInv k (execFaor f w s) := by
  unfold execFaor
  refine inv_issue h (fun _ _ => ?_)
  dsimp only
  split
  · trivial
  · split
    · split
      · split
        · exact inv_orFarFault h
        · trivial
      · split
        · exact inv_orFarFault h
        · trivial
    · split
      · trivial
      · split
        · exact inv_logWait h
        · split
          · exact inv_logSkip (inv_mapR h)
          · split
            · split
              · split
                · exact inv_retryJoins h
                · split <;> exact inv_giveOld h
              · exact Res.of_error (Stop.inv_keep (inv_each (fun _ _ h2 => inv_joinSet h2)
                  (State.Inv.mix (inv_touch h) h (inv_touch h))))
            · split
              · split
                · trivial
                · split
                  · exact inv_farAnswer.error ‹_›
                  · split <;> exact inv_giveOld h
              · exact Res.of_error (Stop.inv_keep (inv_sendReqs h))

/-! ### Instruction fetch (Machine/Fetch) -/

theorem inv_timePass (h : s.Inv k) : s.timePass.Inv k := h

theorem inv_refocus {who : GRef} (h : s.Inv k) : (s.refocus who).Inv k := by
  unfold State.refocus
  split
  · exact h
  · split
    · exact h
    · next g hg =>
      refine h.withGroups (.inl (h.other g (List.mem_of_find?_eq_some hg))) fun x hx => ?_
      rcases List.mem_append.mp hx with hx | hx
      · split at hx
        · obtain rfl := List.mem_singleton.mp hx
          exact h.here ‹_›
        · cases hx
      · exact h.other x (List.mem_filter.mp hx).1

theorem inv_issued {t : State} (ht : t.Inv k) : (s.issued t).Inv k := by
  unfold State.issued
  split
  · refine ht.mapGroups rfl fun _ => ?_
    split <;> rfl
  · exact ht

theorem inv_armBp (h : s.Inv k) : s.armBp.Inv k := by
  unfold State.armBp
  dsimp only
  split <;> exact h

theorem inv_keepPassed {t : State} (ht : t.Inv k) : (s.keepPassed t).Inv k := by
  unfold State.keepPassed
  dsimp only
  split <;> exact ht

theorem inv_secondWordStop {a : Nat} {e : Cause × Nat} (h : s.Inv k) : Stop.Inv k (s.secondWordStop a e) := by
  unfold State.secondWordStop
  dsimp only
  split
  · exact inv_askMap h
  · trivial

theorem inv_fetch (h : s.Inv k) : Res (Stop.Inv k) (fun _ => True) s.fetch := by
  unfold State.fetch
  dsimp only
  split
  · trivial
  · split
    · split
      · trivial
      · exact inv_later h
    · split
      · trivial
      · split
        · exact h
        · split
          · split
            · exact inv_secondWordStop h
            · trivial
          · trivial

/-! ### Rings (Machine/Rings) -/

theorem inv_putBits {bits size : Nat} {l : List Span} (h : s.Inv k) : (s.putBits bits size l).Inv k := by
  unfold State.putBits
  split
  · exact h
  · exact inv_putMarks h

theorem inv_enqAt {ctx pa at_ size elem bits : Nat} (h : s.Inv k) :
    Res (fun _ => True) (fun x => x.2.Inv k) (s.enqAt ctx pa at_ size elem bits) := by
  unfold State.enqAt
  extract_lets r
  clear_value r
  split
  · trivial
  · split
    · exact h
    · split
      · trivial
      · exact Res.of_ok (inv_writeSpans (inv_putBits (inv_writeSpans (inv_touchPages h))))

theorem inv_deqAt {ctx pa at_ : Nat} (h : s.Inv k) :
    Res (fun _ => True) (fun x => x.2.2.2.Inv k) (s.deqAt ctx pa at_) := by
  unfold State.deqAt
  extract_lets r
  clear_value r
  split
  · trivial
  · split
    · exact h
    · split
      · trivial
      · exact Res.of_ok (inv_writeSpans (inv_touchPages h))

theorem inv_of_enqAt {ctx pa at_ size elem bits st : Nat} {t : State} (h : s.Inv k)
    (e : s.enqAt ctx pa at_ size elem bits = .ok (st, t)) : t.Inv k :=
  (inv_enqAt h).ok e

theorem inv_of_deqAt {ctx pa at_ st elem esize : Nat} {t : State} (h : s.Inv k)
    (e : s.deqAt ctx pa at_ = .ok (st, elem, esize, t)) : t.Inv k :=
  (inv_deqAt h).ok e

theorem inv_bufStop {buf : Acc} {e : Stop} (he : Stop.Inv k e) : Stop.Inv k (s.bufStop buf e) := by
  unfold State.bufStop
  split
  · trivial
  · exact he

theorem inv_ringRemote {hd : Head} {op : RemOp} {act : List Nat} (h : s.Inv k) :
    Res (Stop.Inv k) (fun _ => True) (s.ringRemote hd op act) := by
  unfold State.ringRemote
  dsimp only
  split
  · (repeat' split) <;> trivial
  · exact inv_sendReqs h

theorem inv_ringSize {f : FM} {w : W1} {addr lane : Nat} (h : s.Inv k) :
    Res (Stop.Inv k) (fun _ => True) (s.ringSize f w addr lane) := by
  unfold State.ringSize
  dsimp only
  split
  · trivial
  · trivial
  · split
    · exact (inv_remote h).error ‹_›
    · split
      · exact h
      · trivial
      · trivial

theorem inv_giveStatus {d : BitVec 12} {st : Nat} {more : List (Nat × Nat × Nat)} (h : s.Inv k) :
    (s.giveStatus d st more).Inv k :=
  inv_logAll (inv_mapR h)

/-- The result of a ring operation that has passed its late checks is its own. -/
theorem orLate_eq_ok {α : Type} {l : List (Acc × List Span)} {x : Except Trap α} {a : α} (e : s.orLate l x = .ok a) :
    x = .ok a := by
  unfold State.orLate at e
  split at e
  · exact nomatch e
  · exact e

theorem inv_execEnq {f : FM} {w : W1} (h : s.Inv k) : OutInv k (execEnq f w s) := by
  unfold execEnq
  refine inv_issue h fun _ _ => ?_
  extract_lets
  split
  · exact inv_logWait h
  · split
    · exact inv_logSkip h
    · split
      · trivial
      · extract_lets
        split
        · trivial
        · split
          · trivial
          · trivial
          · split
            · trivial
            · next e => exact inv_giveStatus (inv_of_enqAt (inv_touch (inv_touch h)) (mapError_eq_ok (orLate_eq_ok e)))
      · split
        · exact Res.of_error (inv_bufStop ((inv_ringSize h).error ‹_›))
        · split
          · exact Res.of_error (inv_bufStop (inv_orFarFault h))
          · extract_lets
            split
            · trivial
            · trivial
            · extract_lets hd
              clear_value hd
              split
              · exact inv_orFarFault h
              · split
                · exact Res.of_error (Stop.inv_keep ((inv_ringRemote h).error ‹_›))
                · exact inv_giveStatus h

theorem inv_finishDeq {d : BitVec 12} {st elem size bits : Nat} {b : List Span} (h : s.Inv k) :
    (s.finishDeq d st elem size bits b).Inv k := by
  unfold State.finishDeq
  split
  · exact inv_giveStatus h
  · exact inv_giveStatus (inv_putBits (inv_writeSpans h))

theorem inv_replayDeq {f : FM} {b : List Span} {size : Nat} (h : s.Inv k) : (s.replayDeq f b size).Inv k := by
  unfold State.replayDeq
  refine inv_logSkip ?_
  refine inv_mapR ?_
  split
  · exact h
  · exact inv_writeSpans h

theorem inv_execDeq {f : FM} {w : W1} (h : s.Inv k) : OutInv k (execDeq f w s) := by
  unfold execDeq
  refine inv_issue h fun _ _ => ?_
  extract_lets
  split
  · exact inv_logWait h
  · split
    · split
      · trivial
      · trivial
      · exact inv_replayDeq h
    · split
      · trivial
      · extract_lets
        split
        · trivial
        · split
          · trivial
          · trivial
          · split
            · trivial
            · next e => exact inv_finishDeq (inv_of_deqAt (inv_touch (inv_touch h)) (mapError_eq_ok (orLate_eq_ok e)))
      · split
        · exact Res.of_error (inv_bufStop ((inv_ringSize h).error ‹_›))
        · split
          · exact Res.of_error (inv_bufStop (inv_orFarFault h))
          · split
            · trivial
            · trivial
            · extract_lets
              split
              · exact inv_orFarFault h
              · split
                · exact Res.of_error (Stop.inv_keep ((inv_ringRemote h).error ‹_›))
                · extract_lets
                  split
                  · exact inv_finishDeq (inv_touch h)
                  · exact h

theorem inv_recordAt {ctx va : Nat} (h : s.Inv k) : Opt (fun x => x.2.Inv k) (s.recordAt ctx va) := by
  unfold State.recordAt
  split
  · trivial
  · split
    · trivial
    · split
      · trivial
      · split
        · trivial
        · split
          · split
            · trivial
            · exact inv_of_deqAt h ‹_›
          · trivial

/-! ### Barriers and waits (Machine/Sync) -/

theorem inv_waitcDone {d : BitVec 12} {act : List Nat} {b : Bool} (h : s.Inv k) : (s.waitcDone d act b).Inv k :=
  inv_logAll (inv_mapR h)

theorem inv_execWaitc {f : FM} {w : W1} (h : s.Inv k) : OutInv k (execWaitc f w s) := by
  unfold execWaitc
  refine inv_issue h (fun _ _ => ?_)
  dsimp only
  split
  · trivial
  · exact inv_waitcDone h
  · split
    · trivial
    · split
      · trivial
      · trivial
      · split
        · exact inv_logWait h
        · split
          · exact inv_logSkip (inv_mapR h)
          · split
            · exact inv_waitcDone (inv_touch h)
            · split
              · exact inv_waitcDone (inv_touch h)
              · exact inv_touch h

theorem inv_arriveAt {launch block off : Nat} {who : Option Nat} (h : s.Inv k) :
    Opt (fun x => x.2.Inv k) (s.arriveAt launch block off who) := by
  unfold State.arriveAt
  split
  · trivial
  · extract_lets o
    clear_value o
    split
    · trivial
    · exact inv_updBlock h

theorem inv_barOff {a : Acc} : Res (Stop.Inv k) (fun _ => True) (s.barOff a) := by
  unfold State.barOff
  split <;> trivial

theorem inv_barChecked {a : Acc} {bad : Barrier → Bool} :
    Res (Stop.Inv k) (fun _ => True) (s.barChecked a bad) := by
  unfold State.barChecked
  dsimp only
  split
  · exact inv_barOff.error ‹_›
  · (repeat' split) <;> trivial

theorem inv_execBari {f : FM} {w : W1} (h : s.Inv k) : OutInv k (execBari f w s) := by
  unfold execBari
  refine inv_issue h (fun _ _ => ?_)
  dsimp only
  split
  · exact inv_barChecked.error ‹_›
  · exact inv_updBlock h

theorem inv_execBara {f : FM} {w : W1} (h : s.Inv k) : OutInv k (execBara f w s) := by
  unfold execBara
  refine inv_issue h fun _ _ => ?_
  extract_lets
  split
  · exact inv_barChecked.error ‹_›
  · split
    · trivial
    · next e =>
      extract_lets o s2 s' g
      have h2 : s2.Inv k := inv_emit ((inv_arriveAt h).some e)
      have h3 : s'.Inv k := by
        unfold s'
        split
        · exact h2
        · exact inv_emit h2
      exact h3.withG rfl

theorem inv_barwDet {off p : Nat} (h : s.Inv k) : (s.barwDet off p).Inv k := by
  unfold State.barwDet
  dsimp only
  split <;> exact h

theorem inv_raiseHeld {hd : Held} (h : s.Inv k) : Stop.Inv k (s.raiseHeld hd) := h

theorem inv_execBarw {f : FM} {w : W1} (h : s.Inv k) : OutInv k (execBarw f w s) := by
  unfold execBarw
  refine inv_issue h (fun _ _ => ?_)
  dsimp only
  split
  · exact inv_barChecked.error ‹_›
  · split
    · exact inv_raiseHeld h
    · split
      · exact Res.of_error (Stop.inv_keep h)
      · exact inv_barwDet h

/-! ### Page-table operations (Machine/Pages) -/

theorem inv_newFrame (h : s.Inv k) : s.newFrame.2.Inv k := h.withMem fun hm => wf_dropRange _ _ hm

theorem inv_writePtes {l : List (Nat × BitVec 64)} (h : s.Inv k) : (s.writePtes l).Inv k :=
  inv_each (fun _ _ h1 => inv_writeSpans h1) h

theorem inv_entryAt {va t l : Nat} (h : s.Inv k) : (s.entryAt va t l).2.Inv k := by
  induction l using Nat.strongRecOn generalizing s t with
  | _ l ih =>
    match l, ih with
    | 0, _ => exact h
    | 1, _ => exact h
    | l + 2, ih =>
      unfold State.entryAt
      dsimp only
      split
      · exact ih _ (by omega) h
      · exact ih _ (by omega) (inv_writePtes (inv_newFrame h))

theorem inv_ownFrames {old : State} {ctx : Nat} (h : s.Inv k) : (s.ownFrames old ctx).Inv k :=
  inv_updCtx h

theorem inv_mapEntry {ctx va : Nat} {leaf : BitVec 64} (h : s.Inv k) : (s.mapEntry ctx va leaf).Inv k := by
  unfold State.mapEntry
  dsimp only
  split
  · exact h
  · exact inv_writePtes (inv_entryAt h)

theorem inv_mapAt {ctx va pa : Nat} {w x : Bool} (h : s.Inv k) : (s.mapAt ctx va pa w x).Inv k :=
  inv_ownFrames (inv_mapEntry h)

theorem inv_mapPage {ctx va : Nat} {w x : Bool} (h : s.Inv k) : (s.mapPage ctx va w x).Inv k :=
  inv_ownFrames (inv_mapEntry (inv_newFrame h))

theorem inv_mapRange {ctx va n : Nat} {w x : Bool} (h : s.Inv k) : (s.mapRange ctx va n w x).Inv k :=
  inv_each (fun _ _ h1 => inv_mapPage h1) h

theorem inv_giveFrame {ctx : Nat} (h : s.Inv k) : (s.giveFrame ctx).Inv k := inv_updCtx h

theorem inv_unmapPage {ctx va : Nat} (h : s.Inv k) : (s.unmapPage ctx va).Inv k := by
  unfold State.unmapPage
  dsimp only
  split
  · exact inv_giveFrame (inv_ownFrames (inv_writePtes (inv_entryAt (inv_updCtx h))))
  · exact inv_updCtx h

theorem inv_unmapRange {ctx va n : Nat} (h : s.Inv k) : (s.unmapRange ctx va n).Inv k :=
  inv_each (fun _ _ h1 => inv_unmapPage h1) h

theorem inv_writeCtx {ctx va n v : Nat} (h : s.Inv k) : Opt (State.Inv k) (s.writeCtx ctx va n v) :=
  Opt.map (fun _ => inv_writeSpans (inv_touchPages h))

theorem inv_placeCtx {ctx va : Nat} {bs : List Nat} (h : s.Inv k) : (s.placeCtx ctx va bs).Inv k := by
  unfold State.placeCtx
  split
  · exact inv_writeSpans h
  · exact h

/-! ### Scalar forms (Machine/Scalar) -/

theorem inv_scalar2 {f : FR} {v : BitVec 64 → BitVec 64 → BitVec 64} (h : s.Inv k) : (s.scalar2 f v).Inv k :=
  inv_issueRegs h

theorem inv_scalar1 {g : BitVec 4} {d a : BitVec 12} {v : BitVec 64 → BitVec 64} (h : s.Inv k) :
    (s.scalar1 g d a v).Inv k :=
  inv_issueRegs h

/-! ### Vector forms (Machine/Vector) -/

theorem inv_checked {act : List Nat} {f : Regs → Regs} (h : s.Inv k) :
    Res (Stop.Inv k) (State.Inv k) (s.checked act f) := by
  unfold State.checked
  split
  · exact inv_mapR h
  · trivial

theorem inv_vec {g : BitVec 4} {srcs : List Nat} {e : RegEff} (h : s.Inv k) : (s.vec g srcs e).Inv k :=
  inv_issue h (fun _ _ => inv_checked h)

theorem inv_vecPlain {g : BitVec 4} {srcs : List Nat} {e : RegEff} (h : s.Inv k) : (s.vecPlain g srcs e).Inv k :=
  inv_issueRegs h

/-! ### Tile data (Machine/TileData) -/

theorem inv_updStage {core key : Nat} {f : Stage → Stage} (h : s.Inv k) : (s.updStage core key f).Inv k := h

theorem inv_mapSiteMem {x : Site} {f : BMap 8 → BMap 8} (h : s.Inv k) : (s.mapSiteMem x f).Inv k := by
  unfold State.mapSiteMem
  split
  · exact inv_updBlock h
  · exact inv_updStage h

theorem inv_mapSiteArr {x : Site} {f : ArraySt → ArraySt} (h : s.Inv k) : (s.mapSiteArr x f).Inv k := by
  unfold State.mapSiteArr
  split
  · exact inv_updGroup (fun _ => rfl) h
  · exact inv_updStage h

theorem TRun.inv_write {x : TRun} {loc va n v : Nat} (hx : x.Inv k) : (x.write loc va n v).Inv k := by
  unfold TRun.write
  dsimp only
  split
  · exact hx
  · split
    · exact inv_writeSpans (inv_touchPages hx)
    · exact hx

theorem TRun.inv_addTo {x : TRun} {loc va n v : Nat} (hx : x.Inv k) : (x.addTo loc va n v).Inv k := by
  unfold TRun.addTo
  split
  · exact TRun.inv_write hx
  · exact hx

theorem TRun.inv_touch {x : TRun} {loc va n : Nat} (hx : x.Inv k) : (x.touch loc va n).Inv k := by
  unfold TRun.touch
  split
  · exact inv_touchPages hx
  · exact hx

/-! ### Tile operations (Machine/TileOps) -/

theorem TRun.inv_carryIn {x : TRun} {t : Site} {loc va n off : Nat} (hx : x.Inv k) :
    (x.carryIn t loc va n off).Inv k := by
  unfold TRun.carryIn
  dsimp only
  split
  · split
    · split
      · exact hx
      · exact inv_putMarks hx
    · split
      · exact hx
      · exact inv_putMarks hx
  · exact hx

theorem TRun.inv_carryOut {x : TRun} {t : Site} {off loc va n : Nat} (hx : x.Inv k) :
    (x.carryOut t off loc va n).Inv k := by
  unfold TRun.carryOut
  dsimp only
  split
  · split
    · exact hx
    · split
      · exact hx
      · exact inv_putMarks hx
  · exact hx

theorem TRun.inv_tld {x : TRun} {t : Site} {d : TDesc} (h : x.Inv k) : (x.tld t d).Inv k := by
  unfold TRun.tld
  extract_lets rowsDone
  have hrows : rowsDone.Inv k := by
    refine TRun.inv_each (fun u i hu => ?_) h
    extract_lets v x1 x2
    have h1 : x1.Inv k := by
      unfold x1
      split
      · exact TRun.inv_touch hu
      · exact hu
    have h2 : x2.Inv k := inv_mapSiteMem h1
    split
    · exact TRun.inv_carryIn h2
    · exact h2
  split
  · exact TRun.inv_each (fun _ _ h1 => TRun.inv_each (fun _ _ h2 => inv_mapSiteMem h2) h1)
      (TRun.inv_each (fun _ _ h1 => TRun.inv_touch h1) hrows)
  · exact hrows

theorem TRun.inv_tst {x : TRun} {t : Site} {d : TDesc} (hx : x.Inv k) : (x.tst t d).Inv k :=
  TRun.inv_each (fun _ _ h1 => TRun.inv_carryOut (TRun.inv_write h1)) hx

theorem TRun.inv_wbld {x : TRun} {t : Site} {d : TDesc} (hx : x.Inv k) :
    Res (fun _ => True) (TRun.Inv k) (x.wbld t d) := by
  unfold TRun.wbld
  dsimp only
  split
  · trivial
  · exact inv_mapSiteArr (TRun.inv_each (fun _ _ h3 => TRun.inv_touch h3) hx)

theorem TRun.inv_tcp {x : TRun} {t : Site} {tr : Bool} {d a : TDesc} (hx : x.Inv k) : (x.tcp t tr d a).Inv k :=
  inv_mapSiteMem hx

theorem TRun.inv_tmma {x : TRun} {t : Site} {op : TOp} {z : Bool} {a b : TDesc} (hx : x.Inv k) :
    Res (fun _ => True) (TRun.Inv k) (x.tmma t op z a b) := by
  unfold TRun.tmma
  dsimp only
  split
  · trivial
  · exact inv_mapSiteArr hx

theorem TRun.inv_tscan {x : TRun} {t : Site} {op : TOp} {gd od : TDesc} (hx : x.Inv k) :
    (x.tscan t op gd od).Inv k := by
  unfold TRun.tscan
  dsimp only
  split
  · exact hx
  · exact inv_mapSiteArr hx

theorem TRun.inv_tzero {x : TRun} {t : Site} {op : TOp} {d : TDesc} (hx : x.Inv k) : (x.tzero t op d).Inv k :=
  inv_mapSiteArr hx

theorem TRun.inv_tacrd {x : TRun} {t : Site} {op : TOp} {d : TDesc} (hx : x.Inv k) : (x.tacrd t op d).Inv k :=
  inv_mapSiteMem hx

theorem TRun.inv_tacwr {x : TRun} {t : Site} {op : TOp} {d : TDesc} (hx : x.Inv k) : (x.tacwr t op d).Inv k :=
  inv_mapSiteArr hx

theorem TRun.inv_tred {x : TRun} {t : Site} {op : TOp} {d a : TDesc} (h : x.Inv k) : (x.tred t op d a).Inv k := by
  unfold TRun.tred
  refine TRun.inv_each (fun _ _ h1 => TRun.inv_each (fun _ _ h2 => ?_) h1) h
  extract_lets
  split
  · split
    · exact TRun.inv_addTo h2
    · exact h2
  · split
    · exact TRun.inv_addTo h2
    · exact h2
  · split
    · exact TRun.inv_addTo h2
    · exact h2

theorem TRun.inv_tew {x : TRun} {t : Site} {op : TOp} {d a : TDesc} {b : Option TDesc} (hx : x.Inv k) :
    (x.tew t op d a b).Inv k :=
  inv_mapSiteMem hx

theorem TRun.inv_unmark {x : TRun} {t : Site} {op : TOp} (hx : x.Inv k) : (x.unmark t op).Inv k := by
  unfold TRun.unmark
  dsimp only
  split
  · refine inv_updBlock ?_
    split
    · exact hx
    · exact inv_mapSiteArr hx
  · split
    · exact hx
    · exact inv_mapSiteArr hx

theorem TRun.inv_form {x : TRun} {t : Site} {op : TOp} (hx : x.Inv k) :
    Res (fun _ => True) (TRun.Inv k) (x.form t op) := by
  unfold TRun.form
  split
  · exact hx
  · split
    · exact hx
    · split
      · exact TRun.inv_tld hx
      · exact TRun.inv_tst hx
      · exact TRun.inv_tcp hx
      · exact TRun.inv_wbld hx
      · split
        · exact hx
        · exact TRun.inv_tmma hx
      · exact TRun.inv_tscan hx
      · exact TRun.inv_tzero hx
      · exact TRun.inv_tacrd hx
      · exact TRun.inv_tacwr hx
      · exact TRun.inv_tred hx
      · exact TRun.inv_tew hx
      · exact hx

theorem TRun.inv_engine {x : TRun} {t : Site} {op : TOp} (hx : x.Inv k) :
    Res (fun _ => True) (TRun.Inv k) (x.engine t op) := by
  unfold TRun.engine
  split
  · trivial
  · split
    · trivial
    · split
      · trivial
      · exact TRun.inv_form (TRun.inv_unmark hx)

/-! ### Tile start and reservation (Machine/TilePlan) -/

theorem inv_idleFrom {cores : List Nat} (h : s.Inv k) : (s.idleFrom cores).Inv k := h

theorem TRun.inv_steps {x : TRun} {t : Site} {ops : List TOp} (h : x.Inv k) :
    Res (fun _ => True) (TRun.Inv k) (x.steps t ops) := by
  induction ops generalizing x with
  | nil => exact h
  | cons op rest ih =>
    unfold TRun.steps
    split
    · trivial
    · exact ih ((TRun.inv_engine h).ok ‹_›)

theorem inv_runAll {f : TRun → Kid → Except (Nat × Trap) TRun} {x : TRun} {kids : List Kid}
    (hf : ∀ u a, u.Inv k → Res (fun _ => True) (TRun.Inv k) (f u a)) (h : x.Inv k) :
    Res (fun _ => True) (TRun.Inv k) (runAll f x kids) := by
  induction kids generalizing x with
  | nil => exact h
  | cons kid rest ih =>
    unfold runAll
    split
    · exact ih h
    · split
      · trivial
      · exact ih ((hf _ _ h).ok ‹_›)

theorem TRun.inv_instr {key level die : Nat} {t : Site} {x : TRun} {op : TOp} (h : x.Inv k) :
    Res (fun _ => True) (TRun.Inv k) (TRun.instr key level die t x op) := by
  induction level generalizing die t x op with
  | zero =>
    unfold TRun.instr
    split
    · trivial
    · exact (TRun.inv_engine h).ok ‹_›
  | succ l ih =>
    unfold TRun.instr
    split
    · trivial
    · refine inv_runAll (fun u a hu => ?_) h
      split
      · split
        · trivial
        · exact (TRun.inv_steps hu).ok ‹_›
      · exact ih hu
      · exact ih hu

theorem TRun.inv_child {key level exec die : Nat} {t : Site} {x : TRun} {op : TOp} (hx : x.Inv k) :
    Res (fun _ => True) (TRun.Inv k) (x.child key level exec die t op) := by
  unfold TRun.child
  split
  · exact TRun.inv_instr hx
  · split
    · trivial
    · exact (TRun.inv_steps hx).ok ‹_›
  · exact TRun.inv_instr hx
  · exact TRun.inv_instr hx
  · exact TRun.inv_instr hx

/-! ### Engines (Machine/Engines) -/

theorem inv_sendEng {who : GRef} {ctx scope : Nat} {qs : List EngReq} (h : s.Inv k) :
    (s.sendEng who ctx scope qs).2.Inv k :=
  h

theorem inv_startJob {who : GRef} {ctx scope : Nat} {j : JobKind} {qs : List EngReq} (h : s.Inv k) :
    (s.startJob who ctx scope j qs).Inv k :=
  h

theorem inv_dropJob {id : Nat} (h : s.Inv k) : (s.dropJob id).Inv k := h

theorem inv_startCommand {t : State} {p : Place} {core : Nat} (ht : t.Inv k) : (s.startCommand t p core).Inv k := by
  unfold State.startCommand
  split
  · exact inv_closeIdle ht
  · exact ht

theorem inv_setLease {core : Nat} {l : Lease} (h : s.Inv k) : (s.setLease core l).Inv k := h

theorem inv_passLease {core : Nat} {again : Bool} (h : s.Inv k) : (s.passLease core again).Inv k := by
  unfold State.passLease
  dsimp only
  split
  · exact h
  · split
    · exact inv_setLease h
    · exact inv_startCommand (inv_setLease h)

theorem inv_askLease {core : Nat} {who : GRef} (h : s.Inv k) : (s.askLease core who).2.Inv k := by
  unfold State.askLease
  dsimp only
  split
  · exact inv_setLease h
  · split
    · exact h
    · split
      · exact h
      · exact inv_setLease h

theorem inv_releaseLease {core : Nat} {who : GRef} (h : s.Inv k) : (s.releaseLease core who).Inv k := by
  unfold State.releaseLease
  dsimp only
  split
  · exact inv_passLease (inv_setLease h)
  · exact inv_setLease h

theorem inv_countArray {who : GRef} {n : Nat} (h : s.Inv k) : (s.countArray who n).Inv k := by
  unfold State.countArray
  dsimp only
  split
  · exact h
  · split
    · exact inv_setLease h
    · exact h

theorem inv_hold {who : GRef} {hd : Held} (h : s.Inv k) : (s.hold who hd).Inv k := inv_updGroup (fun _ => rfl) h

theorem inv_lowerToken {who : GRef} {t : Nat} (h : s.Inv k) : (s.lowerToken who t).Inv k :=
  inv_updGroup (fun _ => rfl) h

theorem inv_engineArrive {who : GRef} {off : Nat} (h : s.Inv k) : Opt (State.Inv k) (s.engineArrive who off) := by
  unfold State.engineArrive
  extract_lets before
  split
  · trivial
  · split
    · exact (inv_arriveAt h).some ‹_›
    · split
      · exact inv_emitFor ((inv_arriveAt h).some ‹_›)
      · exact (inv_arriveAt h).some ‹_›

theorem inv_updRec {who : GRef} {n : Nat} {f : TRec → TRec} (h : s.Inv k) : (s.updRec who n f).Inv k :=
  inv_updGroup (fun _ => rfl) h

theorem inv_completeRec {who : GRef} {n : Nat} (h : s.Inv k) : (s.completeRec who n).Inv k := by
  unfold State.completeRec
  dsimp only
  split
  · split
    · refine inv_updRec ?_
      refine inv_getD ?_ (inv_updBlock h)
      split
      · exact inv_engineArrive (inv_updBlock h)
      · exact inv_lowerToken (inv_updBlock h)
    · refine inv_hold ?_
      refine inv_updRec ?_
      refine inv_getD ?_ (inv_updBlock h)
      split
      · exact inv_engineArrive (inv_updBlock h)
      · exact inv_lowerToken (inv_updBlock h)
  · refine inv_emitFor ?_
    split
    · refine inv_updRec ?_
      refine inv_getD ?_ (inv_updBlock h)
      split
      · exact inv_engineArrive (inv_updBlock h)
      · exact inv_lowerToken (inv_updBlock h)
    · refine inv_hold ?_
      refine inv_updRec ?_
      refine inv_getD ?_ (inv_updBlock h)
      split
      · exact inv_engineArrive (inv_updBlock h)
      · exact inv_lowerToken (inv_updBlock h)

theorem inv_copyRecords {p : Place} {n type : Nat} {j : Job} {op : TOp} {faulted : Bool} (h : s.Inv k) :
    (s.copyRecords p n type j op faulted).Inv k :=
  inv_each (fun _ _ h1 => inv_each (fun _ _ h3 => inv_emitAt h3) h1) h

theorem inv_kidStarts {t : State} {who : GRef} {n : Nat} {op : TOp} (ht : t.Inv k) :
    (s.kidStarts t who n op).Inv k := by
  unfold State.kidStarts
  split
  · exact inv_copyRecords (inv_each (fun _ _ h2 => inv_startCommand h2) ht)
  · exact ht

theorem inv_sendKid {who : GRef} {ctx n level : Nat} {ex : List Nat} {j : Kid} (h : s.Inv k) :
    (s.sendKid who ctx n level ex j).Inv k := by
  unfold State.sendKid
  dsimp only
  split
  · split
    · exact h
    · exact inv_kidStarts (inv_startJob h)
  · split
    · exact h
    · exact inv_kidStarts (inv_startJob h)

theorem inv_sendWave {who : GRef} {ctx n fuel : Nat} (h : s.Inv k) : (s.sendWave who ctx n fuel).Inv k := by
  induction fuel generalizing s with
  | zero => exact inv_completeRec h
  | succ fuel ih =>
    unfold State.sendWave
    extract_lets
    split
    · exact inv_completeRec h
    · split
      · exact inv_completeRec h
      · split
        · exact h
        · extract_lets _ _ s1
          have h1 : s1.Inv k := inv_updRec h
          split
          · exact ih h1
          · exact inv_each (fun _ _ hu => inv_sendKid hu) h1

theorem inv_startHead {key : Nat} (h : s.Inv k) : (s.startHead key).Inv k := by
  unfold State.startHead
  split
  · exact h
  · split
    · exact h
    · exact inv_sendWave h

theorem inv_afterChild {who : GRef} {n fuel : Nat} (h : s.Inv k) : (s.afterChild who n fuel).Inv k := by
  induction fuel generalizing s who n with
  | zero => exact h
  | succ fuel ih =>
    unfold State.afterChild
    split
    · exact h
    · split
      · exact h
      · extract_lets level s1
        have h1 : s1.Inv k := by
          unfold s1
          split
          · exact inv_sendWave h
          · exact h
        clear_value s1
        split
        · exact h1
        · split
          · split
            · exact h1
            · exact ih (inv_startHead h1)
          · exact h1

theorem inv_handOver {who : GRef} {ctx n : Nat} (h : s.Inv k) : (s.handOver who ctx n).Inv k := by
  unfold State.handOver
  dsimp only
  split
  · exact inv_afterChild (inv_sendWave h)
  · split
    · exact inv_afterChild (inv_startHead h)
    · exact h

theorem inv_toWriting {id : Nat} {reqs : List ReqOut} {data : BMap 8} (h : s.Inv k) :
    (s.toWriting id reqs data).Inv k :=
  h

theorem inv_kidDone {who : GRef} {n index id : Nat} {gfl : Bool} (h : s.Inv k) :
    (s.kidDone who n index id gfl).Inv k :=
  inv_afterChild (inv_updRec (inv_dropJob h))

theorem inv_kidFault {who : GRef} {n id : Nat} {rep : TileReport} (h : s.Inv k) : (s.kidFault who n id rep).Inv k :=
  inv_afterChild (inv_updRec (inv_dropJob h))

theorem TRun.inv_start {j : Job} (h : s.Inv k) : (TRun.start s j).Inv k := h

theorem inv_kidEnds {j : Job} {n : Nat} {op : TOp} {faulted : Bool} (h : s.Inv k) :
    (s.kidEnds j n op faulted).Inv k := by
  unfold State.kidEnds
  dsimp only
  split
  · exact h
  · exact inv_copyRecords (inv_each (fun _ _ h2 => inv_closeCommands h2) h)

theorem inv_waitPage {j : Job} {t : Trap} {req : Instr} {refusal : Option Instr} {answer : Msg} (h : s.Inv k) :
    (s.waitPage j t req refusal answer).Inv k :=
  inv_askMap h

theorem inv_runTile {j : Job} {n index level exec : Nat} {op : TOp} (h : s.Inv k) :
    (s.runTile j n index level exec op).Inv k := by
  unfold State.runTile
  dsimp only
  split
  · split
    · exact inv_kidFault h
    · exact inv_later h
  · split
    · exact inv_kidDone h
    · split
      · exact inv_kidDone h
      · split
        · split
          · exact inv_waitPage h
          · split
            · exact inv_kidFault (inv_kidEnds h)
            · exact inv_later (inv_kidEnds h)
        · split
          · exact inv_kidDone (inv_kidEnds (inv_countArray ((TRun.inv_child (TRun.inv_start h)).ok ‹_›)))
          · exact inv_updRec (inv_toWriting (inv_sendEng (inv_kidEnds (inv_countArray
              ((TRun.inv_child (TRun.inv_start h)).ok ‹_›)))))

theorem inv_freeBytes {n : Nat} (h : s.Inv k) : (s.freeBytes n).2.Inv k := by
  induction n generalizing s with
  | zero => exact h
  | succ n ih => exact ih (s := { s with free := s.free + 1 }) h

theorem inv_writeAs {who : GRef} {l : List Span} {v : Nat} (h : s.Inv k) : (s.writeAs who l v).Inv k := by
  induction l generalizing s v with
  | nil => exact h
  | cons p ps ih =>
    unfold State.writeAs
    apply ih
    split
    · exact h
    · exact inv_writeMem h

theorem inv_blur {l : List Span} (h : s.Inv k) : (s.blur l).Inv k := by
  induction l generalizing s with
  | nil => exact h
  | cons p ps ih => exact ih (inv_writeSpans (inv_freeBytes h))

theorem inv_endAcp {j : Job} {token dst src n : Nat} {fault : Option Trap} (h : s.Inv k) :
    (s.endAcp j token dst src n fault).Inv k := by
  unfold State.endAcp
  dsimp only
  split
  · split
    · exact inv_hold (inv_updBlock (inv_dropJob h))
    · exact inv_lowerToken (inv_updBlock (inv_dropJob h))
  · refine inv_emitFor ?_
    split
    · exact inv_hold (inv_updBlock (inv_dropJob h))
    · exact inv_lowerToken (inv_updBlock (inv_dropJob h))

theorem inv_runAcp {j : Job} {token dst src n scope : Nat} (h : s.Inv k) :
    (s.runAcp j token dst src n scope).Inv k := by
  unfold State.runAcp
  dsimp only
  split
  · exact inv_endAcp h
  · split
    · exact inv_endAcp h
    · split
      · refine inv_endAcp ?_
        split
        · refine inv_blur ?_
          refine inv_putMarks ?_
          refine inv_writeAs ?_
          split
          · refine inv_touchPages ?_
            split
            · exact inv_touchPages h
            · exact h
          · split
            · exact inv_touchPages h
            · exact h
        · refine inv_putMarks ?_
          refine inv_writeAs ?_
          split
          · refine inv_touchPages ?_
            split
            · exact inv_touchPages h
            · exact h
          · split
            · exact inv_touchPages h
            · exact h
      · refine inv_toWriting ?_
        refine inv_sendEng ?_
        split
        · exact inv_touchPages h
        · exact h

theorem inv_endBpf {j : Job} {t : Target} {addr : Option Nat} {n : Nat} (h : s.Inv k) :
    (s.endBpf j t addr n).Inv k := by
  unfold State.endBpf
  extract_lets s0 s1 tok s2
  have hs0 : s0.Inv k := inv_dropJob h
  have hs1 : s1.Inv k := by
    unfold s1
    split
    · split
      · exact inv_touchPages hs0
      · exact hs0
    · exact hs0
  have hs2 : s2.Inv k := by
    unfold s2
    split
    · exact inv_lowerToken hs1
    · split
      · exact (inv_engineArrive hs1).some ‹_›
      · exact inv_hold hs1
  split
  · exact hs2
  · exact inv_emitFor hs2

theorem inv_chargeFor {j : Job} (h : s.Inv k) : (s.chargeFor j).Inv k := inv_each (fun _ _ h1 => inv_account h1) h

theorem inv_runFor {j : Job} {m : Msg} (h : s.Inv k) : (s.runFor j m).Inv k := by
  unfold State.runFor
  dsimp only
  split
  · exact inv_dropJob h
  · split
    · exact inv_dropJob h
    · split
      · exact inv_dropJob h
      · split
        · split
          · exact inv_waitPage h
          · exact inv_dropJob (inv_chargeFor h)
        · split
          · exact inv_dropJob (inv_chargeFor ((TRun.inv_instr (TRun.inv_start h)).ok ‹_›))
          · exact inv_toWriting (inv_sendEng (inv_chargeFor ((TRun.inv_instr (TRun.inv_start h)).ok ‹_›)))

theorem inv_execEngineOperationComplete {id : Nat} (h : s.Inv k) : OutInv k (execEngineOperationComplete id s) := by
  unfold execEngineOperationComplete
  split
  · exact h
  · split
    · exact inv_runAcp h
    · exact inv_endBpf h
    · exact inv_runTile h
    · exact inv_runFor h
    · exact h

theorem inv_execTileChildComplete {who : GRef} {n child : Nat} (h : s.Inv k) :
    OutInv k (execTileChildComplete who n child s) := by
  unfold execTileChildComplete
  split
  · exact h
  · split
    · exact inv_runTile h
    · exact h

theorem inv_execTileChildFault {who : GRef} {n child : Nat} {rep : TileReport} (h : s.Inv k) :
    OutInv k (execTileChildFault who n child rep s) := by
  unfold execTileChildFault
  split
  · exact h
  · exact inv_kidFault h

theorem inv_execLeaseTenureEnd {core : Nat} (h : s.Inv k) : OutInv k (execLeaseTenureEnd core s) := by
  unfold execLeaseTenureEnd
  split
  · exact inv_passLease h
  · exact h

theorem inv_execRemoteCheckReturn {who : GRef} {answer : Option Trap} (h : s.Inv k) :
    OutInv k (execRemoteCheckReturn who answer s) := by
  unfold execRemoteCheckReturn
  refine inv_updGroup (fun _ => ?_) h
  (repeat' split) <;> rfl

/-! ### Copies (Machine/Copy) -/

theorem inv_execAcp {f : FM} {w : W1} (h : s.Inv k) : OutInv k (execAcp f w s) := by
  unfold execAcp
  refine inv_issue h (fun _ _ => ?_)
  dsimp only
  split
  · split
    · trivial
    · split
      · trivial
      · split
        · trivial
        · split
          · split
            · trivial
            · exact inv_startJob (inv_emit (inv_mapR (inv_updBlock h)))
          · split
            · trivial
            · exact inv_startJob (inv_emit (inv_mapR (inv_updBlock h)))
  · split
    · split
      · trivial
      · split
        · trivial
        · split
          · split
            · trivial
            · exact inv_startJob (inv_emit (inv_mapR (inv_updBlock h)))
          · split
            · trivial
            · exact inv_startJob (inv_emit (inv_mapR (inv_updBlock h)))
    · exact h

theorem inv_execBpf {f : FM} {w : W1} (h : s.Inv k) : OutInv k (execBpf f w s) := by
  unfold execBpf
  refine inv_issue h (fun _ _ => ?_)
  dsimp only
  split
  · split
    · trivial
    · split
      · trivial
      · exact inv_startJob (inv_emit h)
    · trivial
  · split
    · trivial
    · split
      · trivial
      · exact inv_startJob (inv_emit (inv_mapR h))

/-! ### Exit (Machine/Exit) -/

theorem inv_updLaunch {id : Nat} {f : Launch → Launch} (h : s.Inv k) : (s.updLaunch id f).Inv k := h

theorem inv_dropPrivate {gs : List Group} (h : s.Inv k) : (s.dropPrivate gs).Inv k := by
  unfold State.dropPrivate
  refine inv_each (fun _ _ h0 => ?_) h
  split
  · exact h0
  · exact inv_unmapRange h0

theorem inv_leaveCore {launch block : Nat} (h : s.Inv k) : (s.leaveCore launch block).Inv k := by
  unfold State.leaveCore
  dsimp only
  split <;> exact h

theorem inv_removeBlock {launch block : Nat} (h : s.Inv k) : (s.removeBlock launch block).Inv k := by
  unfold State.removeBlock
  extract_lets mine s1
  exact inv_dropPrivate ((inv_leaveCore h : s1.Inv k).withoutGroups mine _)

theorem inv_keepLog {launch block : Nat} (h : s.Inv k) : (s.keepLog launch block).Inv k := by
  unfold State.keepLog
  (repeat' split) <;> exact h

theorem inv_endBlock {launch block : Nat} (h : s.Inv k) : (s.endBlock launch block).Inv k := by
  unfold State.endBlock
  dsimp only
  split
  · exact h
  · split
    · exact inv_removeBlock (inv_keepLog h)
    · split
      · exact inv_later (inv_updLaunch (inv_removeBlock (inv_keepLog h)))
      · exact inv_updLaunch (inv_removeBlock (inv_keepLog h))

theorem inv_endGroup {act : List Nat} (h : s.Inv k) : (s.endGroup act).Inv k := inv_endBlock (inv_releaseLease h)

theorem inv_execExit {f : FR} (h : s.Inv k) : OutInv k (execExit f s) := by
  unfold execExit
  dsimp only
  split
  · exact inv_complete h
  · split
    · exact inv_mapR (inv_complete h)
    · split
      · exact inv_stopWith h trivial
      · split
        · exact inv_stopWith h (inv_raiseHeld h)
        · split
          · exact inv_stopWith h (inv_raiseHeld h)
          · exact inv_endGroup h

/-! ### PAIR (Machine/Pair) -/

theorem inv_halfFault {act srcs : List Nat} {v : BitVec 64} {chk : Bool} (h : s.Inv k) :
    Opt (Stop.Inv k) (s.halfFault act srcs v chk) := by
  unfold State.halfFault
  split
  · exact (inv_peekAll h).error ‹_›
  · extract_lets
    (repeat' split) <;> trivial

theorem inv_execPair {p : PairHead} {v : BitVec 64} (h : s.Inv k) : OutInv k (execPair p v s) := by
  unfold execPair
  split
  · exact inv_stopWith h trivial
  · extract_lets
    split
    · next e =>
      split at e
      · exact inv_stopWith h ((inv_halfFault h).some e)
      · cases e
    · refine inv_issue h fun _ _ => ?_
      split
      · exact inv_checked h
      · exact inv_mapR h

/-! ### Control transfer (Machine/Control) -/

theorem inv_execWaitt {f : FI} (h : s.Inv k) : OutInv k (execWaitt f s) := by
  unfold execWaitt
  refine inv_issue h (fun _ _ => ?_)
  dsimp only
  split
  · exact inv_raiseHeld h
  · split
    · exact inv_raiseHeld h
    · split
      · exact h
      · trivial

/-! ### System instructions (Machine/System) -/

theorem inv_needS {run : State} (h : s.Inv k) (hrun : run.Inv k) : (s.needS run).Inv k := by
  unfold State.needS
  split
  · exact hrun
  · exact inv_stopWith h trivial

theorem inv_execSrd {f : FI} (h : s.Inv k) : OutInv k (execSrd f s) := by
  unfold execSrd
  dsimp only
  split
  · refine inv_needS h ?_
    split
    · exact inv_issueRegs h
    · split
      · exact inv_issueRegs h
      · split
        · refine inv_issue h (fun _ _ => ?_)
          split
          · exact inv_logWait h
          · split
            · exact inv_logSkip (inv_mapR h)
            · exact inv_logAll (inv_mapR h)
        · exact inv_issueRegs h
  · split
    · exact inv_issueRegs h
    · split
      · exact inv_issueRegs h
      · split
        · refine inv_issue h (fun _ _ => ?_)
          split
          · exact inv_logWait h
          · split
            · exact inv_logSkip (inv_mapR h)
            · exact inv_logAll (inv_mapR h)
        · exact inv_issueRegs h

theorem Group.face_swr {g : Group} {sel : Nat} {v : BitVec 64} : (g.swr sel v).face = g.face := by
  unfold Group.swr
  (repeat' split) <;> rfl

theorem inv_execSwr {f : FI} (h : s.Inv k) : OutInv k (execSwr f s) := by
  have hrun : (s.issue f.g 8 [f.a.toNat]
      fun _ rd s => .ok { s with g := s.g.swr f.imm.toNat (rd f.a.toNat) }).Inv k :=
    inv_issue h fun _ _ => Res.of_ok (h.withG Group.face_swr)
  unfold execSwr
  extract_lets
  split
  · exact inv_needS h hrun
  · exact hrun

theorem inv_softTrap {g : BitVec 4} {t : Trap} (h : s.Inv k) : (s.softTrap g t).Inv k := by
  unfold State.softTrap
  split
  · exact inv_complete h
  · exact inv_takeTrap (inv_complete h)

theorem inv_execBkpt {f : FI} (h : s.Inv k) : OutInv k (execBkpt f s) := by
  unfold execBkpt
  extract_lets s1 v v_2
  have hs1 : s1.Inv k := inv_complete h
  split
  · exact hs1
  · exact inv_softTrap h

theorem inv_execTret {f : FR} (h : s.Inv k) : OutInv k (execTret f s) := by
  unfold execTret
  split
  · exact inv_complete h
  · split
    · exact inv_stopWith h trivial
    · split
      · exact inv_stopWith h trivial
      · split
        · exact inv_leaveHandler (inv_touchAll h)
        · split <;> exact inv_stopWith h trivial

theorem inv_service {g : BitVec 4} {f : Regs → Regs} (h : s.Inv k) : (s.service g f).Inv k := inv_issueRegs h

theorem inv_execSvcAbort {f : FI} (h : s.Inv k) : OutInv k (execSvcAbort f s) := by
  unfold execSvcAbort
  dsimp only
  split
  · exact inv_complete h
  · exact inv_endProcess (inv_updCtx h)

theorem inv_execSvcPrivsize {f : FI} (h : s.Inv k) : OutInv k (execSvcPrivsize f s) := by
  unfold execSvcPrivsize
  refine inv_issue h (fun _ _ => ?_)
  dsimp only
  split
  · exact inv_mapR h
  · trivial
  · split
    · exact inv_mapR h
    · split
      · exact inv_mapR h
      · exact h

theorem inv_execSvcSleep {f : FI} (h : s.Inv k) : OutInv k (execSvcSleep f s) := by
  unfold execSvcSleep
  refine inv_issue h (fun _ _ => ?_)
  dsimp only
  split
  · split
    · exact inv_mapR h
    · trivial
  · exact h

theorem inv_execIcinv {f : FR} (h : s.Inv k) : OutInv k (execIcinv f s) := by
  unfold execIcinv
  refine inv_issue h (fun _ _ => ?_)
  dsimp only
  split
  · trivial
  · exact inv_later h

theorem inv_execSynci {f : FR} (h : s.Inv k) : OutInv k (execSynci f s) := by
  unfold execSynci
  refine inv_issue h (fun _ _ => ?_)
  split
  · exact h
  · trivial

theorem inv_execQbind {f : FI} (h : s.Inv k) : OutInv k (execQbind f s) := by
  unfold execQbind
  refine inv_issue h (fun _ _ => ?_)
  dsimp only
  split
  · trivial
  · exact h

theorem inv_offer {ctx q : Nat} {v : BitVec 64} (h : s.Inv k) : (s.offer ctx q v).2.Inv k := by
  unfold State.offer
  dsimp only
  (repeat' split) <;> exact h

theorem inv_trySend {who : GRef} {o : SendOut} (h : s.Inv k) : (s.trySend who o).Inv k := by
  unfold State.trySend
  dsimp only
  split
  · exact h
  · split
    · split <;> exact inv_updGroup (fun _ => rfl) (of_pair (inv_offer h) ‹_›)
    · exact h

theorem inv_execSend {f : FR} (h : s.Inv k) : OutInv k (execSend f s) := by
  unfold execSend
  refine inv_issue h (fun _ _ => ?_)
  dsimp only
  split
  · trivial
  · split
    · exact inv_raiseHeld h
    · split
      · trivial
      · exact inv_trySend h

theorem inv_hint (h : s.Inv k) : s.hint.Inv k := inv_complete h

/-! ### The tile forms (Machine/Tile) -/

theorem inv_prepare {lane n : Nat} {fresh : Bool} {j : TKept} :
    Res (Stop.Inv k) (fun _ => True) (s.prepare lane n fresh j) := by
  unfold State.prepare
  dsimp only
  (repeat' split) <;> trivial

theorem inv_startTile {t : TStart} (h : s.Inv k) : (s.startTile t).Inv k := by
  unfold State.startTile
  extract_lets old r regs s' s0
  have h0 : s0.Inv k := by
    unfold s0
    split
    · exact inv_touchAll h
    · exact inv_touchPages (inv_touchAll h)
  exact inv_handOver (inv_emit (h0.withG rfl))

theorem inv_goTile {t : TStart} {lane : Nat} (h : s.Inv k) : Res (Stop.Inv k) (State.Inv k) (s.goTile t lane) := by
  unfold State.goTile
  dsimp only
  split
  · trivial
  · split
    · split
      · trivial
      · split
        · split
          · trivial
          · split
            · split
              · exact inv_startTile (inv_askLease (inv_updBlock h))
              · exact inv_askLease (inv_updBlock h)
            · exact inv_startTile (inv_updBlock h)
        · split
          · trivial
          · split
            · split
              · exact inv_startTile (inv_askLease (inv_updBlock h))
              · exact inv_askLease (inv_updBlock h)
            · exact inv_startTile (inv_updBlock h)
    · split
      · trivial
      · split
        · split
          · trivial
          · split
            · split
              · exact inv_startTile (inv_askLease (inv_updBlock h))
              · exact inv_askLease (inv_updBlock h)
            · exact inv_startTile (inv_updBlock h)
        · split
          · trivial
          · split
            · split
              · exact inv_startTile (inv_askLease (inv_updBlock h))
              · exact inv_askLease (inv_updBlock h)
            · exact inv_startTile (inv_updBlock h)

theorem inv_tileIssue {lane n : Nat} {fresh : Bool} {j : TKept} (h : s.Inv k) :
    Res (Stop.Inv k) (State.Inv k) (s.tileIssue lane n fresh j) := by
  unfold State.tileIssue
  dsimp only
  split
  · split
    · trivial
    · split
      · split
        · exact inv_startTile (inv_askLease h)
        · exact inv_askLease h
      · split
        · trivial
        · exact inv_goTile h
  · split
    · trivial
    · split
      · exact inv_prepare.error ‹_›
      · split
        · split
          · exact h
          · split
            · trivial
            · exact inv_goTile h
        · split
          · exact h
          · exact inv_goTile h

theorem inv_tileForm {opc : Nat} {f : FR} {w : W1} (h : s.Inv k) : (s.tileForm opc f w).Inv k :=
  inv_issue h (fun _ _ => inv_tileIssue h)

theorem inv_execTrsm {f : FR} {w : W1} (h : s.Inv k) : OutInv k (execTrsm f w s) := by
  unfold execTrsm
  refine inv_issue h (fun _ _ => ?_)
  dsimp only
  split
  · exact inv_tileIssue h
  · split
    · trivial
    · split
      · exact inv_tileIssue h
      · exact h

theorem inv_execTfmt {f : FR} {w : W1} (h : s.Inv k) : OutInv k (execTfmt f w s) := by
  unfold execTfmt
  refine inv_issue h (fun _ _ => ?_)
  dsimp only
  split
  · trivial
  · split
    · trivial
    · exact inv_touchAll h

theorem inv_execTlease {f : FR} {w : W1} (h : s.Inv k) : OutInv k (execTlease f w s) := by
  unfold execTlease
  refine inv_issue h (fun _ _ => ?_)
  dsimp only
  split <;> exact inv_askLease h

theorem inv_execTfree {f : FR} {w : W1} (h : s.Inv k) : OutInv k (execTfree f w s) := by
  unfold execTfree
  refine inv_issue h (fun _ _ => ?_)
  dsimp only
  split
  · trivial
  · split <;> exact inv_releaseLease h

/-! ### Native operations (Machine/NativeOps) -/

theorem inv_runVirtual {i : Instr} (h : s.Inv k) : Opt (OutInv k) (runVirtual i s) := by
  cases i with
  | add | sub | mul | mulh | div | rem | and | or | xor | andn | shl | shr | sar | rot | min | max | set =>
    exact inv_scalar2 h
  | clz | ctz | popc | addi | logi | shi => exact inv_scalar1 h
  | lih | addpc | nset | nget => exact inv_issueRegs h
  | vadd | vsub | vmul | vmulh | vmad | vmin | vmax | vabs | vand | vor | vxor | vnot | vshl | vshr | vsar | vbfx
  | vbfi | vclz | vpopc | vcmp | vsel | vmov | vbcast | viota | vdot4 | kop | kmovFroms | vfadd | vfsub | vfmul
  | vfma | vfmin | vfmax | vfcmp | vfdiv | vfsqrt | vrcp | vrsq | vexp2 | vlog2 | vsin | vcos | vtanh | vround
  | vcvt | vpack | vunpack | vscale | vperm | vshfl | vred | vscan => exact inv_vec h
  | kmovTos | vvote | vpart => exact inv_vecPlain h
  | ld | ldi | ldo => exact inv_loadScalar h
  | st | sti | sto => exact inv_storeScalar h
  | vld | vldi | vldc | vldo => exact inv_loadVector h
  | vst | vsti | vstc | vsto => exact inv_storeVector h
  | pld | cwb | cinv => exact inv_cacheForm h
  | stf => exact inv_execStf h
  | acp => exact inv_execAcp h
  | bpf => exact inv_execBpf h
  | nld => exact inv_execNld h
  | nst => exact inv_execNst h
  | fao | red | cas => exact inv_issue h (fun _ _ => inv_atomicForm h)
  | faor => exact inv_execFaor h
  | enq => exact inv_execEnq h
  | deq => exact inv_execDeq h
  | waitc => exact inv_execWaitc h
  | fence | yield | nop | qbindUn => exact inv_issue h (fun _ _ => h)
  | bari => exact inv_execBari h
  | bara => exact inv_execBara h
  | barw => exact inv_execBarw h
  | br | brc | brk | jmpi | call | calli | ret | loop | lbrk => exact inv_issueJump h
  | exit => exact inv_execExit h
  | waitt => exact inv_execWaitt h
  | srd => exact inv_execSrd h
  | swr => exact inv_execSwr h
  | trap => exact inv_softTrap h
  | tret => exact inv_execTret h
  | bkpt => exact inv_execBkpt h
  | svcVersion | svcDebugged | svcUnknown => exact inv_service h
  | svcAbort => exact inv_execSvcAbort h
  | svcPrivsize => exact inv_execSvcPrivsize h
  | svcSleep => exact inv_execSvcSleep h
  | svcHelper => exact inv_needS h (inv_service h)
  | icinv => exact inv_execIcinv h
  | synci => exact inv_execSynci h
  | send => exact inv_execSend h
  | qbind => exact inv_execQbind h
  | pmark => exact inv_issue h (fun _ _ => inv_emit h)
  | tld | tst | tcp | wbld | tmma | tscan | tzero | tacrd | tacwr | tred | tew => exact inv_tileForm h
  | tfmt f w => exact inv_execTfmt (f := f) (w := w) h
  | tlease f w => exact inv_execTlease (f := f) (w := w) h
  | tfree f w => exact inv_execTfree (f := f) (w := w) h
  | tbmap => exact inv_issue h (fun _ _ => inv_mapR h)
  | trsm => exact inv_execTrsm h
  | _ => trivial

/-! ### Slice results (Machine/Slice) -/

theorem inv_compareAt {pa : Nat} (h : s.Inv k) : (s.compareAt pa).Inv k := inv_each (fun _ _ h1 => inv_wakeOne h1) h

theorem inv_execHomeSliceOperation {op : SliceOp} (h : s.Inv k) : OutInv k (execHomeSliceOperation op s) := by
  unfold execHomeSliceOperation
  split
  · exact inv_writeSpans h
  · split
    · exact inv_writeSpans h
    · exact h
  · exact inv_writeSpans h
  · split
    · exact h.withMem fun hm => wf_setAD hm _ _
    · exact h
  · exact inv_compareAt h

theorem inv_unshelve {who : GRef} (h : s.Inv k) : (s.unshelve who).Inv k := by
  unfold State.unshelve
  refine inv_updGroup (fun _ => ?_) h
  (repeat' split) <;> rfl

theorem inv_execWaitcTimeout {who : GRef} (h : s.Inv k) : OutInv k (execWaitcTimeout who s) := by
  unfold execWaitcTimeout
  split
  · exact inv_unshelve h
  · exact h

theorem inv_execFaorSetTimeout {pa : Nat} (h : s.Inv k) : OutInv k (execFaorSetTimeout pa s) := by
  unfold execFaorSetTimeout
  dsimp only
  split
  · exact inv_retryJoins h
  · exact inv_retryJoins (inv_each (fun _ _ h2 => inv_faorGive h2) h)

theorem inv_execSvcSleepExpiry {who : GRef} (h : s.Inv k) : OutInv k (execSvcSleepExpiry who s) := by
  unfold execSvcSleepExpiry
  refine inv_updGroup (fun _ => ?_) h
  (repeat' split) <;> rfl

/-! ### Native bundles (Machine/Native) -/

theorem Group.face_land {g : Group} {f : Flight} : (g.land f).face = g.face := by
  unfold Group.land
  split <;> rfl

theorem Group.face_foldl_land {g : Group} {l : List Flight} : (l.foldl Group.land g).face = g.face := by
  induction l generalizing g with
  | nil => rfl
  | cons f _ ih => exact ih.trans Group.face_land

theorem Group.face_landAll {g : Group} {p : Flight → Bool} : (g.landAll p).face = g.face := Group.face_foldl_land

/-! ### Regions and their gate (Machine/Region) -/

theorem Group.face_leaveDraining {g : Group} {t : Translation} : (g.leaveDraining t).face = g.face :=
  Group.face_landAll

theorem Group.face_discard {g : Group} {t : Translation} : (g.discard t).face = g.face := by
  unfold Group.discard
  split
  · exact Group.face_leaveDraining
  · exact Group.face_landAll

theorem Group.face_depart {g : Group} {t : Translation} : (g.depart t).face = g.face := Group.face_landAll

theorem Group.face_stepOut {g : Group} {t : Translation} : (g.stepOut t).face = g.face := Group.face_depart (t := t)

theorem inv_setProfile {id : Nat} {p : Profile} (h : s.Inv k) : (s.setProfile id p).Inv k := h

theorem inv_abort {t : Translation} {index : Nat} {site : Option Nat} (h : s.Inv k) : (s.abort t index site).Inv k :=
  inv_setProfile (h.withG Group.face_discard)

theorem inv_tryEnter (h : s.Inv k) : s.tryEnter.Inv k := by
  unfold State.tryEnter
  extract_lets free fits s1
  have h1 : s1.Inv k := by
    unfold s1
    split
    · exact inv_countRel h
    · exact h
  clear_value s1
  split
  · exact h
  · split
    · exact h
    · exact inv_setProfile (h1.mix h h1)

theorem inv_attempt {i : Instr} {r : Regs} {resume : Bool} (h : s.Inv k) : (s.attempt i r resume).Inv k := by
  unfold State.attempt
  extract_lets _ s0
  have h0 : s0.Inv k := h
  clear_value s0
  split
  · next e =>
    have ht := (inv_runVirtual h0).some e
    split
    · exact ht
    · split
      · exact ht
      · split <;> exact ht
  · trivial

theorem inv_kept {u : State} {before : Regs} (hu : u.Inv k) : (s.kept u before).Inv k := hu

theorem inv_memoryOf {u : State} (h : s.Inv k) (hu : u.Inv k) : (s.memoryOf u).Inv k := State.Inv.mix hu h h

theorem inv_seeStore {e : GateEntry} (h : s.Inv k) : (s.seeStore e).Inv k := by
  unfold State.seeStore
  extract_lets v s1
  have hs1 : s1.Inv k := h
  split
  · exact inv_memoryOf h (Attempt.Inv.done (inv_attempt hs1) ‹_›)
  · exact h

theorem inv_seen {before : Regs} {i : Instr} (h : s.Inv k) : Opt (State.Inv k) (s.seen before i) := by
  unfold State.seen
  dsimp only
  split
  · trivial
  · exact inv_each (fun _ _ h1 => inv_seeStore h1) h

theorem inv_drainGate {n : Nat} (h : s.Inv k) : (s.drainGate n).2.Inv k := by
  induction n generalizing s with
  | zero => exact h
  | succ n ih =>
    unfold State.drainGate
    split
    · exact h
    · extract_lets _ pop
      have hpop (u : State) (late : List (Trap × Nat × Nat)) (hu : u.Inv k) : (pop u late).Inv k := hu
      clear_value pop
      split
      · next e => exact ih (hpop _ _ ((inv_attempt h).done e))
      · next e =>
        have hu := (inv_attempt h).waits e
        exact hu
      · exact ih (hpop _ _ h)
      · exact ih (hpop _ _ h)

theorem inv_execIbset {g : BitVec 4} {r : BitVec 10} {imm : BitVec 20} (h : s.Inv k) :
    OutInv k (execIbset g r imm s) := by
  unfold execIbset
  split <;> exact h

theorem inv_xcmp {t : Translation} {index : Nat} {ls : List Nat} {d a : BitVec 12} {voff : BitVec 16} (h : s.Inv k) :
    Opt (State.Inv k) (s.xcmp t index ls d a voff) := by
  unfold State.xcmp
  dsimp only
  split
  · exact inv_abort h
  · trivial

theorem inv_execXcmp {g : BitVec 4} {d a : BitVec 12} {voff : BitVec 16} (h : s.Inv k) :
    OutInv k (execXcmp g d a voff s) := by
  unfold execXcmp
  split
  · exact h
  · exact inv_getD (inv_xcmp h) h

theorem inv_commit {t : Translation} {row : Nat} (h : s.Inv k) : (s.commit t row).Inv k := h

theorem inv_takeLate {x : Trap × Nat × Nat} (h : s.Inv k) : (s.takeLate x).Inv k := inv_takeTrap h

theorem inv_raiseLate {t : Translation} {before_ : Nat} (h : s.Inv k) :
    Opt (State.Inv k) (s.raiseLate t before_) := by
  unfold State.raiseLate
  split
  · trivial
  · exact inv_takeLate (h.withG (Group.face_discard (g := s.g) (t := t)))

theorem inv_gateStore {t : Translation} {it : Issue} {i : Instr} {op : Nat} {p : Pend} {kept : Option (List Where)}
    (h : s.Inv k) : SlotEnd.Inv k (s.gateStore t it i op p kept) := by
  unfold State.gateStore
  dsimp only
  split
  · exact inv_abort h
  · split
    · exact inv_abort h
    · exact h

theorem inv_runSlot {t : Translation} {it : Issue} {i : Instr} {w0 w1 : Word64} {cross : Nat} {hd resume : Bool}
    (h : s.Inv k) : (s.runSlot t it i w0 w1 cross hd resume).Inv k := by
  unfold State.runSlot
  extract_lets op w act load gated reads miss
  clear_value reads
  split
  · exact inv_abort h
  · next v e =>
    have hv : v.Inv k := by
      split at e
      · exact (inv_seen h).some e
      · cases e; exact h
    extract_lets accs scratch
    split
    · exact inv_abort h
    · exact inv_abort h
    · next u e =>
      have hu := (inv_attempt hv).waits e
      split
      · exact inv_gateStore h
      · refine inv_kept ?_
        split
        · exact inv_memoryOf hu h
        · exact hu
    · next u1 e =>
      have h1 := (inv_attempt hv).done e
      extract_lets u rs kept g1 _ g2
      have hkept : kept.Inv k := by
        refine inv_kept ?_
        unfold u
        split
        · exact inv_touchAll (inv_memoryOf h1 h)
        · exact h1
      have hg : g2.face = kept.g.face := by
        unfold g2
        split <;> rfl
      clear_value kept g2
      split
      · split
        · exact inv_kept h1
        · exact inv_gateStore h
      · split
        · exact inv_abort h
        · exact hkept.withG hg

theorem inv_closing {t : Translation} {it : Issue} {j : State → SlotEnd} (h : s.Inv k)
    (hj : ∀ a0, a0.Inv k → SlotEnd.Inv k (j a0)) : SlotEnd.Inv k (s.closing t it j) := by
  unfold State.closing
  dsimp only
  split
  · exact h.withG Group.face_discard
  · split
    · exact hj _ (inv_drainGate h)
    · exact inv_drainGate h

theorem inv_transferOut {t : Translation} {it : Issue} {op : Nat} {targets : List (Nat × Nat)} (h : s.Inv k) :
    (s.transferOut t it op targets).Inv k :=
  h.withG (Group.face_depart (g := s.g) (t := t))

theorem inv_runCall {t : Translation} {it : Issue} {index : Nat} {act : List Nat} (h : s.Inv k) :
    SlotEnd.Inv k (s.runCall t it index act) := by
  unfold State.runCall
  dsimp only
  split
  · exact h
  · split
    · split
      · exact inv_transferOut h
      · exact h
    · split
      · exact inv_transferOut h
      · exact h

theorem inv_runBranch {t : Translation} {it : Issue} {i : Instr} {w0 : Word64} (h : s.Inv k) :
    SlotEnd.Inv k (s.runBranch t it i w0) := by
  unfold State.runBranch
  dsimp only
  split
  · exact h
  · exact inv_abort h

theorem inv_runS {t : Translation} {b : BitVec 256} {it : Issue} {resume : Bool} (h : s.Inv k) :
    SlotEnd.Inv k (s.runS t b it resume) := by
  unfold State.runS
  dsimp only
  split
  · exact h
  · split
    · split <;> exact h
    · split
      · (repeat' split) <;> exact h
      · split
        · exact inv_runCall h
        · split
          · split
            · exact h
            · split
              · split
                · exact h
                · exact inv_closing h (fun _ h1 => inv_transferOut h1)
              · exact inv_kept (Attempt.Inv.waits (inv_attempt h) ‹_›)
              · exact inv_abort h
          · split
            · exact inv_closing h (fun _ h1 => h1.withG Group.face_stepOut)
            · split
              · exact inv_runBranch h
              · exact inv_runSlot h

theorem inv_runV {t : Translation} {b : BitVec 256} {it : Issue} {c : Nat} {resume : Bool} (h : s.Inv k) :
    SlotEnd.Inv k (s.runV t b it c resume) := by
  unfold State.runV
  dsimp only
  split
  · exact h
  · exact inv_runSlot h

theorem inv_runM {t : Translation} {b : BitVec 256} {it : Issue} {resume : Bool} (h : s.Inv k) :
    (s.runM t b it resume).Inv k := by
  unfold State.runM
  dsimp only
  split
  · split
    · exact h
    · split
      · next e => exact ((inv_runSlot h).on e : State.Inv k _)
      · exact inv_runSlot h
  · split
    · exact h
    · split
      · split
        · exact (inv_xcmp h).some ‹_›
        · exact h
      · split
        · exact h
        · exact inv_runSlot h

theorem inv_trailed {u : State} {b : BitVec 256} {it : Issue} (h : u.Inv k) : (u.trailed s b it).Inv k := by
  unfold State.trailed
  dsimp only
  split <;> exact h

theorem inv_runOne {t : Translation} {b : BitVec 256} {it : Issue} {resume : Bool} (h : s.Inv k) :
    SlotEnd.Inv k (s.runOne t b it resume) := by
  unfold State.runOne
  split
  · exact inv_runS h
  · exact inv_runV h
  · exact inv_runV h
  · exact inv_runM h

theorem inv_runSlots {t : Translation} {b : BitVec 256} {it : Issue} {n : Nat} {resume : Bool} (h : s.Inv k) :
    (s.runSlots t b it n resume).Inv k := by
  induction n generalizing s it resume with
  | zero => exact h
  | succ n ih =>
    unfold State.runSlots
    split
    · next e => exact (inv_runOne h).stop e
    · next e =>
      have hu := (inv_runOne h).waits e
      exact hu
    · next e =>
      have hu := inv_trailed (s := s) (b := b) (it := it) ((inv_runOne h).on e)
      exact ih hu

theorem inv_runBundle {t : Translation} {b : BitVec 256} (h : s.Inv k) : (s.runBundle t b).Inv k := by
  unfold State.runBundle
  extract_lets late s1 d s2 ls p s3 it
  split
  · exact inv_runSlots h
  · split
    · exact h.withG Group.face_discard
    · split
      · exact inv_setStall h
      · have h1 : s1.Inv k := h.withG (Group.face_landAll (g := s.g) (p := late))
        have hd : d.2.Inv k := by
          unfold d
          split
          · exact inv_drainGate h1
          · exact h1
        have h2 : s2.Inv k := by
          unfold s2
          split
          · exact inv_commit hd
          · exact hd
        clear_value d s2
        split
        · exact hd
        · split
          · next e =>
            split at e
            · exact (inv_raiseLate h2).some e
            · cases e
          · exact inv_runSlots (inv_setProfile h2)

theorem inv_execBundleIssue (h : s.Inv k) : OutInv k (execBundleIssue s) := by
  unfold execBundleIssue
  dsimp only
  split
  · exact inv_tryEnter h
  · split
    · exact inv_tryEnter h
    · split
      · exact (inv_tryEnter h).withG Group.face_discard
      · split
        · split
          · exact inv_runBundle (inv_tryEnter h)
          · trivial
        · split
          · exact inv_runBundle (inv_tryEnter h)
          · trivial

/-- What a fold of work over a list that may have no result leaves, when each piece keeps the fact. -/
theorem Opt.foldlM {α β : Type} {P : β → Prop} {f : β → α → Option β} {l : List α} {b : β}
    (piece : ∀ b a, P b → Opt P (f b a)) (hb : P b) : Opt P (l.foldlM f b) := by
  induction l generalizing b with
  | nil => exact hb
  | cons a l ih =>
    rw [List.foldlM_cons]
    have ha := piece b a hb
    cases e : f b a with
    | none => trivial
    | some c => exact ih (ha.some e)

/-- What a fold of fallible work over a list leaves, when each piece keeps the fact. -/
theorem Res.foldlM {ε α β : Type} {P : β → Prop} {Q : α → Prop} {f : β → α → Except ε β} {l : List α} {b : β}
    (piece : ∀ b a, P b → Q a → Res (fun _ => True) P (f b a)) (hl : ∀ a ∈ l, Q a) (hb : P b) :
    Res (fun _ => True) P (l.foldlM f b) := by
  induction l generalizing b with
  | nil => exact hb
  | cons a l ih =>
    rw [List.foldlM_cons]
    have ha := piece b a hb (hl a List.mem_cons_self)
    cases e : f b a with
    | error => trivial
    | ok c => exact ih (fun x hx => hl x (List.mem_cons_of_mem _ hx)) (ha.ok e)

/-! ### Debugging (Machine/Debug) -/

theorem Group.face_resume {g : Group} : g.resume.face = g.face := rfl

theorem face_viewOf {g : Group} : (s.viewOf g).face = g.face := by
  unfold State.viewOf
  split
  · split
    · exact Group.face_discard
    · rfl
  · rfl

theorem face_groupFrom {g : Group} {v : Nat} : Opt (fun x => x.face = g.face) (s.groupFrom g v) := by
  unfold State.groupFrom
  dsimp only
  split
  · rfl
  · trivial

/-- The fact holds of each group that a request names. -/
theorem State.Inv.targets {q : DbgReq} (h : s.Inv k) :
    Res (fun _ => True) (fun l => ∀ g ∈ l, g.Inv k) (s.targets q) := by
  unfold State.targets
  split
  · exact fun g hg => h.group (List.mem_filter.mp hg).1
  · split
    · trivial
    · next g e =>
      split
      · trivial
      · split
        · trivial
        · intro x hx
          obtain rfl := List.mem_singleton.mp hx
          exact h.found e

theorem Group.Inv.congr {g g' : Group} (h : g.Inv k) (e : g'.face = g.face := by rfl) : g'.Inv k :=
  (Group.inv_congr e).mpr h

theorem inv_writeResult {ctx a status : Nat} (h : s.Inv k) : (s.writeResult ctx a status).Inv k := by
  unfold State.writeResult
  split
  · exact h
  · exact inv_getD (inv_writeCtx h) h

theorem inv_answerDebug {x : Nat × Nat} {status : Nat} (h : s.Inv k) : (s.answerDebug x status).Inv k := by
  unfold State.answerDebug
  split
  · exact h
  · exact inv_writeResult h

theorem inv_endStep {who : GRef} {status : Nat} (h : s.Inv k) : (s.endStep who status).Inv k := by
  unfold State.endStep
  dsimp only
  split
  · exact h
  · exact inv_answerDebug (inv_updGroup (fun _ => rfl) h)

theorem inv_stopGroup {cause : Nat} {who : GRef} (h : s.Inv k) : (s.stopGroup cause who).Inv k :=
  inv_endStep (inv_updGroup (fun _ => rfl) h)

theorem inv_leaveDebugger {who : GRef} {status : Nat} (h : s.Inv k) : (s.leaveDebugger who status).Inv k := by
  unfold State.leaveDebugger
  dsimp only
  split
  · exact h
  · exact inv_each (fun _ _ h1 => inv_answerDebug h1) (inv_updGroup (fun _ => rfl) h)

theorem inv_stopSaved {who : GRef} (h : s.Inv k) : (s.stopSaved who).Inv k := by
  unfold State.stopSaved
  dsimp only
  split
  · exact h
  · exact h
  · exact inv_each (fun _ _ h1 => inv_answerDebug h1) (inv_updGroup (fun _ => rfl) (inv_stopGroup h))

theorem inv_execBreakpointHit {index : Nat} (h : s.Inv k) : OutInv k (execBreakpointHit index s) := by
  unfold execBreakpointHit
  dsimp only
  split
  · split
    · exact inv_stopGroup h
    · exact h
  · split
    · exact inv_stopGroup h
    · exact h

theorem inv_attach {ctx : Nat} (h : s.Inv k) : (s.attach ctx).Inv k := inv_updCtx h

theorem inv_dbgOn {q : DbgReq} {f : State → Group → Except Nat State} (h : s.Inv k)
    (hf : ∀ u g, u.Inv k → g.Inv k → Res (fun _ => True) (State.Inv k) (f u g)) : (s.dbgOn q f).Inv k := by
  unfold State.dbgOn
  extract_lets s0
  have h0 : s0.Inv k := inv_attach h
  clear_value s0
  split
  · exact inv_writeResult h0
  · next e =>
    split
    · exact inv_writeResult h0
    · next e1 => exact inv_answerDebug ((Res.foldlM hf (h0.targets.ok e) h0).ok e1)

theorem inv_execDbgStop {q : DbgReq} (h : s.Inv k) : OutInv k (execDbgStop q s) := by
  refine inv_dbgOn h fun u g hu _ => Res.of_ok ?_
  split
  · exact hu
  · split
    · exact inv_updGroup (fun _ => rfl) hu
    · exact inv_stopGroup hu

theorem inv_execDbgResume {q : DbgReq} (h : s.Inv k) : OutInv k (execDbgResume q s) := by
  refine inv_dbgOn h fun u g hu _ => ?_
  split
  · exact inv_updGroup (fun _ => Group.face_resume) hu
  · split
    · exact hu
    · trivial

theorem inv_execDbgStep {q : DbgReq} (h : s.Inv k) : OutInv k (execDbgStep q s) := by
  refine inv_dbgOn h fun u g hu _ => ?_
  split
  · exact inv_updGroup (fun _ => rfl) hu
  · trivial

theorem inv_execSetbp {q : DbgReq} (h : s.Inv k) : OutInv k (execSetbp q s) := by
  refine inv_dbgOn h fun u g hu _ => ?_
  split
  · trivial
  · exact inv_updGroup (fun _ => rfl) hu

theorem inv_execSetwp {q : DbgReq} (h : s.Inv k) : OutInv k (execSetwp q s) := by
  refine inv_dbgOn h fun u g hu _ => ?_
  split
  · trivial
  · exact inv_updGroup (fun _ => rfl) hu

theorem inv_execDetach {q : DbgReq} (h : s.Inv k) : OutInv k (execDetach q s) := by
  unfold execDetach
  extract_lets free s0 s1
  have hfree (g : Group) : (free g).face = g.face := by
    unfold free
    dsimp only
    (repeat' split) <;> rfl
  have h0 : s0.Inv k := inv_each (fun _ _ hu => inv_leaveDebugger hu) h
  have h1 : s1.Inv k := h0.mapGroups (hfree _) hfree
  exact inv_writeResult (inv_updCtx h1)

theorem inv_writeFields {ctx base : Nat} {l : List Field} (h : s.Inv k) :
    Opt (State.Inv k) (s.writeFields ctx base l) :=
  Opt.foldlM (fun _ _ hu => inv_writeCtx hu) h

theorem inv_giveView {q : DbgReq} {v : Group} (h : s.Inv k) (hv : v.Inv k) :
    Res (fun _ => True) (State.Inv k) (s.giveView q v) := by
  unfold State.giveView
  extract_lets _ s1
  have h1 : s1.Inv k := inv_updGroup_of (fun _ _ => hv.congr) h
  clear_value s1
  split
  · next e => exact (inv_writeFields h1).some e
  · trivial

theorem inv_execDbgRead {q : DbgReq} (h : s.Inv k) : OutInv k (execDbgRead q s) := by
  refine inv_dbgOn h fun u g hu hg => ?_
  have hv : (u.viewOf g).Inv k := hg.congr face_viewOf
  split
  · trivial
  · split
    · trivial
    · split
      · exact inv_updGroup_of (fun _ _ => hv.congr) hu
      · exact inv_giveView hu hv

/-- The view is made of the focus group even where that is not there, so its privilege is asked for. -/
theorem inv_endView {v : View} (h : s.Inv k) (hg : s.g.Inv k) : (s.endView v).Inv k := by
  unfold State.endView
  split
  · next e => exact inv_answerDebug ((inv_giveView h hg.congr).ok e)
  · exact inv_answerDebug h

theorem inv_execDbgWrite {q : DbgReq} (h : s.Inv k) : OutInv k (execDbgWrite q s) := by
  refine inv_dbgOn h fun u g hu hg => ?_
  split
  · trivial
  · split
    · trivial
    · split
      · trivial
      · split
        · trivial
        · next e => exact inv_updGroup_of (fun _ _ => hg.congr (face_groupFrom.some e)) hu

/-! ### Capabilities (Machine/Caps) -/

theorem inv_writeCaps {ctx : Nat} (h : s.Inv k) : (s.writeCaps ctx).Inv k := by
  unfold State.writeCaps
  dsimp only
  split
  · exact h
  · exact inv_each (fun _ _ h1 => inv_placeCtx h1) h

theorem inv_mapBytes {ctx va pa n : Nat} {w : Bool} (h : s.Inv k) : (s.mapBytes ctx va pa n w).Inv k :=
  inv_each (fun _ _ h1 => inv_mapAt h1) h

theorem inv_mapRing {ctx va : Nat} (h : s.Inv k) : (s.mapRing ctx va).Inv k := inv_placeCtx (inv_mapPage h)

theorem inv_needCtx {id : Nat} (h : s.Inv k) : (s.needCtx id).Inv k := by
  unfold State.needCtx
  extract_lets f ring caps v c v_2 s1 s2 s3 s4
  have hf : f.2.Inv k := inv_newFrame h
  have hv_2 : v_2.Inv k := hf
  have hs1 : s1.Inv k := hf
  have hs2 : s2.Inv k := inv_mapRing (inv_mapRing (inv_mapRing hs1))
  have hs3 : s3.Inv k := inv_mapBytes (inv_mapBytes hs2)
  have hs4 : s4.Inv k := inv_placeCtx (inv_mapPage hs3)
  split
  · exact h
  · exact inv_writeCaps (inv_mapPage hs4)

/-- The state that a completion action leaves. -/
def ActionEnd.Inv (k : Facet) : ActionEnd → Prop
  | .done s => s.Inv k
  | _ => True

theorem ActionEnd.Inv.done {k : Facet} {x : ActionEnd} {s : State} (h : x.Inv k) (e : x = .done s) : s.Inv k := by
  subst e; exact h

/-! ### Placement of blocks (Machine/Place) -/

/-- A group begins with privilege S in the system context only. -/
theorem inv_newGroup {l : Launch} {block core index pbase : Nat} {at_ : Nat × Nat} :
    (s.newGroup l block core index at_ pbase).Inv k := by
  cases k
  · trivial
  all_goals exact fun h => beq_iff_eq.mp h

theorem inv_deskWatch {line : Nat} {i : Instr} (h : s.Inv k) : (s.deskWatch line i).Inv k := by
  unfold State.deskWatch
  dsimp only
  (repeat' split) <;> exact h

theorem inv_writeCb {q : Nat} {err : Bool} (h : s.Inv k) : (s.writeCb q err).Inv k :=
  inv_writeSpans (inv_writeSpans h)

theorem inv_updQueue {q : Nat} {f : DQueue → DQueue} (h : s.Inv k) : (s.updQueue q f).Inv k := h

theorem inv_queueErr {q code : Nat} (h : s.Inv k) : (s.queueErr q code).Inv k := inv_writeCb (inv_updQueue h)

theorem inv_queueReject {q code : Nat} (h : s.Inv k) : (s.queueReject q code).Inv k := inv_writeCb (inv_updQueue h)

theorem inv_queueEvent {q ctx launch kind value : Nat} (h : s.Inv k) : (s.queueEvent q ctx launch kind value).Inv k :=
  inv_emitHub h

theorem inv_checkReady {id : Nat} (h : s.Inv k) : (s.checkReady id).Inv k := by
  unfold State.checkReady
  split
  · exact h
  · extract_lets states newly s' s1 deps ready upd s2
    have hs' : s'.Inv k := by
      unfold s'
      refine inv_each (fun _ _ h2 => ?_) h
      split
      · exact h2
      · exact inv_touchPages h2
    have hs1 : s1.Inv k := by
      unfold s1
      split
      · exact inv_queueErr hs'
      · exact hs'
    have hs2 : s2.Inv k := hs1
    split
    · exact h
    · split
      · exact inv_queueEvent hs2
      · refine inv_each (fun _ _ h3 => ?_) hs2
        split
        · exact inv_deskWatch h3
        · exact h3

theorem inv_onceAwake {die : Option Nat} {i : Instr} {s' : State} (h : s.Inv k) (hs' : s'.Inv k) :
    (s.onceAwake die i s').Inv k := by
  unfold State.onceAwake
  dsimp only
  split
  · exact inv_later h
  · split
    · split
      · exact inv_later h
      · exact hs'
    · exact hs'

theorem inv_roomAgain {before : State} (h : s.Inv k) : (s.roomAgain before).Inv k := by
  unfold State.roomAgain
  split
  · exact inv_each (fun _ _ h1 => inv_later h1) h
  · exact h

theorem inv_takeRecord {q ctx r : Nat} (h : s.Inv k) : (s.takeRecord q ctx r).Inv k := by
  unfold State.takeRecord
  dsimp only
  split
  · exact inv_queueEvent (inv_queueReject h)
  · split
    · exact inv_queueEvent (inv_queueReject h)
    · exact inv_checkReady (inv_queueEvent (inv_writeCb (inv_updQueue (inv_touchPages h))))

theorem inv_serveQueue {q : Nat} (h : s.Inv k) : (s.serveQueue q).2.Inv k := by
  unfold State.serveQueue
  dsimp only
  split
  · exact h
  · split
    · exact inv_queueErr h
    · split
      · exact inv_queueErr h
      · split
        · exact inv_of_deqAt h ‹_›
        · exact inv_takeRecord (inv_of_deqAt h ‹_›)

theorem inv_latencyWakes (h : s.Inv k) : s.latencyWakes.Inv k := h

theorem inv_execDeviceQueueWake {queue : Nat} (h : s.Inv k) : OutInv k (execDeviceQueueWake queue s) := by
  unfold execDeviceQueueWake
  refine inv_onceAwake h ?_
  split
  · exact inv_later (inv_each (fun _ _ h2 => inv_later h2) (inv_latencyWakes (inv_serveQueue (inv_serveQueue h))))
  · split
    · exact inv_deskWatch (inv_each (fun _ _ h2 => inv_later h2) (inv_latencyWakes (inv_serveQueue (inv_serveQueue h))))
    · exact inv_each (fun _ _ h1 => inv_later h1) (inv_latencyWakes (inv_serveQueue (inv_serveQueue h)))

theorem inv_actionOf {l : Launch} (h : s.Inv k) : (s.actionOf l).Inv k := by
  unfold State.actionOf
  split
  · extract_lets acc
    split
    · exact inv_writeSpans (inv_touch h)
    · trivial
  · extract_lets q
    split
    · trivial
    · split
      · trivial
      · split
        · trivial
        · next e =>
          have h1 := inv_of_enqAt (inv_touchPages h) e
          split
          · trivial
          · exact h1
  · exact h

theorem inv_finishLaunch {id : Nat} (h : s.Inv k) : (s.finishLaunch id).Inv k := by
  unfold State.finishLaunch
  split
  · exact h
  · split
    · exact h
    · extract_lets drop
      have hdrop (u : State) (hu : u.Inv k) : (drop u).Inv k := hu
      clear_value drop
      split
      · next e =>
        have h1 := (inv_actionOf h).done e
        refine hdrop _ ?_
        split
        · exact h1
        · exact inv_queueEvent h1
      · exact inv_deskWatch h
      · refine hdrop _ ?_
        split
        · exact inv_queueReject h
        · exact h

theorem inv_freeRes {key : Nat} (h : s.Inv k) : (s.freeRes key).Inv k := h

theorem inv_releasePod {l : Launch} (h : s.Inv k) : (s.releasePod l).Inv k := inv_each (fun _ _ h1 => inv_post h1) h

theorem inv_freeLaunch {id : Nat} (h : s.Inv k) : (s.freeLaunch id).Inv k := by
  unfold State.freeLaunch
  extract_lets asked s1 s2
  have h1 : s1.Inv k := by
    unfold s1
    split
    · split
      · exact inv_releasePod h
      · exact h
    · exact h
  exact (inv_freeRes h1 : s2.Inv k)

theorem inv_execLaunchComplete {launch : Nat} (h : s.Inv k) : OutInv k (execLaunchComplete launch s) := by
  unfold execLaunchComplete
  dsimp only
  split
  · exact h
  · split
    · exact h
    · exact inv_finishLaunch (inv_freeLaunch h)

theorem inv_allotQueue {q ctx : Nat} {enable hosten : Bool} (h : s.Inv k) :
    (s.allotQueue q ctx enable hosten).Inv k := by
  unfold State.allotQueue
  refine inv_later ?_
  refine inv_writeCb ?_
  refine inv_updQueue ?_
  split
  · exact inv_writeSpans (inv_writeSpans h)
  · exact h

theorem inv_allotReceive {q ctx : Nat} (h : s.Inv k) : (s.allotReceive q ctx).Inv k := by
  unfold State.allotReceive
  refine inv_writeCaps ?_
  split
  · exact inv_writeCaps (inv_needCtx h)
  · exact inv_needCtx h

theorem inv_execQueueAllotment {queue : Nat} {receive : Bool} {ctx : Nat} {enable hosten : Bool} (h : s.Inv k) :
    OutInv k (execQueueAllotment queue receive ctx enable hosten s) := by
  unfold execQueueAllotment
  dsimp only
  split
  · split
    · exact inv_allotReceive h
    · exact h
  · split
    · exact h
    · exact inv_allotQueue (inv_needCtx h)

theorem inv_execTranslatorKernelStart (h : s.Inv k) : OutInv k (execTranslatorKernelStart s) := by
  unfold execTranslatorKernelStart
  dsimp only
  split
  · exact inv_of_enqAt h ‹_›
  · exact h

theorem inv_setDie {die : Nat} {f : DieSt → DieSt} (h : s.Inv k) : (s.setDie die f).Inv k := h

theorem inv_settle {die debit : Nat} (h : s.Inv k) : (s.settle die debit).Inv k := inv_setDie h

theorem inv_loadPlan {a : ResAsk} {plan : List (Nat × Nat)} {router : Nat} (h : s.Inv k) :
    (s.loadPlan a plan router).Inv k := by
  unfold State.loadPlan
  split
  · exact inv_updCtx h
  · exact h

theorem inv_takeRes {a : ResAsk} {r : Reservation} (h : s.Inv k) : (s.takeRes a r).Inv k := by
  unfold State.takeRes
  dsimp only
  split
  · exact h
  · exact inv_each (fun _ _ h1 => inv_each (fun _ _ h3 => inv_loadPlan h3) h1) h

theorem inv_reserve {l : Launch} {r : Reservation} (h : s.Inv k) : (s.reserve l r).Inv k :=
  inv_updLaunch (inv_takeRes h)

theorem inv_addGroup {l : Launch} {block core index : Nat} {at_ : Nat × Nat} (h : s.Inv k) :
    (s.addGroup l block core index at_).Inv k := by
  unfold State.addGroup
  extract_lets pbase s1
  have h1 : s1.Inv k := inv_mapRange (s := { s with free := s.free + 1 }) h
  clear_value s1
  refine h1.withGroups (.inr rfl) fun x hx => ?_
  rcases List.mem_append.mp hx with hx | hx
  · exact h1.other x hx
  · obtain rfl := List.mem_singleton.mp hx
    exact inv_newGroup

theorem inv_wakeCore {core : Nat} (h : s.Inv k) : (s.wakeCore core).Inv k := by
  unfold State.wakeCore
  split
  · exact h
  · exact inv_later h

theorem inv_startBlock {l : Launch} {block core : Nat} {seats : List (Nat × Nat)} (h : s.Inv k) :
    (s.startBlock l block core seats).Inv k :=
  inv_updLaunch (inv_each (fun _ _ h2 => inv_addGroup h2) h)

theorem inv_resumeRecs {g : Group} (h : s.Inv k) : (s.resumeRecs g).Inv k := by
  unfold State.resumeRecs
  refine inv_each (fun _ _ h0 => ?_) h
  dsimp only
  split
  · exact h0
  · split
    · split <;> exact h0
    · exact inv_handOver h0

theorem inv_leaveQueues {g : Group} {all : Bool} (h : s.Inv k) : (s.leaveQueues g all).Inv k := by
  unfold State.leaveQueues
  refine inv_each (fun _ _ h0 => ?_) h
  dsimp only
  split
  · exact h0
  · split
    · split
      · exact h0
      · exact inv_afterChild (inv_startHead h0)
    · exact h0

theorem inv_flushBlock {launch block : Nat} (h : s.Inv k) : (s.flushBlock launch block).Inv k :=
  inv_updLaunch (inv_removeBlock (inv_each (fun _ _ h3 => inv_releaseLease (inv_leaveQueues h3)) h))

theorem inv_raiseImg {l : Launch} {g : Group} (h : s.Inv k) : (s.raiseImg l g).Inv k := by
  unfold State.raiseImg
  dsimp only
  split
  · exact inv_flushBlock h
  · exact inv_takeTrap (inv_refocus h)

theorem inv_resumeBlock {l : Launch} {block core : Nat} {seats : List (Nat × Nat)} (h : s.Inv k) :
    (s.resumeBlock l block core seats).Inv k := by
  unfold State.resumeBlock
  extract_lets back s0 s1 s2 mine
  have hback (g : Group) : (back g).face = g.face := by
    unfold back
    split <;> rfl
  have h0 : s0.Inv k := by
    refine inv_each (fun u g hu => ?_) h
    split
    · exact inv_scanArray hu
    · exact hu
  have h1 : s1.Inv k := h0.mapGroups (hback _) hback
  refine inv_each (fun u g hu => ?_) (inv_updLaunch h1)
  extract_lets s3
  have h3 : s3.Inv k := inv_resumeRecs hu
  split
  · exact inv_updGroup (fun _ => rfl) (inv_askLease h3)
  · exact h3

theorem inv_freeArea {launch block : Nat} (h : s.Inv k) : (s.freeArea launch block).Inv k := by
  unfold State.freeArea
  split
  · exact h
  · exact inv_updLaunch h

theorem inv_noteDesk {die : Nat} (h : s.Inv k) : (s.noteDesk die).Inv k := by
  unfold State.noteDesk
  split
  · exact h
  · exact inv_setDie h

theorem inv_place {l : Launch} {block core : Nat} {seats : List (Nat × Nat)} (h : s.Inv k) :
    (s.place l block core seats).Inv k := by
  unfold State.place
  extract_lets saved s1 s2 s3 fed
  have h1 : s1.Inv k := inv_wakeCore (inv_settle h)
  have h2 : s2.Inv k := by
    unfold s2
    clear_value s1
    split
    · exact inv_startBlock h1
    · split
      · exact inv_raiseImg (s := { s1 with free := s1.free + 32 }) h1
      · exact inv_freeArea (inv_resumeBlock (s := { s1 with free := s1.free + 32 }) h1)
  clear_value s2
  have h3 : s3.Inv k := inv_updLaunch h2
  exact inv_roomAgain (inv_noteDesk (s := { s3 with dies := s3.dies.map fed }) h3)

/-! ### The placement desk (Machine/Desk) -/

theorem inv_freeze {launch block : Nat} (h : s.Inv k) : (s.freeze launch block).Inv k := by
  unfold State.freeze
  extract_lets f
  have hf (g : Group) : (f g).face = g.face := by
    unfold f
    split <;> rfl
  exact h.mapGroups (hf _) hf

theorem inv_beginPre {launch block : Nat} {p : Preempt} {victimOf : List Nat} (h : s.Inv k) :
    (s.beginPre launch block p victimOf).Inv k := by
  unfold State.beginPre
  dsimp only
  split
  · exact inv_freeze (inv_updLaunch h)
  · exact inv_freeze (inv_updLaunch h)
  · exact inv_updLaunch h

theorem inv_preempt {launch block bound : Nat} {victimOf : List Nat} (h : s.Inv k) :
    (s.preempt launch block bound victimOf).Inv k := by
  unfold State.preempt
  split
  · exact h
  · split
    · exact h
    · split
      · exact inv_beginPre h
      · exact inv_beginPre h
      · exact inv_beginPre h
      · exact h

theorem inv_execDrainBoundExpiry {launch block : Nat} (h : s.Inv k) :
    OutInv k (execDrainBoundExpiry launch block s) := by
  unfold execDrainBoundExpiry
  dsimp only
  split
  · exact h
  · split
    · split
      · exact h
      · (repeat' split) <;> exact inv_beginPre h
    · exact h

theorem inv_yieldLease {g : Group} (h : s.Inv k) : (s.yieldLease g).Inv k :=
  inv_updGroup (fun _ => rfl) (inv_releaseLease h)

theorem inv_scanImages {launch block : Nat} (h : s.Inv k) : (s.scanImages launch block).Inv k := by
  unfold State.scanImages
  refine inv_each (fun _ _ h0 => ?_) h
  split
  · exact inv_scanArray h0
  · exact h0

theorem inv_takeArea {n : Nat} (h : s.Inv k) : (s.takeArea n).2.Inv k := by
  induction n generalizing s with
  | zero => exact h
  | succ n ih => exact ih (inv_newFrame h)

theorem inv_writeArea {l : Launch} {block : Nat} (h : s.Inv k) : (s.writeArea l block).Inv k :=
  inv_updLaunch (inv_blur (inv_takeArea h))

theorem inv_saveBlock {launch block : Nat} (h : s.Inv k) : (s.saveBlock launch block).Inv k := by
  unfold State.saveBlock
  extract_lets s0 s1 s2
  have h0 : s0.Inv k := inv_each (fun _ _ hu => inv_updGroup (fun _ => rfl) hu) (inv_scanImages h)
  have h1 : s1.Inv k := inv_each (fun _ _ hu => inv_yieldLease (inv_leaveQueues hu)) h0
  have h2 : s2.Inv k := by
    refine inv_leaveCore ?_
    split
    · exact inv_writeArea h1
    · exact h1
  exact inv_updLaunch (s := { s2 with free := s2.free + 32 }) h2

theorem inv_execPreemptSave {launch block : Nat} (h : s.Inv k) : OutInv k (execPreemptSave launch block s) := by
  unfold execPreemptSave
  split
  · exact h
  · split
    · split
      · exact inv_freeze h
      · exact inv_each (fun _ _ h1 => inv_stopSaved h1) (inv_saveBlock h)
    · exact h

theorem inv_execPreemptFlush {launch block : Nat} (h : s.Inv k) : OutInv k (execPreemptFlush launch block s) := by
  unfold execPreemptFlush
  split
  · exact h
  · split
    · split
      · exact inv_freeze h
      · exact inv_flushBlock (inv_each (fun _ _ h2 => inv_leaveDebugger h2) h)
    · exact h

theorem inv_askPod {l : Launch} {ds : List Nat} (h : s.Inv k) : (s.askPod l ds).Inv k := h

theorem inv_podRefused {l : Launch} {j : Job} (h : s.Inv k) : (s.podRefused l j).Inv k := by
  unfold State.podRefused
  dsimp only
  split
  · exact inv_dropJob h
  · exact inv_releasePod h

theorem inv_deskDo {a : DeskAct} (h : s.Inv k) : (s.deskDo a).Inv k := by
  unfold State.deskDo
  split
  · exact inv_reserve h
  · exact inv_askPod h
  · exact inv_podRefused h
  · exact inv_place h
  · exact inv_updLaunch h
  · exact inv_updLaunch h
  · exact inv_preempt h

theorem inv_execBlockPlacement {die : Nat} (h : s.Inv k) : OutInv k (execBlockPlacement die s) := by
  unfold execBlockPlacement
  split
  · exact inv_deskDo h
  · exact h

theorem inv_execPlacementWaitExpiry {launch : Nat} (h : s.Inv k) : OutInv k (execPlacementWaitExpiry launch s) := by
  unfold execPlacementWaitExpiry
  split
  · exact h
  · split
    · exact inv_deskDo h
    · exact h

theorem inv_execBlockResume {launch block : Nat} (h : s.Inv k) : OutInv k (execBlockResume launch block s) := by
  unfold execBlockResume
  split
  · exact h
  · split
    · split
      · exact inv_deskDo h
      · exact h
    · exact h

theorem inv_execPriorityStarvationExpiry {die : Nat} (h : s.Inv k) :
    OutInv k (execPriorityStarvationExpiry die s) := by
  unfold execPriorityStarvationExpiry
  split
  · exact h
  · exact inv_setDie h

/-! ### Power (Machine/Power) -/

theorem inv_setCore {core : Nat} {f : CoreSt → CoreSt} (h : s.Inv k) : (s.setCore core f).Inv k := h

theorem inv_enterCore {core power : Nat} (h : s.Inv k) : (s.enterCore core power).Inv k := inv_setCore h

theorem inv_execPL1Entry {core : Nat} (h : s.Inv k) : OutInv k (execPL1Entry core s) := by
  unfold execPL1Entry
  split
  · exact inv_enterCore h
  · exact h

theorem inv_execPL2Entry {core : Nat} (h : s.Inv k) : OutInv k (execPL2Entry core s) := by
  unfold execPL2Entry
  split
  · exact inv_enterCore h
  · exact h

theorem inv_execPL3Entry {die : Nat} (h : s.Inv k) : OutInv k (execPL3Entry die s) := by
  unfold execPL3Entry
  split
  · exact inv_setDie h
  · exact h

theorem inv_noteTraffic (h : s.Inv k) : s.noteTraffic.Inv k := by
  unfold State.noteTraffic
  split <;> exact h

theorem inv_execPL4Entry (h : s.Inv k) : OutInv k (execPL4Entry s) := by
  unfold execPL4Entry
  split <;> exact h

theorem inv_wakeDevice (h : s.Inv k) : s.wakeDevice.Inv k := by
  unfold State.wakeDevice
  split <;> exact h

theorem inv_wakeDie {die : Nat} (h : s.Inv k) : (s.wakeDie die).Inv k := by
  unfold State.wakeDie
  dsimp only
  split
  · exact inv_setDie (inv_wakeDevice h)
  · exact inv_wakeDevice h

theorem inv_wakeCoreUp {core : Nat} (h : s.Inv k) : (s.wakeCoreUp core).Inv k := by
  unfold State.wakeCoreUp
  dsimp only
  split
  · exact inv_setCore (inv_wakeDie h)
  · exact inv_wakeDie h

theorem inv_execPowerWake {unit : PowerUnit} (h : s.Inv k) : OutInv k (execPowerWake unit s) := by
  unfold execPowerWake
  split
  · exact inv_wakeCoreUp h
  · exact inv_wakeDie h
  · exact inv_wakeDevice h

theorem inv_mboxWrite {v : BitVec 64} (h : s.Inv k) : (s.mboxWrite v).Inv k := by
  unfold State.mboxWrite
  dsimp only
  split <;> exact h

theorem inv_afterWake (h : s.Inv k) : s.afterWake.Inv k := by
  unfold State.afterWake
  dsimp only
  split
  · exact inv_mboxWrite h
  · exact h

theorem inv_execWakeComplete {unit : PowerUnit} (h : s.Inv k) : OutInv k (execWakeComplete unit s) := by
  unfold execWakeComplete
  dsimp only
  split
  · split
    · exact inv_afterWake (inv_setCore h)
    · exact h
  · split
    · exact inv_afterWake (inv_setDie h)
    · exact h
  · split
    · exact inv_afterWake h
    · exact h

/-! ### The host (Machine/Host) -/

theorem inv_hostAccess {i : Instr} {run : State} (h : s.Inv k) (hrun : run.Inv k) : (s.hostAccess i run).Inv k := by
  unfold State.hostAccess
  dsimp only
  split
  · exact inv_later h
  · exact hrun

theorem inv_apertureEnq {q : Nat} (h : s.Inv k) : (s.apertureEnq q).2.Inv k := by
  unfold State.apertureEnq
  dsimp only
  split
  · exact h
  · split
    · exact h
    · exact inv_of_enqAt h ‹_›

theorem inv_execHostApertureEnqueue {queue offset : Nat} {bytes : List (BitVec 8)} (h : s.Inv k) :
    OutInv k (execHostApertureEnqueue queue offset bytes s) := by
  unfold execHostApertureEnqueue
  refine inv_hostAccess h ?_
  dsimp only
  split
  · exact inv_updQueue (inv_apertureEnq (inv_updQueue h))
  · exact inv_updQueue h

theorem inv_execHostMemWrite {pa : Nat} {bytes : List (BitVec 8)} (h : s.Inv k) :
    OutInv k (execHostMemWrite pa bytes s) := by
  unfold execHostMemWrite
  refine inv_hostAccess h ?_
  split
  · exact inv_writeSpans h
  · exact h

theorem inv_settleAll (h : s.Inv k) : s.settleAll.Inv k := inv_each (fun _ _ h1 => inv_settle h1) h

theorem inv_cutBudgets (h : s.Inv k) : s.cutBudgets.Inv k := inv_settleAll h

theorem inv_execPcapWrite {watts : Nat} (h : s.Inv k) : OutInv k (execPcapWrite watts s) := by
  unfold execPcapWrite
  extract_lets s1
  have h1 : s1.Inv k := inv_settleAll h
  clear_value s1
  exact inv_hostAccess h
    (inv_cutBudgets (s := { s1 with host := { s1.host with pcap := max 600 (min 1900 watts) } }) h1)

theorem inv_execMgmtRegisterWrite {register : MgmtReg} {value : BitVec 64} (h : s.Inv k) :
    OutInv k (execMgmtRegisterWrite register value s) := by
  unfold execMgmtRegisterWrite
  dsimp only
  split
  · refine inv_later ?_
    split <;> exact h
  · split
    · exact inv_mboxWrite h
    · exact h

theorem inv_powerUp : s.powerUp.Inv k := (inv_reset : State.reset.Inv k)

theorem inv_execResetWrite {value : BitVec 32} (h : s.Inv k) : OutInv k (execResetWrite value s) := by
  unfold execResetWrite
  refine inv_hostAccess h ?_
  split
  · exact inv_powerUp
  · exact h

theorem inv_mchkCtx {later : Bool} {ctx : Nat} (h : s.Inv k) : (s.mchkCtx later ctx).Inv k := by
  unfold State.mchkCtx
  dsimp only
  split
  · exact inv_updGroup (fun _ => rfl) h
  · refine inv_later ?_
    split
    · exact h
    · exact inv_updCtx (inv_countRel (inv_updGroup (fun _ => rfl) (inv_emitFor h)))

theorem inv_dieOff {die : Nat} (h : s.Inv k) : (s.dieOff die).Inv k := inv_setDie h

theorem inv_execJunctionTemperatureChange {die celsius : Nat} (h : s.Inv k) :
    OutInv k (execJunctionTemperatureChange die celsius s) := by
  unfold execJunctionTemperatureChange
  extract_lets s1 v s2
  have hs1 : s1.Inv k := inv_settleAll h
  have hs2 : s2.Inv k := hs1
  split
  · exact inv_later (inv_cutBudgets hs2)
  · exact inv_cutBudgets hs2

theorem State.Inv.poisoned {p : BMap 1} (h : s.Inv k) : ({ s with poison := p } : State).Inv k := h

theorem inv_execScrub {line : Nat} {seen corrected : List (BitVec 8)} (h : s.Inv k) :
    OutInv k (execScrub line seen corrected s) := by
  have hp (p : BMap 1) : (({ s with poison := p } : State).countRel 2 1).Inv k := inv_countRel h.poisoned
  unfold execScrub OutInv
  dsimp only
  split
  · exact h
  · split
    · exact hp _
    · split
      · exact inv_countRel h
      · exact h

/-- A change of the groups that are there, which leaves their faces. -/
theorem State.Inv.mapPresent {f : Group → Group} (h : s.Inv k) (hf : ∀ g, (f g).face = g.face) :
    ({ s with g := if s.g.present then f s.g else s.g, others := s.others.map f } : State).Inv k := by
  refine h.mapGroups ?_ hf
  split
  · exact hf _
  · rfl

/-! ### Translation (Machine/Xlate) -/

theorem inv_leaveAll {t : Translation} (h : s.Inv k) : (s.leaveAll t).Inv k := by
  unfold State.leaveAll
  extract_lets out
  have hout (g : Group) : (out g).face = g.face := by
    unfold out
    split
    · exact Group.face_discard
    · rfl
  exact h.mapPresent hout

theorem inv_withdraw {t : Translation} (h : s.Inv k) : (s.withdraw t).Inv k := inv_leaveAll h

theorem inv_withdrawRange {ctx start len : Nat} (h : s.Inv k) : (s.withdrawRange ctx start len).Inv k :=
  inv_each (fun _ _ h1 => inv_withdraw h1) h

theorem inv_execIcinvComplete {id : Nat} (h : s.Inv k) : OutInv k (execIcinvComplete id s) := by
  unfold execIcinvComplete
  dsimp only
  split
  · exact h
  · exact inv_updGroup (fun _ => rfl) (inv_withdrawRange h)

theorem inv_pruneOlds (h : s.Inv k) : s.pruneOlds.Inv k := h

theorem inv_reclaim {need : Nat} (h : s.Inv k) : (s.reclaim need).Inv k := by
  unfold State.reclaim
  refine inv_each (fun _ _ h0 => ?_) ?_
  · split
    · exact h0
    · exact inv_withdraw h0
  · refine inv_each (fun _ _ h1 => ?_) h
    split <;> exact h1

theorem inv_xlatFault {who : GRef} {aux : Nat} (h : s.Inv k) : (s.xlatFault who aux).Inv k := by
  unfold State.xlatFault
  split
  · exact h
  · exact inv_takeTrap (inv_refocus h)

theorem inv_place_ {t : Translation} (h : s.Inv k) : (s.place_ t).Inv k := by
  unfold State.place_
  extract_lets key mine old new news blocks resume
  have hresume (g : Group) : (resume g).face = g.face := by
    unfold resume
    split <;> rfl
  exact h.mapPresent hresume

theorem inv_touchCode {t : Translation} (h : s.Inv k) : (s.touchCode t).Inv k :=
  inv_countHints (inv_each (fun _ _ h2 => inv_touchPages h2) h)

theorem inv_install {t : Translation} (h : s.Inv k) : (s.install t).Inv k := by
  unfold State.install
  dsimp only
  split
  · exact inv_pruneOlds h
  · split
    · split
      · exact inv_each (fun _ _ h1 => inv_xlatFault h1) (inv_pruneOlds h)
      · exact inv_touchCode (inv_place_ (inv_pruneOlds h))
    · split
      · exact inv_each (fun _ _ h1 => inv_xlatFault h1) (inv_reclaim (inv_pruneOlds h))
      · exact inv_touchCode (inv_place_ (inv_reclaim (inv_pruneOlds h)))

theorem inv_translate {ctx entry : Nat} {xchk : Bool} (h : s.Inv k) : (s.translate ctx xchk entry).Inv k := by
  have hresume (t : Translation) (g : Group) :
      (if waitsFor t g then { g with pend := .idle, stall := .none } else g).face = g.face := by
    split <;> rfl
  unfold State.translate
  split
  · refine h.mapGroups ?_ (hresume _)
    split <;> rfl
  · split
    · exact inv_touchCode (h.mapPresent (hresume _))
    · exact inv_touchCode (inv_place_ h)

theorem inv_execTranslationStubCall {who : GRef} {callee : Nat} (h : s.Inv k) :
    OutInv k (execTranslationStubCall who callee s) := by
  unfold execTranslationStubCall
  split
  · exact h
  · exact inv_translate h

theorem inv_execXlatTimeout {who : GRef} (h : s.Inv k) : OutInv k (execXlatTimeout who s) := by
  unfold execXlatTimeout
  split
  · exact h
  · split
    · split
      · exact inv_xlatFault h
      · exact h
    · exact h

theorem inv_execHotRetranslation {id : Nat} (h : s.Inv k) : OutInv k (execHotRetranslation id s) := by
  unfold execHotRetranslation
  dsimp only
  split
  · exact inv_setProfile h
  · split
    · exact inv_setProfile h
    · exact h

/-! ### Messages of other devices (Machine/Remote) -/

theorem inv_ackAll {m r : Msg} (h : s.Inv k) : (s.ackAll m r).Inv k := inv_each (fun _ _ h1 => inv_post h1) h

theorem inv_replyAll {m r : Msg} (h : s.Inv k) : (s.replyAll m r).Inv k := by
  unfold State.replyAll
  split
  · exact inv_ackAll h
  · exact inv_post h

theorem inv_serve {m : Msg} {again : Instr} {f : State → Except Trap State} (h : s.Inv k)
    (hf : ∀ u, u.Inv k → Res (fun _ => True) (State.Inv k) (f u)) : (s.serve m again f).Inv k := by
  unfold State.serve
  extract_lets away
  have haway (t : Trap) : (away t).Inv k := inv_replyAll h
  clear_value away
  split
  · exact haway _
  · split
    · exact inv_later (inv_replyAll h)
    · split
      · exact h
      · split
        · next e => exact (hf s h).ok e
        · split
          · exact inv_askMap h
          · exact haway _

theorem inv_accessed {m : Msg} {l : List Acc} (h : s.Inv k) : (s.accessed m l).Inv k := h

theorem inv_execRd {m : Msg} (h : s.Inv k) : OutInv k (execRd m s) := by
  unfold execRd
  refine inv_serve h (fun _ h0 => ?_)
  dsimp only
  split
  · trivial
  · exact inv_post (inv_accessed (inv_touchAll h0))

theorem inv_execWr {m : Msg} (h : s.Inv k) : OutInv k (execWr m s) := by
  unfold execWr
  refine inv_serve h (fun _ h0 => ?_)
  dsimp only
  split
  · trivial
  · refine inv_post ?_
    refine inv_accessed ?_
    split
    · exact inv_each (fun _ _ h1 => inv_writeSpans (inv_touch h1)) h0
    · exact inv_putMarks (inv_each (fun _ _ h2 => inv_writeSpans (inv_touch h2)) h0)

theorem inv_execStfMessage {m : Msg} (h : s.Inv k) : OutInv k (execStfMessage m s) := by
  unfold execStfMessage
  refine inv_serve h (fun _ h0 => ?_)
  dsimp only
  split
  · trivial
  · refine inv_post ?_
    split
    · exact inv_bumpFlag (inv_touch (inv_each (fun _ _ h3 => inv_writeSpans (inv_touch h3)) h0))
    · exact h0

theorem inv_execAtom {m : Msg} (h : s.Inv k) : OutInv k (execAtom m s) := by
  unfold execAtom
  refine inv_serve h (fun _ h0 => ?_)
  dsimp only
  split
  · trivial
  · split
    · exact inv_post (inv_atomics (inv_accessed (inv_touch h0)))
    · split
      · exact inv_ackAll (inv_accessed (inv_writeSpans (inv_touch h0)))
      · exact inv_post (inv_accessed (inv_writeSpans (inv_touch h0)))

theorem inv_execFaorMessage {m : Msg} (h : s.Inv k) : OutInv k (execFaorMessage m s) := by
  unfold execFaorMessage
  refine inv_serve h (fun _ h0 => ?_)
  dsimp only
  split
  · trivial
  · split
    · trivial
    · split
      · trivial
      · exact inv_each (fun _ _ h1 => inv_joinSet h1) (inv_touch h0)

theorem inv_execRing {m : Msg} (h : s.Inv k) : OutInv k (execRing m s) := by
  refine inv_serve h fun u hu => ?_
  extract_lets lane acc
  have ht := inv_touch (a := acc) hu
  clear_value acc
  split
  · trivial
  · extract_lets pa at_ r
    clear_value pa
    split
    · split
      · trivial
      · next e => exact inv_post (inv_of_enqAt ht (orLate_eq_ok e))
    · split
      · exact inv_post ht
      · split
        · trivial
        · next e => exact inv_post (inv_of_deqAt ht (orLate_eq_ok e))

theorem inv_pinFor {m : Msg} {l : List Acc} (h : s.Inv k) : (s.pinFor m l).Inv k := by
  unfold State.pinFor
  dsimp only
  split <;> exact h

theorem inv_execCheckMessage {m : Msg} (h : s.Inv k) : OutInv k (execCheckMessage m s) := by
  unfold execCheckMessage
  refine inv_serve h (fun _ h0 => ?_)
  dsimp only
  split
  · trivial
  · split
    · trivial
    · exact inv_post (inv_pinFor h0)

theorem inv_dropSend {who : GRef} {index : Nat} (h : s.Inv k) : (s.dropSend who index).Inv k :=
  inv_updGroup (fun _ => rfl) h

theorem inv_recallSend {who : GRef} {index : Nat} (h : s.Inv k) : (s.recallSend who index).Inv k := h

theorem inv_failSend {who : GRef} {o : SendOut} (h : s.Inv k) : (s.failSend who o).Inv k :=
  inv_updGroup (fun _ => rfl) (inv_dropSend (inv_recallSend h))

theorem inv_execSack {m : Msg} (h : s.Inv k) : OutInv k (execSack m s) := by
  unfold execSack
  split
  · exact h
  · split
    · exact inv_dropSend h
    · exact inv_updGroup (fun _ => rfl) h
    · exact inv_failSend h

theorem inv_execSendRetry {who : GRef} {index : Nat} (h : s.Inv k) : OutInv k (execSendRetry who index s) := by
  unfold execSendRetry
  split
  · exact h
  · split
    · exact h
    · exact inv_trySend (inv_updGroup (fun _ => rfl) h)

theorem inv_execSendTimeout {who : GRef} {index : Nat} (h : s.Inv k) : OutInv k (execSendTimeout who index s) := by
  unfold execSendTimeout
  split
  · exact h
  · split
    · exact inv_failSend h
    · exact h

theorem Group.face_mapReqs {g : Group} {f : List ReqOut → List ReqOut} : (g.mapReqs f).face = g.face := by
  unfold Group.mapReqs
  split <;> rfl

theorem inv_mapReqs {f : List ReqOut → List ReqOut} (h : s.Inv k) : (s.mapReqs f).Inv k :=
  h.mapPresent fun _ => Group.face_mapReqs

theorem inv_answer {tag : Nat} {f : ReqOut → Answer} (h : s.Inv k) : (s.answer tag f).Inv k := inv_mapReqs h

theorem inv_execFaultReply {m : Msg} (h : s.Inv k) : OutInv k (execFaultReply m s) := by
  unfold execFaultReply
  split
  · split
    · exact h
    · exact inv_failSend h
  · exact inv_answer h

theorem inv_execXpkg {p : Package} (h : s.Inv k) : OutInv k (execXpkg p s) := by
  unfold execXpkg
  refine inv_serve h (fun _ h0 => ?_)
  refine inv_post ?_
  split
  · exact inv_install h0
  · exact h0

theorem inv_podReserve {m : Msg} (h : s.Inv k) : (s.podReserve m).Inv k := by
  unfold State.podReserve
  dsimp only
  split
  · exact inv_post h
  · split
    · exact inv_post h
    · exact inv_post (inv_takeRes h)

theorem inv_podRelease {key : Nat} (h : s.Inv k) : (s.podRelease key).Inv k := h

theorem inv_execTileMessage {m : Msg} (h : s.Inv k) : OutInv k (execTileMessage m s) := by
  unfold execTileMessage
  split
  · exact inv_podRelease h
  · split
    · exact inv_answer h
    · refine inv_serve h (fun _ h2 => ?_)
      split
      · exact inv_podReserve h2
      · split
        · exact h2
        · exact inv_startJob h2

/-! ### Links (Machine/Links) -/

theorem inv_setElem {e : Nat} {x : Elem} (h : s.Inv k) : (s.setElem e x).Inv k := h

theorem inv_takeMsg {m : Msg} (h : s.Inv k) : (s.takeMsg m).Inv k := by
  unfold State.takeMsg
  dsimp only
  split <;> exact h

theorem inv_arrives {m : Msg} (h : s.Inv k) : (s.arrives m).Inv k := by
  unfold State.arrives
  split
  · exact inv_later h
  · exact h

theorem inv_sendBack {e port : Nat} {m : Msg} (h : s.Inv k) : (s.sendBack e port m).Inv k := by
  unfold State.sendBack
  split
  · exact inv_arrives h
  · exact inv_setElem h

theorem inv_refuse {e port : Nat} {m : Msg} (h : s.Inv k) : (s.refuse e port m).Inv k := by
  unfold State.refuse
  dsimp only
  split
  · exact h
  · split
    · exact inv_ackAll h
    · exact inv_sendBack h

theorem inv_execRequestForward {element port : Nat} {m : Msg} (h : s.Inv k) :
    OutInv k (execRequestForward element port m s) := by
  unfold execRequestForward
  dsimp only
  split
  · exact h
  · split
    · exact inv_refuse (inv_takeMsg h)
    · split
      · exact inv_arrives (inv_takeMsg h)
      · split
        · exact inv_refuse (inv_takeMsg h)
        · exact inv_setElem (inv_takeMsg h)

theorem inv_back {element : Nat} {m : Msg} (h : s.Inv k) : (s.back element m).Inv k := by
  unfold State.back
  split
  · exact inv_arrives h
  · exact inv_sendBack h

theorem inv_execReplyRetrace {element : Nat} {m : Msg} (h : s.Inv k) : OutInv k (execReplyRetrace element m s) := by
  unfold execReplyRetrace
  dsimp only
  split
  · exact h
  · exact inv_each (fun _ _ h1 => inv_back h1) (inv_setElem (inv_takeMsg h))

theorem inv_setLink {n : Nat} {l : Link} (h : s.Inv k) : (s.setLink n l).Inv k := h

theorem inv_acceptFlit {n : Nat} {l : Link} {f : Flit} (h : s.Inv k) : (s.acceptFlit n l f).Inv k := by
  unfold State.acceptFlit
  dsimp only
  split
  · exact inv_later (inv_setLink h)
  · split
    · exact inv_setLink h
    · split
      · exact inv_setLink h
      · exact inv_later (inv_setLink h)

theorem inv_dropPort {e p : Nat} (h : s.Inv k) : (s.dropPort e p).Inv k := inv_setElem h

theorem inv_portDown {n : Nat} (h : s.Inv k) : (s.portDown n).Inv k := by
  unfold State.portDown
  dsimp only
  split
  · exact inv_dropPort (inv_dropPort h)
  · exact inv_dropPort h

theorem inv_linkDown {n : Nat} {security : Bool} (h : s.Inv k) : (s.linkDown n security).Inv k :=
  inv_portDown (inv_setLink h)

theorem inv_execFlitReceive {link : Nat} {flit : Flit} (h : s.Inv k) : OutInv k (execFlitReceive link flit s) := by
  unfold execFlitReceive
  dsimp only
  split
  · exact h
  · split
    · exact inv_setLink h
    · split
      · split
        · exact inv_linkDown (inv_setLink h)
        · exact inv_setLink h
      · split
        · exact inv_setLink h
        · split
          · exact inv_setLink h
          · exact inv_acceptFlit h

theorem inv_applyPolicy {n : Nat} (h : s.Inv k) : (s.applyPolicy n).Inv k := by
  unfold State.applyPolicy
  dsimp only
  split
  · exact h
  · split
    · split
      · exact inv_setLink h
      · exact h
    · exact inv_linkDown h

theorem inv_feedLink {s0 : State} {n : Nat} (h : s0.Inv k) : (s0.feedLink n).Inv k := by
  unfold State.feedLink
  dsimp only
  split
  · exact inv_applyPolicy h
  · split
    · exact inv_setLink (inv_setElem (inv_applyPolicy h))
    · split
      · exact inv_setLink (inv_applyPolicy h)
      · exact inv_applyPolicy h

theorem inv_feedLinks (h : s.Inv k) : s.feedLinks.Inv k := inv_each (fun _ _ h1 => inv_feedLink h1) h

theorem inv_execLinkRetrain {link : Nat} {trained : Option Bool} (h : s.Inv k) :
    OutInv k (execLinkRetrain link trained s) := by
  unfold execLinkRetrain
  dsimp only
  split
  · split
    · exact inv_setLink h
    · exact h
  · exact inv_setLink h
  · exact inv_linkDown h

theorem inv_rotateKeys {n : Nat} (h : s.Inv k) : (s.rotateKeys n).Inv k := inv_setLink h

theorem inv_execMgmt {b : MgmtBody} (h : s.Inv k) : OutInv k (execMgmt b s) := by
  unfold execMgmt
  dsimp only
  split
  · exact inv_setElem h
  · split
    · exact h
    · split
      · split
        · exact inv_setLink h
        · exact h
      · split
        · exact inv_setLink h
        · exact h
  · exact h
  · exact inv_applyPolicy (inv_setLink h)
  · split
    · exact inv_rotateKeys h
    · exact h

/-! ### Boot and sessions (Machine/Boot) -/

theorem inv_setBoot {f : Boot → Boot} (h : s.Inv k) : (s.setBoot f).Inv k := h

theorem inv_execBootStage1 {slotA slotB : BootImage} (h : s.Inv k) : OutInv k (execBootStage1 slotA slotB s) := by
  unfold execBootStage1
  dsimp only
  split
  · exact h
  · (repeat' split) <;> exact inv_setBoot h

theorem inv_execBootStage2Complete {runtime translator : BootImage} {setup : BootSetup} (h : s.Inv k) :
    OutInv k (execBootStage2Complete runtime translator setup s) := by
  unfold execBootStage2Complete
  dsimp only
  split
  · exact h
  · split
    · exact inv_needCtx h
    · exact inv_setBoot h

theorem inv_spdm {a : SpdmAnswer} (h : s.Inv k) : (s.spdm a).Inv k := inv_setBoot h

theorem inv_noted {l : List Nat} (h : s.Inv k) : (s.noted l).Inv k := inv_setBoot h

theorem inv_setSession {x : Session} (h : s.Inv k) : (s.setSession x).Inv k := inv_setBoot h

theorem inv_execKeyExchange {session : Nat} (h : s.Inv k) : OutInv k (execKeyExchange session s) := by
  unfold execKeyExchange
  dsimp only
  split
  · exact inv_spdm h
  · exact inv_spdm (inv_setBoot h)

theorem inv_secured {at_ : InSession} {l : List Nat} {f : State → Session → Option State} (h : s.Inv k)
    (hf : ∀ a0 a1, a0.Inv k → Opt (State.Inv k) (f a0 a1)) : (s.secured at_ l f).Inv k := by
  unfold State.secured
  dsimp only
  split
  · exact inv_spdm h
  · split
    · exact inv_spdm h
    · exact inv_setBoot (inv_spdm (inv_getD (hf _ _ (inv_setSession h)) (inv_setSession h)))

theorem inv_execFinish {at_ : InSession} (h : s.Inv k) : OutInv k (execFinish at_ s) := by
  unfold execFinish
  refine inv_secured h (fun _ _ h0 => ?_)
  split
  · trivial
  · exact inv_setSession h0

theorem inv_execKeyUpdate {at_ : InSession} {link : Option Nat} (h : s.Inv k) :
    OutInv k (execKeyUpdate at_ link s) := by
  unfold execKeyUpdate
  refine inv_secured h (fun _ _ h0 => ?_)
  split
  · trivial
  · split
    · exact inv_setSession h0
    · split
      · exact inv_rotateKeys h0
      · trivial

theorem inv_execTrustDomainLoad {at_ : InSession} {digests : List Nat} (h : s.Inv k) :
    OutInv k (execTrustDomainLoad at_ digests s) := by
  unfold execTrustDomainLoad
  refine inv_secured h (fun _ _ h0 => ?_)
  dsimp only
  split
  · exact inv_setBoot h0
  · trivial

/-! ### The loader (Machine/Loader) -/

theorem inv_offerNative {ctx : Nat} {n : List (BitVec 256) × Option Conc} (h : s.Inv k) :
    (s.offerNative ctx n).Inv k := by
  unfold State.offerNative
  dsimp only
  split
  · exact inv_updCtx h
  · split
    · exact inv_updCtx h
    · split
      · exact inv_install h
      · exact inv_updCtx h

theorem inv_placeObject {ctx : Nat} {l : ObjImage} (h : s.Inv k) : (s.placeObject ctx l).2.Inv k := by
  unfold State.placeObject
  dsimp only
  split
  · exact inv_offerNative (inv_updCtx (inv_each (fun _ _ h1 => inv_placeCtx h1)
      (inv_each (fun _ _ h1 => inv_placeCtx h1) (inv_each (fun _ _ h1 => inv_mapPage h1) h))))
  · exact inv_updCtx (inv_each (fun _ _ h1 => inv_placeCtx h1)
      (inv_each (fun _ _ h1 => inv_placeCtx h1) (inv_each (fun _ _ h1 => inv_mapPage h1) h)))

theorem inv_giveResult {ctx at_ status sec record sym base handle : Nat} (h : s.Inv k) :
    (s.giveResult ctx at_ status sec record sym base handle).Inv k := by
  unfold State.giveResult
  dsimp only
  split
  · exact h
  · exact inv_getD (inv_writeCtx ((inv_writeCtx h).some ‹_›)) ((inv_writeCtx h).some ‹_›)

theorem inv_loaderHead {ctx : Nat} (h : s.Inv k) : Opt (fun x => x.2.Inv k) (s.loaderHead ctx) := by
  unfold State.loaderHead
  split
  · trivial
  · split
    · split
      · trivial
      · exact (inv_recordAt h).some ‹_›
    · trivial

theorem inv_execLoadRequest {ctx : Nat} (h : s.Inv k) : OutInv k (execLoadRequest ctx s) := by
  unfold execLoadRequest
  dsimp only
  split
  · exact h
  · split
    · exact h
    · split
      · exact inv_giveResult ((inv_loaderHead h).some ‹_›)
      · split
        · exact inv_giveResult ((inv_loaderHead h).some ‹_›)
        · split
          · exact inv_giveResult ((inv_loaderHead h).some ‹_›)
          · exact inv_giveResult (inv_placeObject ((inv_loaderHead h).some ‹_›))

theorem inv_restub {ctx : Nat} {defs : List ScopeSym} {g : GotSlot} (h : s.Inv k) :
    (s.restub ctx defs g).2.Inv k := by
  unfold State.restub
  dsimp only
  split
  · exact h
  · split
    · exact inv_placeCtx h
    · exact inv_updCtx (inv_placeCtx h)

theorem inv_restubAll {ctx : Nat} {defs : List ScopeSym} {l : List GotSlot} (h : s.Inv k) :
    (s.restubAll ctx defs l).2.Inv k := by
  induction l generalizing s with
  | nil => exact h
  | cons g t ih => exact ih (inv_restub h)

theorem inv_unload {o : LObject} (h : s.Inv k) : (s.unload o).Inv k :=
  inv_each (fun _ _ h1 => inv_unmapRange h1) (inv_withdrawRange (inv_each (fun _ _ h3 => inv_restubAll h3) h))

theorem inv_execUnloadRequest {ctx : Nat} (h : s.Inv k) : OutInv k (execUnloadRequest ctx s) := by
  unfold execUnloadRequest
  split
  · exact h
  · split
    · exact h
    · split
      · exact inv_giveResult ((inv_loaderHead h).some ‹_›)
      · exact inv_giveResult (inv_unload ((inv_loaderHead h).some ‹_›))

theorem face_moveOn {ctx stub to_ : Nat} (g : Group) : (moveOn ctx stub to_ g).face = g.face := by
  unfold moveOn
  split <;> rfl

theorem inv_execBind {ctx index : Nat} (h : s.Inv k) : OutInv k (execBind ctx index s) := by
  unfold execBind OutInv
  dsimp only
  split
  · exact inv_each (fun _ _ hu => inv_faultHere (inv_refocus hu)) h
  · split
    · exact inv_each (fun _ _ hu => inv_takeTrap (inv_refocus hu)) h
    · split
      · exact h
      · next g _ _ v _ _ =>
        have h1 : (if s.slotHolds ctx g (stubOf index) = true then s.placeCtx ctx g.addr (bytesOf v 8)
            else s).Inv k := by
          split
          · exact inv_placeCtx h
          · exact h
        exact h1.mapPresent face_moveOn

/-! ### The profiler (Machine/Prof) -/

theorem inv_profOn {q : ProfReq} {r : Option State} (h : s.Inv k) (hr : Opt (State.Inv k) r) :
    (s.profOn q r).Inv k := by
  unfold State.profOn
  split
  · exact inv_writeResult hr
  · exact inv_writeResult h

theorem inv_setProf {ctx : Nat} {f : ProfCfg → ProfCfg} (h : s.Inv k) : (s.setProf ctx f).Inv k := h

theorem State.Inv.traced {tr : Trace} (h : s.Inv k) : ({ s with trace := tr } : State).Inv k := h

theorem inv_alignSamples {p : Nat → Nat → Bool} (h : s.Inv k) : (s.alignSamples p).Inv k := by
  unfold State.alignSamples
  dsimp only
  split
  · exact h
  · exact h.traced

theorem inv_realign {old : State} (h : s.Inv k) : (s.realign old).Inv k := by
  unfold State.realign
  split
  · exact h
  · exact inv_alignSamples h

theorem inv_alignEmpty (h : s.Inv k) : s.alignEmpty.Inv k := by
  unfold State.alignEmpty
  dsimp only
  split
  · exact h
  · exact inv_alignSamples h

theorem inv_execProfSample {q : ProfReq} (h : s.Inv k) : OutInv k (execProfSample q s) := by
  unfold execProfSample
  refine inv_profOn h ?_
  split
  · exact inv_realign (inv_setProf h)
  · split
    · exact inv_realign (inv_setProf h)
    · trivial

theorem inv_execProfTypes {q : ProfReq} (h : s.Inv k) : OutInv k (execProfTypes q s) := by
  unfold execProfTypes
  refine inv_profOn h ?_
  split
  · exact inv_setProf h
  · trivial

theorem inv_execProfFilter {q : ProfReq} (h : s.Inv k) : OutInv k (execProfFilter q s) := inv_profOn h (inv_setProf h)

theorem inv_execProfPort {q : ProfReq} (h : s.Inv k) : OutInv k (execProfPort q s) := inv_profOn h (inv_setProf h)

theorem inv_execArraytot {q : ProfReq} (h : s.Inv k) : OutInv k (execArraytot q s) := by
  unfold execArraytot
  refine inv_profOn h ?_
  split
  · exact inv_writeFields h
  · trivial

theorem inv_execArrayclr {q : ProfReq} (h : s.Inv k) : OutInv k (execArrayclr q s) := by
  unfold execArrayclr
  refine inv_profOn h ?_
  dsimp only
  split
  · exact h
  · trivial

theorem inv_execPcSample {core part : Nat} (h : s.Inv k) : OutInv k (execPcSample core part s) := by
  unfold execPcSample
  dsimp only
  split
  · exact h
  · split
    · exact h
    · exact inv_emitFor h

theorem inv_execTracePortSend (h : s.Inv k) : OutInv k (execTracePortSend s) := by
  unfold execTracePortSend
  dsimp only
  split
  · exact h
  · exact inv_flushDrop h

/-! ### Processes (Machine/Process) -/

theorem Group.face_grown {g : Group} {granted : Bool} {perLane : Nat} : (g.grown granted perLane).face = g.face := by
  unfold Group.grown
  dsimp only
  split <;> rfl

/-! ### Dumps and the end of a context (Machine/Dump) -/

theorem face_stopFor {ctx : Nat} (g : Group) : (stopFor ctx g).face = g.face := by
  unfold stopFor
  split <;> rfl

theorem Group.Inv.restart {l : Launch} {g : Group} (h : g.Inv k) : (g.restart l).Inv k := by
  cases k
  · trivial
  all_goals exact h

theorem wf_foldl_set {l : List (Nat × BitVec 8)} {m : BMap 8} (h : Memory.wf m = true) :
    Memory.wf (l.foldl (fun m b => BMap.set m b.1 b.2) m) = true := by
  induction l generalizing m with
  | nil => exact h
  | cons b l ih => exact ih (BMap.wf_set h _ _)

theorem inv_execPrivateGrowth {who : GRef} {granted : Bool} {ptes : List (Nat × BitVec 64)} {perLane : Nat}
    (h : s.Inv k) : OutInv k (execPrivateGrowth who granted ptes perLane s) := by
  unfold execPrivateGrowth
  split
  · exact h
  · split
    · exact h
    · refine inv_updGroup (fun _ => Group.face_grown) ?_
      split
      · exact inv_writePtes h
      · exact h

theorem inv_placeMap {ctx page : Nat} (h : s.Inv k) : (s.placeMap ctx page).Inv k := inv_placeCtx (inv_mapPage h)

theorem inv_pageBack {ctx page : Nat} {ptes : List (Nat × BitVec 64)} {bytes : List (Nat × BitVec 8)} (h : s.Inv k) :
    (s.pageBack ctx page ptes bytes).Inv k := by
  unfold State.pageBack
  extract_lets s1 placed s2 mine
  have h1 : s1.Inv k := h.withMem wf_foldl_set
  have hp : placed.Inv k := by
    unfold placed
    split
    · exact inv_placeMap h
    · exact inv_writePtes h1
  have h2 : s2.Inv k := inv_updCtx hp
  clear_value s2
  exact inv_each (fun _ _ hu => inv_later hu) (s := { s2 with pageWaits := s2.pageWaits.filter fun x => !mine x }) h2

theorem inv_execNonresidentPageService {who : GRef} {granted : Bool} {ptes : List (Nat × BitVec 64)}
    {bytes : List (Nat × BitVec 8)} (h : s.Inv k) :
    OutInv k (execNonresidentPageService who granted ptes bytes s) := by
  unfold execNonresidentPageService
  extract_lets far
  have hfar : (far s).Inv k := by
    unfold far
    split
    · exact h
    · split
      · exact inv_pageBack h
      · next x _ _ =>
        have h1 : (State.afterWait { s with pageWaits := s.pageWaits.erase x } x).Inv k := inv_afterWait h
        dsimp only
        split
        · exact inv_later h1
        · exact inv_dropJob (inv_post h1)
        · exact inv_post h1
  clear_value far
  refine (?_ : State.Inv k _)
  split
  · exact hfar
  · split
    · split
      · exact h
      · split
        · exact inv_updGroup (fun _ => rfl) (inv_pageBack h)
        · exact inv_updGroup (fun _ => rfl) h
    · exact hfar

theorem inv_execMappingChange {ctx : Nat} {ptes : List (Nat × BitVec 64)} {nonresident : List Nat} (h : s.Inv k) :
    OutInv k (execMappingChange ctx ptes nonresident s) := by
  unfold execMappingChange
  dsimp only
  split
  · split <;> exact h
  · exact inv_each (fun _ _ h1 => h1) (inv_writePtes h)

theorem inv_closeQueues {ctx : Nat} (h : s.Inv k) : (s.closeQueues ctx).Inv k :=
  inv_each (fun _ _ h1 => inv_updQueue (inv_writeCb (inv_updQueue h1))) h

theorem inv_dropLaunches {ctx : Nat} (h : s.Inv k) : (s.dropLaunches ctx).Inv k :=
  inv_roomAgain (inv_each (fun _ _ h2 => inv_setDie h2) (inv_each (fun _ _ h3 => inv_freeLaunch h3) h))

theorem inv_dropGroups {ctx : Nat} (h : s.Inv k) : (s.dropGroups ctx).Inv k := by
  unfold State.dropGroups
  extract_lets gs names mine s1
  have h1 : s1.Inv k := inv_each (fun _ _ hu => inv_leaveCore (inv_releaseLease (inv_leaveQueues hu))) (inv_idleFrom h)
  clear_value s1
  exact h1.withoutGroups (fun g => g.p.ctx == ctx) (s1.g.p.ctx = ctx)

theorem inv_endContext {ctx : Nat} (h : s.Inv k) : (s.endContext ctx).Inv k := by
  unfold State.endContext
  extract_lets areas s0 s1 s2 ended gone s3 tr
  have h1 : s1.Inv k := inv_dropGroups (inv_dropLaunches (inv_closeQueues (s := s0) h))
  clear_value s1
  have h2 : s2.Inv k := inv_each (fun _ _ hu => inv_withdraw hu) h1
  clear_value s2 gone
  have h3 : s3.Inv k := inv_each (fun _ _ hu => inv_afterWait hu)
    (s := { s2 with pageWaits := s2.pageWaits.filter fun x => x.msg.ctx != ctx }) h2
  clear_value s3 tr ended
  exact inv_realign (h3.mix h3 h3)

theorem inv_moveLog {ctx : Nat} {old new : RLog} (h : s.Inv k) : (s.moveLog ctx old new).Inv k :=
  inv_placeCtx (inv_mapRange h)

theorem inv_execReplayLogExtend {who : GRef} {granted : Bool} (h : s.Inv k) :
    OutInv k (execReplayLogExtend who granted s) := by
  unfold execReplayLogExtend
  refine (?_ : State.Inv k _)
  split
  · exact h
  · extract_lets go s1
    have hgo (u : State) (hu : u.Inv k) : (go u).Inv k := inv_updGroup (fun _ => rfl) hu
    have h1 : s1.Inv k := inv_placeCtx h
    clear_value go s1
    split
    · split
      · exact h
      · exact hgo _ (inv_updBlock (inv_moveLog h))
    · exact hgo _ (inv_updBlock h1)

theorem inv_replayEnded {o : OldLog} (h : s.Inv k) : (s.replayEnded o).Inv k := by
  unfold State.replayEnded
  dsimp only
  split
  · split
    · exact h
    · exact inv_updLaunch h
  · exact h

theorem inv_execReplay {launch block : Nat} (h : s.Inv k) : OutInv k (execReplay launch block s) := by
  unfold execReplay OutInv
  dsimp only
  split
  · next l _ _ _ =>
    have hagain (g : Group) (hg : g.Inv k) : (if isOf launch block g then g.restart l else g).Inv k := by
      split
      · exact hg.restart
      · exact hg
    split
    · exact h
    · have h1 := inv_each (todo := s.groupsOf launch block)
        (work := fun s g => (s.leaveQueues g true).releaseLease g.p.core g.p.id)
        (fun _ _ hu => inv_releaseLease (inv_leaveQueues hu)) h
      refine inv_updBlock (h1.withGroups ?_ fun x hx => ?_)
      · split
        · exact .inl (hagain _ (h1.here ‹_›))
        · exact .inr rfl
      · obtain ⟨y, hy, rfl⟩ := List.mem_map.mp hx
        exact hagain y (h1.other y hy)
  · split
    · exact inv_replayEnded h
    · exact h

theorem inv_stopAll {ctx : Nat} (h : s.Inv k) : (s.stopAll ctx).Inv k :=
  inv_updCtx (h.mapGroups (face_stopFor _) face_stopFor)

theorem inv_writeUntil {base : Nat} {l : List Field} (h : s.Inv k) : (s.writeUntil base l).1.Inv k := by
  induction l generalizing s with
  | nil => exact h
  | cons f t ih =>
    unfold State.writeUntil
    split
    · exact h
    · exact ih ((inv_writeCtx h).some ‹_›)

theorem inv_writeDump {c : Ctx} (h : s.Inv k) : (s.writeDump c).Inv k := by
  have hfailed : ({ s.fresh.2 with host := { s.fresh.2.host with mbox := s.fresh.1 } } : State).Inv k := inv_fresh h
  unfold State.writeDump
  dsimp only
  split
  · exact hfailed
  · split
    · exact hfailed
    · exact inv_writeUntil (inv_writeUntil (inv_writeUntil h))

theorem inv_execCoreDump {ctx : Nat} (h : s.Inv k) : OutInv k (execCoreDump ctx s) := by
  unfold execCoreDump
  dsimp only
  split
  · exact h
  · split
    · exact h
    · split
      · exact inv_stopAll h
      · exact inv_endContext (inv_writeDump (inv_stopAll h))

/-- The forms that a group's own code can hold run as `runVirtual` says. -/
theorem exec_eq_of_runVirtual {i : Instr} {o : Out} (e : runVirtual i s = some o) : exec i s = o := by
  unfold runVirtual at e
  split at e <;> cases e <;> rfl

/-! ### Every instruction (Machine/Dispatch) -/

/-- Every instruction, and every step of another agent, keeps the fact. -/
theorem inv_exec {i : Instr} (h : s.Inv k) : OutInv k (exec i s) := by
  cases e : runVirtual i s with
  | some o =>
    rw [exec_eq_of_runVirtual e]
    exact (inv_runVirtual h).some e
  | none =>
    cases i with
    | bfx | bfi | sel => exact inv_issueRegs h
    | hpf | hbr | hhot => exact (inv_hint h : State.Inv k _)
    | pair => exact inv_execPair h
    | unassignedEncoding => exact (inv_stopWith (e := .trap (plainTrap .illop)) h trivial : State.Inv k _)
    | ibset => exact inv_execIbset h
    | xcmp => exact inv_execXcmp h
    | bundleIssue => exact inv_execBundleIssue h
    | resultArrival => exact inv_updGroup (fun _ => rfl) h
    | breakpointHit => exact inv_execBreakpointHit h
    | homeSliceOperation => exact inv_execHomeSliceOperation h
    | waitcTimeout => exact inv_execWaitcTimeout h
    | shelfEntryError => exact inv_unshelve h
    | faorSetTimeout => exact inv_execFaorSetTimeout h
    | remoteCheckReturn => exact inv_execRemoteCheckReturn h
    | engineOperationComplete => exact inv_execEngineOperationComplete h
    | tileChildComplete => exact inv_execTileChildComplete h
    | tileChildFault => exact inv_execTileChildFault h
    | leaseTenureEnd => exact inv_execLeaseTenureEnd h
    | icinvComplete => exact inv_execIcinvComplete h
    | translationStubCall => exact inv_execTranslationStubCall h
    | xlatTimeout => exact inv_execXlatTimeout h
    | hotRetranslation => exact inv_execHotRetranslation h
    | translatorKernelStart => exact inv_execTranslatorKernelStart h
    | bind => exact inv_execBind h
    | loadRequest => exact inv_execLoadRequest h
    | unloadRequest => exact inv_execUnloadRequest h
    | privateGrowth => exact inv_execPrivateGrowth h
    | nonresidentPageService => exact inv_execNonresidentPageService h
    | mappingChange => exact inv_execMappingChange h
    | contextEnd => exact inv_endContext h
    | coreDump => exact inv_execCoreDump h
    | replayLogExtend => exact inv_execReplayLogExtend h
    | deviceQueueWake => exact inv_execDeviceQueueWake h
    | counterWatchWake => exact inv_onceAwake h (inv_each (fun _ _ h2 => inv_checkReady h2) h)
    | blockPlacement => exact inv_execBlockPlacement h
    | placementWaitExpiry => exact inv_execPlacementWaitExpiry h
    | priorityStarvationExpiry => exact inv_execPriorityStarvationExpiry h
    | runtimePreemptRequest => exact inv_preempt h
    | drainBoundExpiry => exact inv_execDrainBoundExpiry h
    | preemptSave => exact inv_execPreemptSave h
    | preemptFlush => exact inv_execPreemptFlush h
    | blockResume => exact inv_execBlockResume h
    | launchComplete => exact inv_execLaunchComplete h
    | completionActionRetry => exact inv_finishLaunch h
    | pL1Entry => exact inv_execPL1Entry h
    | pL2Entry => exact inv_execPL2Entry h
    | pL3Entry => exact inv_execPL3Entry h
    | pL4Entry => exact inv_execPL4Entry h
    | powerWake => exact inv_execPowerWake h
    | hostApertureEnqueue => exact inv_execHostApertureEnqueue h
    | hostMemWrite => exact inv_execHostMemWrite h
    | hostMemRead => exact inv_hostAccess h h
    | pcapWrite => exact inv_execPcapWrite h
    | resetWrite => exact inv_execResetWrite h
    | mgmtRegisterWrite => exact inv_execMgmtRegisterWrite h
    | getVersion | negotiateAlgorithms => exact inv_spdm (inv_noted (inv_setBoot h))
    | getCapabilities => exact inv_spdm (inv_noted h)
    | getDigests | getCertificate | challenge | getMeasurements => exact inv_spdm h
    | keyExchange => exact inv_execKeyExchange h
    | finish => exact inv_execFinish h
    | keyUpdate => exact inv_execKeyUpdate h
    | endSession => exact inv_secured h (fun _ _ h1 => inv_setBoot h1)
    | trustDomainLoad => exact inv_execTrustDomainLoad h
    | powerOnReset => exact (inv_powerUp : State.Inv k _)
    | bootStage1 => exact inv_execBootStage1 h
    | bootStage2Complete => exact inv_execBootStage2Complete h
    | scrub => exact inv_execScrub h
    | dieStateError => exact inv_dieOff (inv_each (fun _ _ h2 => inv_mchkCtx h2) h)
    | thermalShutdown => exact inv_each (fun _ _ h1 => inv_dieOff h1) (inv_each (fun _ _ h2 => inv_mchkCtx h2) h)
    | dbgStop => exact inv_execDbgStop h
    | dbgResume => exact inv_execDbgResume h
    | dbgStep => exact inv_execDbgStep h
    | setbp => exact inv_execSetbp h
    | setwp => exact inv_execSetwp h
    | dbgRead => exact inv_execDbgRead h
    | dbgWrite => exact inv_execDbgWrite h
    | detach => exact inv_execDetach h
    | profSample => exact inv_execProfSample h
    | profTypes => exact inv_execProfTypes h
    | profFilter => exact inv_execProfFilter h
    | arraytot => exact inv_execArraytot h
    | arrayclr => exact inv_execArrayclr h
    | profPort => exact inv_execProfPort h
    | pcSample => exact inv_execPcSample h
    | tracePortSend => exact inv_execTracePortSend h
    | flitReceive => exact inv_execFlitReceive h
    | lnak => exact inv_countRel (inv_setLink h)
    | linkRetrain => exact inv_execLinkRetrain h
    | requestForward => exact inv_execRequestForward h
    | replyRetrace => exact inv_execReplyRetrace h
    | waitBufferTimeout => exact inv_setElem h
    | rd => exact inv_execRd h
    | wr => exact inv_execWr h
    | stfMessage => exact inv_execStfMessage h
    | atom => exact inv_execAtom h
    | faorMessage => exact inv_execFaorMessage h
    | ring => exact inv_execRing h
    | checkMessage => exact inv_execCheckMessage h
    | tileMessage => exact inv_execTileMessage h
    | xpkg => exact inv_execXpkg h
    | data | done | value => exact inv_answer h
    | faultReply => exact inv_execFaultReply h
    | wake => exact inv_updGroup (fun _ => rfl) (inv_mapReqs h)
    | sack => exact inv_execSack h
    | sendMessage => exact inv_serve h (fun _ h1 => inv_post (inv_offer h1))
    | sendRetry => exact inv_execSendRetry h
    | sendTimeout => exact inv_execSendTimeout h
    | fabricReplyTimeout => exact inv_mapReqs h
    | mgmt => exact inv_execMgmt h
    | null => exact inv_setLink h
    | svcSleepExpiry => exact inv_execSvcSleepExpiry h
    | translationInstall => exact inv_install h
    | wakeComplete => exact inv_execWakeComplete h
    | junctionTemperatureChange => exact inv_execJunctionTemperatureChange h
    | queueAllotment => exact inv_execQueueAllotment h
    | replayLogEnable => exact inv_updLaunch h
    | replay => exact inv_execReplay h
    | _ => cases e

/-- A request of a ring, when it names one, keeps the fact. -/
def Served (k : Facet) (f : State → Out) : Prop := ∀ u : State, u.Inv k → OutInv k (f u)

/-! ### The runtime's requests (Machine/Service) -/

theorem inv_dbgOp {op : Nat} {q : DbgReq} : Opt (Served k) (dbgOp op q) := by
  unfold dbgOp
  split
  · exact fun _ => inv_execDbgStop
  · exact fun _ => inv_execDbgResume
  · exact fun _ => inv_execDbgStep
  · exact fun _ => inv_execSetbp
  · exact fun _ => inv_execSetwp
  · exact fun _ => inv_execDbgRead
  · exact fun _ => inv_execDbgWrite
  · exact fun _ => inv_execDetach
  · trivial

theorem inv_profOp {op : Nat} {q : ProfReq} : Opt (Served k) (profOp op q) := by
  unfold profOp
  split
  · exact fun _ => inv_execProfSample
  · exact fun _ => inv_execProfTypes
  · exact fun _ => inv_execProfFilter
  · exact fun _ => inv_execArraytot
  · exact fun _ => inv_execArrayclr
  · exact fun _ => inv_execProfPort
  · trivial

theorem inv_performRequest {ctx owner result : Nat} {f : Option (State → Out)} (h : s.Inv k) (hf : Opt (Served k) f) :
    OutInv k (s.performRequest ctx owner result f) := by
  unfold State.performRequest
  split
  · exact inv_writeResult h
  · split
    · exact hf s h
    · exact inv_writeResult h

theorem inv_serveDebug {ctx : Nat} (h : s.Inv k) : Opt (OutInv k) (s.serveDebug ctx) := by
  unfold State.serveDebug
  refine Opt.unless ?_
  split
  · trivial
  · next r s1 e =>
    obtain ⟨c, _, hc⟩ := Option.bind_eq_some_iff.mp e
    have h1 : s1.Inv k := (inv_recordAt h).some hc
    refine Opt.unless (Opt.unless (Opt.of_some (inv_performRequest h1 ?_)))
    split
    · exact inv_dbgOp
    · trivial

theorem inv_serveProfiler {ctx : Nat} (h : s.Inv k) : Opt (OutInv k) (s.serveProfiler ctx) := by
  unfold State.serveProfiler
  split
  · trivial
  · next r s1 e =>
    obtain ⟨c, _, hc⟩ := Option.bind_eq_some_iff.mp e
    have h1 : s1.Inv k := (inv_recordAt h).some hc
    exact Opt.unless (Opt.of_some (inv_performRequest h1 inv_profOp))

theorem inv_serveUnmaps (h : s.Inv k) : Opt (State.Inv k) s.serveUnmaps := Opt.map fun _ => inv_unmapRange h

theorem inv_serveRings (h : s.Inv k) : Opt (OutInv k) s.serveRings := by
  refine Opt.orElse ?_ (Opt.findSome fun c => Opt.orElse (inv_serveDebug h) (inv_serveProfiler h))
  cases e : s.serveUnmaps with
  | none => trivial
  | some t => exact (inv_serveUnmaps h).some e

/-! ### The group that is brought into focus -/

theorem mem_insertBy {α : Type} {le : α → α → Bool} {x y : α} {l : List α} (h : y ∈ insertBy le x l) :
    y = x ∨ y ∈ l := by
  induction l with
  | nil => exact .inl (List.mem_singleton.mp h)
  | cons z t ih =>
    unfold insertBy at h
    split at h
    · rcases List.mem_cons.mp h with rfl | h
      · exact .inr List.mem_cons_self
      · exact (ih h).imp_right (List.mem_cons_of_mem _)
    · exact List.mem_cons.mp h

theorem mem_of_mem_sortBy {α : Type} {le : α → α → Bool} {x : α} {l : List α} (h : x ∈ sortBy le l) : x ∈ l := by
  induction l with
  | nil => exact h
  | cons y t ih =>
    rcases mem_insertBy h with rfl | h
    · exact List.mem_cons_self
    · exact List.mem_cons_of_mem _ (ih h)

/-- A candidate names a resident group. -/
theorem exists_group_of_mem_candidates {who : GRef} (h : who ∈ s.candidates) : ∃ g ∈ s.groups, g.p.id = who := by
  obtain ⟨g, hg, e⟩ := List.mem_map.mp h
  exact ⟨g, (List.mem_filter.mp (mem_of_mem_sortBy hg)).1, e⟩

/-- The fact in its stronger form holds of the focus group, there or not. -/
theorem State.Inv.focused (h : s.Inv k) (hk : k ≠ .privilege) : s.g.Inv k := by
  cases k with
  | memory => trivial
  | privilege => exact absurd rfl hk
  | focus => exact h.1

/-- What holds of the focus group whether it is there or not holds when it is. -/
theorem State.Inv.weaken (h : s.Inv .focus) : s.Inv .privilege := ⟨fun _ => h.1, h.2⟩

theorem OutInv.weaken {x : Out} (h : OutInv .focus x) : OutInv .privilege x := by
  cases x
  case next => exact State.Inv.weaken h
  all_goals trivial

/-- A group that is brought into focus is one of which the fact holds. -/
theorem State.Inv.focus {who : GRef} (h : s.Inv .privilege) (hw : ∃ g ∈ s.groups, g.p.id = who) :
    (s.refocus who).Inv .focus := by
  have hr := inv_refocus (who := who) h
  refine ⟨?_, hr.2⟩
  unfold State.refocus
  split
  · next hf => exact h.1 hf.2
  · next hf =>
    split
    · next hn =>
      obtain ⟨g, hg, rfl⟩ := hw
      have hno := List.find?_eq_none.mp hn
      unfold State.groups at hg
      split at hg
      · rcases List.mem_cons.mp hg with rfl | hg
        · exact absurd ⟨rfl, ‹_›⟩ hf
        · exact absurd (beq_self_eq_true _) (hno g hg)
      · exact absurd (beq_self_eq_true _) (hno g hg)
    · next g hg => exact h.2 g (List.mem_of_find?_eq_some hg)

/-! ### A group's turn (Machine/Run) -/

theorem inv_toCompanion (h : s.Inv k) : s.toCompanion.Inv k := by
  unfold State.toCompanion
  split
  · exact h.withG face_viewOf
  · exact h

theorem inv_lookahead {t : State} {i : Instr} (ht : t.Inv k) : (s.lookahead t i).Inv k := by
  unfold State.lookahead
  dsimp only
  split
  · exact ht
  · exact inv_each (fun _ _ h1 => inv_setProfile h1) ht

theorem inv_rewritten {t : State} {i : Instr} (ht : t.Inv k) : (s.rewritten t i).Inv k := by
  unfold State.rewritten
  dsimp only
  split <;> exact ht

theorem inv_countCorrected (h : s.Inv k) : s.countCorrected.Inv k := by
  unfold State.countCorrected
  split
  · exact h
  · split
    · exact h
    · exact inv_countRel h

theorem inv_errorsArrive (h : s.Inv k) : s.errorsArrive.Inv k := by
  unfold State.errorsArrive
  dsimp only
  split
  · exact h
  · exact inv_countCorrected h

theorem inv_stepOver {t : State} (h : t.Inv k) : (t.stepOver s).Inv k := by
  unfold State.stepOver
  split
  · exact h
  · split
    · exact inv_answerDebug h
    · split
      · exact inv_endStep h
      · split
        · exact inv_stopGroup h
        · exact h

theorem inv_companionDone {t : State} {i : Instr} (ht : t.Inv k) : (s.companionDone t i).Inv k := by
  unfold State.companionDone
  extract_lets n passed t1
  have h1 : t1.Inv k := by
    unfold t1
    split
    · exact inv_countRel ht
    · exact ht
  clear_value t1
  exact h1

theorem inv_profiled {t : State} (ht : t.Inv k) : (s.profiled t).Inv k := by
  unfold State.profiled
  dsimp only
  split
  · exact ht
  · exact inv_setProfile ht

theorem inv_keepBegun {t : State} {i : Instr} (ht : t.Inv k) : (s.keepBegun t i).Inv k := by
  unfold State.keepBegun
  dsimp only
  split <;> exact ht

theorem inv_afterVirtual {t : State} {i : Instr} (ht : t.Inv k) : (s.afterVirtual t i).Inv k := by
  unfold State.afterVirtual
  refine inv_stepOver ?_
  refine inv_keepBegun ?_
  refine inv_keepPassed ?_
  split
  · exact inv_rewritten (inv_profiled (inv_lookahead (inv_companionDone ht)))
  · exact ht

theorem inv_resultStop {t : State} {i : Instr} (h : s.Inv k) : Opt (State.Inv k) (s.resultStop t i) := by
  unfold State.resultStop
  dsimp only
  split
  · trivial
  · split
    · split
      · exact inv_takeTrap h
      · exact h
    · split
      · exact inv_takeTrap h
      · exact Opt.map (fun _ => h)

theorem inv_drainFirst (h : s.Inv k) : s.drainFirst.2.Inv k := by
  unfold State.drainFirst
  split
  · exact h
  · exact inv_drainGate h

theorem inv_runVirtualGroup (h : s.Inv k) : OutInv k s.runVirtualGroup := by
  have hd : s.drainFirst.2.Inv k := inv_drainFirst h
  unfold State.runVirtualGroup
  generalize s.drainFirst = d at hd ⊢
  split
  · exact hd
  · dsimp only
    split
    · exact inv_exec hd
    · split
      · exact inv_takeLate hd
      · split
        · next e => exact inv_stepOver (inv_stopWith hd (inv_fetch hd |>.error e))
        · next i _ =>
          have hi := inv_exec (i := i) (inv_armBp hd)
          split
          · next e =>
            have ht := hi.next e
            exact inv_getD (inv_resultStop hd) (inv_afterVirtual ht)
          · exact hi

theorem inv_buildView {v : View} (hk : k ≠ .privilege) (h : s.Inv k) : OutInv k (s.buildView v) := by
  have hd : s.drainFirst.2.Inv k := inv_drainFirst h
  unfold State.buildView
  generalize s.drainFirst = d at hd ⊢
  have hend : (d.2.endView v).Inv k := inv_endView hd (hd.focused hk)
  split
  · exact hd
  · dsimp only
    split
    · next v1 i _ _ =>
      have hi := inv_exec (i := i) hd
      split
      · next e =>
        have ht := hi.next e
        split
        · exact ht
        · split
          · exact hend
          · exact ht
      · exact hend
    · exact hend

theorem inv_runBundleGroup (h : s.Inv k) : OutInv k s.runBundleGroup := by
  unfold State.runBundleGroup
  split
  · split
    · exact inv_countRel (inv_withdraw h)
    · exact inv_exec h
  · exact inv_exec h

theorem inv_runGroup (hk : k ≠ .privilege) (h : s.Inv k) : OutInv k s.runGroup := by
  unfold State.runGroup
  split
  · exact inv_enterHandler h
  · exact inv_buildView hk h
  · have h1 : s.toCompanion.Inv k := inv_toCompanion h
    dsimp only
    split
    · exact inv_runBundleGroup h1
    · exact inv_runVirtualGroup h1

/-- The groups are tried in turn, one that has been brought into focus first. -/
theorem inv_tryGroups {l : List GRef} (hk : k ≠ .privilege) (h : ∀ who, l.head? = some who → (s.refocus who).Inv k)
    (h0 : l = [] → s.Inv k) : OutInv k (s.tryGroups l) := by
  induction l generalizing s with
  | nil => exact h0 rfl
  | cons who rest ih =>
    have h1 : (s.refocus who).Inv k := h who rfl
    have hr := inv_runGroup hk h1
    unfold State.tryGroups
    dsimp only
    split
    · next e =>
      have ht := hr.next e
      split
      · exact ih (fun _ _ => inv_refocus ht) fun _ => ht
      · split
        · exact inv_exec h1
        · exact inv_errorsArrive (inv_issued ht)
    · exact hr

theorem inv_passTime (h : s.Inv k) : s.passTime.Inv k :=
  inv_noteTraffic (inv_feedLinks (inv_alignEmpty (inv_timePass h)))

/-- The candidates are tried in their order. -/
theorem inv_tryCandidates (h : s.Inv k) : OutInv k (s.tryGroups s.candidates) := by
  cases k with
  | memory => exact inv_tryGroups (fun e => nomatch e) (fun _ _ => inv_refocus h) fun _ => h
  | focus => exact inv_tryGroups (fun e => nomatch e) (fun _ _ => inv_refocus h) fun _ => h
  | privilege =>
    cases hc : s.candidates with
    | nil => exact h
    | cons who rest =>
      have hw : who ∈ s.candidates := hc ▸ List.mem_cons_self
      refine OutInv.weaken (inv_tryGroups (fun e => nomatch e) (fun w e => ?_) fun e => nomatch e)
      obtain rfl := Option.some.inj e
      exact h.focus (exists_group_of_mem_candidates hw)

theorem inv_oneStep (h : s.Inv k) : OutInv k s.oneStep := by
  have hp : s.passTime.Inv k := inv_passTime h
  unfold State.oneStep
  generalize s.passTime = u at hp ⊢
  split
  · next rest _ => exact inv_exec (s := { u with agenda := rest }) hp
  · dsimp only
    split
    · exact inv_exec hp
    · split
      · next e => exact (inv_serveRings hp).some e
      · exact inv_tryCandidates hp

/-! ### The step (Machine/Step) -/

theorem inv_step (h : s.Inv k) : OutInv k (step s) := inv_oneStep h

/-- The privilege of the resident groups, as the obligation states it. -/
theorem inv_privilege_iff (s : State) : s.Inv .privilege ↔ ∀ g ∈ s.groups, g.u.super = true → g.p.ctx = 0 := by
  refine ⟨fun h g hg => h.group hg, fun h => ⟨fun hp => h s.g ?_, fun g hg => h g ?_⟩⟩
  · have hp : s.g.present = true := hp
    simp [State.groups, hp]
  · unfold State.groups
    split
    · exact List.mem_cons_of_mem _ hg
    · exact hg

/-- Settles O59. Every function that a step runs keeps each of the two facts (`inv_step`): memory is written in
canonical form only, and a group gets its privilege and its context as its launch's block begins, privilege S in the
system context alone. -/
theorem machineInvariants : Obligations.MachineInvariants := by
  unfold Obligations.MachineInvariants
  refine ⟨fun s t hm e => (inv_step (k := .memory) hm).next e, fun s t hg e => ?_⟩
  have hs : s.Inv .privilege := (inv_privilege_iff s).mpr hg
  exact (inv_privilege_iff t).mp ((inv_step hs).next e)

end

end Sys2Proof.Machine
end

section
/-! ### Decoding and encoding agree (O58), and words of the spec's examples (O57)

Each format is a bijection between its fields and the 56 bits below the major, so a row of the opcode map loses nothing
in either direction: `encode_of_rawDecode` reads the map from words to instructions, `rawDecode_encode` from
instructions to words, where the checks of R67 supply the minor that tells the forms of one major apart. -/

namespace Sys2Proof

/-! ### The formats (R70, R72, R75): a word and its fields determine each other -/

@[simp] theorem FR.opOf_toWord (op : BitVec 8) (f : FR) : opOf (f.toWord op) = op := by
  simp only [opOf, toWord, BitVec.extractLsb'_append_eq_of_le, Nat.reduceLeDiff, Nat.reduceSub,
    BitVec.extractLsb'_eq_self]

@[simp] theorem FR.ofWord_toWord (op : BitVec 8) (f : FR) : FR.ofWord (f.toWord op) = f := by
  simp only [ofWord, toWord, BitVec.extractLsb'_append_eq_of_add_le, BitVec.extractLsb'_append_eq_of_le,
    Nat.reduceLeDiff, Nat.reduceSub, BitVec.extractLsb'_eq_self]

theorem FR.toWord_ofWord {op : BitVec 8} {w : Word64} (h : opOf w = op) : (FR.ofWord w).toWord op = w := by
  simp only [← h, opOf, toWord, ofWord, BitVec.extractLsb'_append_extractLsb'_eq_extractLsb']
  exact BitVec.extractLsb'_eq_self

@[simp] theorem FQ.opOf_toWord (op : BitVec 8) (f : FQ) : opOf (f.toWord op) = op := by
  simp only [opOf, toWord, BitVec.extractLsb'_append_eq_of_le, Nat.reduceLeDiff, Nat.reduceSub,
    BitVec.extractLsb'_eq_self]

@[simp] theorem FQ.ofWord_toWord (op : BitVec 8) (f : FQ) : FQ.ofWord (f.toWord op) = f := by
  simp only [ofWord, toWord, BitVec.extractLsb'_append_eq_of_add_le, BitVec.extractLsb'_append_eq_of_le,
    Nat.reduceLeDiff, Nat.reduceSub, BitVec.extractLsb'_eq_self]

theorem FQ.toWord_ofWord {op : BitVec 8} {w : Word64} (h : opOf w = op) : (FQ.ofWord w).toWord op = w := by
  simp only [← h, opOf, toWord, ofWord, BitVec.extractLsb'_append_extractLsb'_eq_extractLsb']
  exact BitVec.extractLsb'_eq_self

@[simp] theorem FI.opOf_toWord (op : BitVec 8) (f : FI) : opOf (f.toWord op) = op := by
  simp only [opOf, toWord, BitVec.extractLsb'_append_eq_of_le, Nat.reduceLeDiff, Nat.reduceSub,
    BitVec.extractLsb'_eq_self]

@[simp] theorem FI.ofWord_toWord (op : BitVec 8) (f : FI) : FI.ofWord (f.toWord op) = f := by
  simp only [ofWord, toWord, BitVec.extractLsb'_append_eq_of_add_le, BitVec.extractLsb'_append_eq_of_le,
    Nat.reduceLeDiff, Nat.reduceSub, BitVec.extractLsb'_eq_self]

theorem FI.toWord_ofWord {op : BitVec 8} {w : Word64} (h : opOf w = op) : (FI.ofWord w).toWord op = w := by
  simp only [← h, opOf, toWord, ofWord, BitVec.extractLsb'_append_extractLsb'_eq_extractLsb']
  exact BitVec.extractLsb'_eq_self

@[simp] theorem FB.opOf_toWord (op : BitVec 8) (f : FB) : opOf (f.toWord op) = op := by
  simp only [opOf, toWord, BitVec.extractLsb'_append_eq_of_le, Nat.reduceLeDiff, Nat.reduceSub,
    BitVec.extractLsb'_eq_self]

@[simp] theorem FB.ofWord_toWord (op : BitVec 8) (f : FB) : FB.ofWord (f.toWord op) = f := by
  simp only [ofWord, toWord, BitVec.extractLsb'_append_eq_of_add_le, BitVec.extractLsb'_append_eq_of_le,
    Nat.reduceLeDiff, Nat.reduceSub, BitVec.extractLsb'_eq_self]

theorem FB.toWord_ofWord {op : BitVec 8} {w : Word64} (h : opOf w = op) : (FB.ofWord w).toWord op = w := by
  simp only [← h, opOf, toWord, ofWord, BitVec.extractLsb'_append_extractLsb'_eq_extractLsb']
  exact BitVec.extractLsb'_eq_self

@[simp] theorem FM.opOf_toWord (op : BitVec 8) (f : FM) : opOf (f.toWord op) = op := by
  simp only [opOf, toWord, BitVec.extractLsb'_append_eq_of_le, Nat.reduceLeDiff, Nat.reduceSub,
    BitVec.extractLsb'_eq_self]

@[simp] theorem FM.ofWord_toWord (op : BitVec 8) (f : FM) : FM.ofWord (f.toWord op) = f := by
  simp only [ofWord, toWord, BitVec.extractLsb'_append_eq_of_add_le, BitVec.extractLsb'_append_eq_of_le,
    Nat.reduceLeDiff, Nat.reduceSub, BitVec.extractLsb'_eq_self]

theorem FM.toWord_ofWord {op : BitVec 8} {w : Word64} (h : opOf w = op) : (FM.ofWord w).toWord op = w := by
  simp only [← h, opOf, toWord, ofWord, BitVec.extractLsb'_append_extractLsb'_eq_extractLsb']
  exact BitVec.extractLsb'_eq_self

@[simp] theorem PairHead.opOf_toWord (p : PairHead) : opOf p.toWord = 0xF8#8 := by
  simp only [opOf, toWord, BitVec.extractLsb'_append_eq_of_le, Nat.reduceLeDiff, Nat.reduceSub,
    BitVec.extractLsb'_eq_self]

@[simp] theorem PairHead.ofWord_toWord (p : PairHead) : PairHead.ofWord p.toWord = p := by
  simp only [ofWord, toWord, BitVec.extractLsb'_append_eq_of_add_le, BitVec.extractLsb'_append_eq_of_le,
    Nat.reduceLeDiff, Nat.reduceSub, BitVec.extractLsb'_eq_self]

theorem PairHead.toWord_ofWord {w : Word64} (h : opOf w = 0xF8#8) : (PairHead.ofWord w).toWord = w := by
  simp only [toWord, ← h, opOf, ofWord, BitVec.extractLsb'_append_extractLsb'_eq_extractLsb']
  exact BitVec.extractLsb'_eq_self

@[simp] theorem W1.ofWord_toWord (f : W1) : W1.ofWord f.toWord = f := by
  simp only [ofWord, toWord, BitVec.extractLsb'_append_eq_of_add_le, BitVec.extractLsb'_append_eq_of_le,
    Nat.reduceLeDiff, Nat.reduceSub, BitVec.extractLsb'_eq_self]

@[simp] theorem W1.toWord_ofWord (w : Word64) : (W1.ofWord w).toWord = w := by
  simp only [toWord, ofWord, BitVec.extractLsb'_append_extractLsb'_eq_extractLsb']
  exact BitVec.extractLsb'_eq_self

/-- The major of a hint's word (R79). -/
@[simp] theorem opOf_append (op : BitVec 8) (b : BitVec 56) : opOf (op ++ b) = op := by
  simp only [opOf, BitVec.extractLsb'_append_eq_of_le, Nat.reduceLeDiff, Nat.reduceSub, BitVec.extractLsb'_eq_self]

/-- The other bits of a hint's word (R79). -/
@[simp] theorem body_append (op : BitVec 8) (b : BitVec 56) : (op ++ b : Word64).extractLsb' 0 56 = b := by
  simp only [BitVec.extractLsb'_append_eq_of_add_le, Nat.reduceLeDiff, BitVec.extractLsb'_eq_self]

theorem append_body {op : BitVec 8} {w : Word64} (h : opOf w = op) : op ++ w.extractLsb' 0 56 = w := by
  simp only [← h, opOf, BitVec.extractLsb'_append_extractLsb'_eq_extractLsb']
  exact BitVec.extractLsb'_eq_self

/-! ### Majors by row of the opcode map (R64, R76) -/

theorem op_eq_of_row {op : BitVec 8} {n : Nat} (h : op.toNat / 16 = n) :
    op = BitVec.ofNat 8 (16 * n + op.toNat % 16) := by
  apply BitVec.eq_of_toNat_eq
  rw [BitVec.toNat_ofNat]
  omega

theorem longOp_of_short_row {op : BitVec 8} {n : Nat} (h : op.toNat / 16 = n) (hn : n ≤ 7 ∨ n = 14) :
    longOp op = false := by
  simp only [longOp, Bool.or_eq_false_iff, Bool.and_eq_false_iff, decide_eq_false_iff_not]
  omega

theorem longOp_of_long_row {op : BitVec 8} {n : Nat} (h : op.toNat / 16 = n) (hn : 8 ≤ n ∧ n ≤ 13) :
    longOp op = true := by
  simp only [longOp, Bool.or_eq_true, Bool.and_eq_true, decide_eq_true_eq]
  omega

/-! ### What a word decodes to encodes to the word: row by row of R76 -/

section Rows
variable {lo : Nat} {w w1 : Word64} {i : Instr}

theorem encode_of_decodeRow0 (hop : opOf w = BitVec.ofNat 8 (16 * 0 + lo)) (h : decodeRow0 lo w = some i) :
    encode i = [w] := by
  unfold decodeRow0 at h
  split at h <;> cases h <;> exact congrArg ([·]) (FR.toWord_ofWord hop)

theorem encode_of_decodeRow1 (hop : opOf w = BitVec.ofNat 8 (16 * 1 + lo)) (h : decodeRow1 lo w = some i) :
    encode i = [w] := by
  unfold decodeRow1 at h
  dsimp only at h
  (repeat' split at h) <;> cases h
  all_goals simp only [encode, hop, FR.toWord_ofWord, FQ.toWord_ofWord, FI.toWord_ofWord, Nat.reduceMul, Nat.reduceAdd]

theorem encode_of_decodeRow2 (hop : opOf w = BitVec.ofNat 8 (16 * 2 + lo)) (h : decodeRow2 lo w = some i) :
    encode i = [w] := by
  unfold decodeRow2 at h
  dsimp only at h
  (repeat' split at h) <;> cases h
  all_goals simp only [encode, hop, FR.toWord_ofWord, FQ.toWord_ofWord, Nat.reduceMul, Nat.reduceAdd]

theorem encode_of_decodeRow3 (hop : opOf w = BitVec.ofNat 8 (16 * 3 + lo)) (h : decodeRow3 lo w = some i) :
    encode i = [w] := by
  unfold decodeRow3 at h
  dsimp only at h
  split at h <;> cases h
  all_goals simp only [encode, hop, FR.toWord_ofWord, FQ.toWord_ofWord, Nat.reduceMul, Nat.reduceAdd]

theorem encode_of_decodeRow4 (hop : opOf w = BitVec.ofNat 8 (16 * 4 + lo)) (h : decodeRow4 lo w = some i) :
    encode i = [w] := by
  unfold decodeRow4 at h
  split at h <;> cases h <;> exact congrArg ([·]) (FR.toWord_ofWord hop)

theorem encode_of_decodeRow5 (hop : opOf w = BitVec.ofNat 8 (16 * 5 + lo)) (h : decodeRow5 lo w = some i) :
    encode i = [w] := by
  unfold decodeRow5 at h
  split at h <;> cases h <;> exact congrArg ([·]) (FM.toWord_ofWord hop)

theorem encode_of_decodeRow6 (hop : opOf w = BitVec.ofNat 8 (16 * 6 + lo)) (h : decodeRow6 lo w = some i) :
    encode i = [w] := by
  unfold decodeRow6 at h
  dsimp only at h
  split at h <;> cases h
  all_goals simp only [encode, hop, FR.toWord_ofWord, FB.toWord_ofWord, FI.toWord_ofWord, Nat.reduceMul, Nat.reduceAdd]

/-- SVC's number is a field of its word (R174). -/
@[simp] theorem encode_decodeSvc (f : FI) : encode (decodeSvc f) = [f.toWord 0x75#8] := by
  unfold decodeSvc
  (repeat' split) <;> rfl

theorem encode_of_decodeRow7 (hop : opOf w = BitVec.ofNat 8 (16 * 7 + lo)) (h : decodeRow7 lo w = some i) :
    encode i = [w] := by
  unfold decodeRow7 at h
  dsimp only at h
  (repeat' split at h) <;> cases h
  all_goals simp only [↓encode_decodeSvc, encode, hop, FR.toWord_ofWord, FI.toWord_ofWord, Nat.reduceMul, Nat.reduceAdd]

theorem encode_of_decodeRow8 (hop : opOf w = BitVec.ofNat 8 (16 * 8 + lo))
    (h : decodeRow8 lo (FM.ofWord w) (W1.ofWord w1) = some i) : encode i = [w, w1] := by
  unfold decodeRow8 at h
  split at h <;> cases h <;> exact congr (congrArg (fun a b => [a, b]) (FM.toWord_ofWord hop)) (W1.toWord_ofWord w1)

theorem encode_of_decodeRow9 (hop : opOf w = BitVec.ofNat 8 (16 * 9 + lo))
    (h : decodeRow9 lo w (W1.ofWord w1) = some i) : encode i = [w, w1] := by
  unfold decodeRow9 at h
  dsimp only at h
  split at h <;> cases h
  all_goals simp only [encode, hop, FR.toWord_ofWord, FM.toWord_ofWord, W1.toWord_ofWord, Nat.reduceMul, Nat.reduceAdd]

theorem encode_of_decodeRowA (hop : opOf w = BitVec.ofNat 8 (16 * 10 + lo))
    (h : decodeRowA lo (FR.ofWord w) (W1.ofWord w1) = some i) : encode i = [w, w1] := by
  unfold decodeRowA at h
  split at h <;> cases h <;> exact congr (congrArg (fun a b => [a, b]) (FR.toWord_ofWord hop)) (W1.toWord_ofWord w1)

theorem encode_decodeRowE (hop : opOf w = BitVec.ofNat 8 (16 * 14 + lo)) : encode (decodeRowE lo w) = [w] := by
  unfold decodeRowE
  split
  · exact congrArg ([·]) (append_body hop)
  · exact congrArg ([·]) (append_body hop)
  · exact congrArg ([·]) (append_body rfl)

end Rows

/-- What two words name encodes to the words that it takes. -/
theorem encode_of_rawDecode {w0 w1 : Word64} {i : Instr} (h : rawDecode w0 w1 = some i) :
    encode i = if longOp (opOf w0) then [w0, w1] else [w0] := by
  have short {n : Nat} (e : (opOf w0).toNat / 16 = n) (hn : n ≤ 7 ∨ n = 14) (hi : encode i = [w0]) :
      encode i = if longOp (opOf w0) then [w0, w1] else [w0] := by
    rw [longOp_of_short_row e hn]
    exact hi
  have long {n : Nat} (e : (opOf w0).toNat / 16 = n) (hn : 8 ≤ n ∧ n ≤ 13) (hi : encode i = [w0, w1]) :
      encode i = if longOp (opOf w0) then [w0, w1] else [w0] := by
    rw [longOp_of_long_row e hn]
    exact hi
  unfold rawDecode at h
  dsimp only at h
  split at h
  case h_1 e => exact short e (by decide) (encode_of_decodeRow0 (op_eq_of_row e) h)
  case h_2 e => exact short e (by decide) (encode_of_decodeRow1 (op_eq_of_row e) h)
  case h_3 e => exact short e (by decide) (encode_of_decodeRow2 (op_eq_of_row e) h)
  case h_4 e => exact short e (by decide) (encode_of_decodeRow3 (op_eq_of_row e) h)
  case h_5 e => exact short e (by decide) (encode_of_decodeRow4 (op_eq_of_row e) h)
  case h_6 e => exact short e (by decide) (encode_of_decodeRow5 (op_eq_of_row e) h)
  case h_7 e => exact short e (by decide) (encode_of_decodeRow6 (op_eq_of_row e) h)
  case h_8 e => exact short e (by decide) (encode_of_decodeRow7 (op_eq_of_row e) h)
  case h_9 e => exact long e (by decide) (encode_of_decodeRow8 (op_eq_of_row e) h)
  case h_10 e => exact long e (by decide) (encode_of_decodeRow9 (op_eq_of_row e) h)
  case h_11 e => exact long e (by decide) (encode_of_decodeRowA (op_eq_of_row e) h)
  case h_12 e =>
    obtain rfl := Option.some.inj h
    exact short e (by decide) (encode_decodeRowE (op_eq_of_row e))
  case h_13 e =>
    split at h
    · next hlo =>
      have hop : opOf w0 = 0xF8#8 := by rw [op_eq_of_row e, hlo]
      obtain rfl := Option.some.inj h
      rw [hop]
      exact congrArg ([·, w1]) (PairHead.toWord_ofWord hop)
    · cases h
  case h_14 => cases h

theorem encode_decodeWords (w0 w1 : Word64) :
    encode (decodeWords w0 w1) = if longOp (opOf w0) then [w0, w1] else [w0] := by
  have unassigned : encode (.unassignedEncoding w0 (if longOp (opOf w0) then w1 else 0#64)) =
      if longOp (opOf w0) then [w0, w1] else [w0] := by
    cases hl : longOp (opOf w0) <;> simp [encode, hl]
  unfold decodeWords
  split
  · next h =>
    split
    · exact encode_of_rawDecode h
    · exact unassigned
  · exact unassigned

open Wf

/-! ### An instruction's words name the instruction, once its minor is the one that its checks ask for (R67, R76) -/

theorem wellFormed_of_legal {i : Instr} (h : i.legal = true) : i.wellFormed = true := by
  unfold Instr.legal at h
  split at h
  · exact (Bool.and_eq_true_iff.mp h).1
  · exact h

theorem decodeSvc_unknown {f : FI} (h : 5 ≤ f.imm.toNat ∧ f.imm.toNat < 0x8000) : decodeSvc f = .svcUnknown f := by
  unfold decodeSvc
  split
  case h_6 => exact if_pos h.2
  all_goals omega

theorem decodeSvc_helper {f : FI} (h : 0x8000 ≤ f.imm.toNat) : decodeSvc f = .svcHelper f := by
  unfold decodeSvc
  split
  case h_6 => exact if_neg (by omega)
  all_goals omega

theorem rawDecode_hhot {op : BitVec 8} (h : 0xE2 ≤ op.toNat ∧ op.toNat ≤ 0xEF) (b : BitVec 56) (w1 : Word64) :
    rawDecode (op ++ b) w1 = some (.hhot op b) := by
  have hrow : op.toNat / 16 = 14 := by omega
  simp only [rawDecode, opOf_append, hrow, decodeRowE, body_append]
  split
  case h_3 => rfl
  all_goals omega

/-- The words of a well-formed instruction of the virtual set name it. -/
theorem rawDecode_encode {i : Instr} (hw : i.wellFormed = true) (he : encode i ≠ [])
    (hu : ∀ w0 w1, i ≠ .unassignedEncoding w0 w1) :
    rawDecode ((encode i).getD 0 0#64) ((encode i).getD 1 0#64) = some i := by
  cases i with
  | add | sub | mul | mulh | div | rem | and | or | xor | andn | shl | shr | sar | rot | min | max =>
    simp [encode, rawDecode, decodeRow0]
  | set | bfx | bfi | sel | addi | vadd | vsub | vmul | vmulh | vmad | vmin | vmax | vabs =>
    simp [encode, rawDecode, decodeRow1]
  | clz | ctz | popc | logi | lih | addpc | nset | nget =>
    simp only [Instr.wellFormed, count, Bool.and_eq_true, beq_iff_eq, decide_eq_true_eq] at hw
    simp [encode, rawDecode, decodeRow1, hw]
  | shi f =>
    simp only [Instr.wellFormed, Bool.and_eq_true, decide_eq_true_eq] at hw
    have hm : ¬ f.min4.toNat ≤ 2 := by omega
    simp [encode, rawDecode, decodeRow1, hm]
  | vand | vor | vxor | vnot | vshl | vshr | vsar | vbfx | vbfi | vcmp | vsel | vdot4 | kop =>
    simp [encode, rawDecode, decodeRow2]
  | vclz | vpopc | vmov | vbcast | viota | kmovTos | kmovFroms =>
    simp only [Instr.wellFormed, Bool.and_eq_true, beq_iff_eq] at hw
    simp [encode, rawDecode, decodeRow2, hw]
  | vfadd | vfsub | vfmul | vfma | vfmin | vfmax | vfcmp | vfdiv | vfsqrt | vrcp | vrsq | vexp2 | vlog2 | vsin | vcos
    | vtanh => simp [encode, rawDecode, decodeRow3]
  | vround | vcvt | vpack | vunpack | vscale | vperm | vshfl | vred | vscan | vvote | vpart =>
    simp [encode, rawDecode, decodeRow4]
  | ld | ldi | st | sti | vld | vldi | vst | vsti | vldc | vstc | pld | cwb | cinv =>
    simp [encode, rawDecode, decodeRow5]
  | br | brc | brk | jmpi | call | calli | ret | exit | loop | lbrk | waitt | yield | nop =>
    simp [encode, rawDecode, decodeRow6]
  | srd | swr | trap | tret | bkpt | icinv | synci | send | pmark => simp [encode, rawDecode, decodeRow7]
  | svcVersion | svcAbort | svcPrivsize | svcDebugged | svcSleep =>
    simp only [Instr.wellFormed, svc, Bool.and_eq_true, beq_iff_eq, decide_eq_true_eq] at hw
    simp [encode, rawDecode, decodeRow7, decodeSvc, hw]
  | svcUnknown =>
    simp only [Instr.wellFormed, svc, Bool.and_eq_true, decide_eq_true_eq] at hw
    simp [encode, rawDecode, decodeRow7, decodeSvc_unknown hw.2]
  | svcHelper =>
    simp only [Instr.wellFormed, svc, Bool.and_eq_true, decide_eq_true_eq] at hw
    simp [encode, rawDecode, decodeRow7, decodeSvc_helper hw.2]
  | qbind | qbindUn =>
    simp only [Instr.wellFormed, Bool.and_eq_true, beq_iff_eq, decide_eq_true_eq] at hw
    simp [encode, rawDecode, decodeRow7, hw]
  | ldo | sto | vldo | vsto | stf | acp | bpf | nld | nst => simp [encode, rawDecode, decodeRow8]
  | fao | faor | red | cas | enq | deq | waitc | fence | bari | bara | barw => simp [encode, rawDecode, decodeRow9]
  | tld | tst | tcp | wbld | tmma | tscan | tzero | tacrd | tacwr | tred | tew | tfmt | tlease | tfree | tbmap | trsm =>
    simp [encode, rawDecode, decodeRowA]
  | hpf | hbr => simp [encode, rawDecode, decodeRowE]
  | hhot op b =>
    simp only [Instr.wellFormed, Bool.and_eq_true, decide_eq_true_eq] at hw
    exact rawDecode_hhot hw b 0#64
  | pair => simp [encode, rawDecode]
  | unassignedEncoding w0 w1 => exact absurd rfl (hu w0 w1)
  | _ => exact absurd rfl he

theorem decodeWords_of_rawDecode {w0 w1 : Word64} {i : Instr} (h : rawDecode w0 w1 = some i) (hl : i.legal = true) :
    decodeWords w0 w1 = i := by
  simp [decodeWords, h, hl]

theorem legal_decodeWords {w0 w1 : Word64} (h : ∀ x y, decodeWords w0 w1 ≠ .unassignedEncoding x y) :
    (decodeWords w0 w1).legal = true := by
  unfold decodeWords at h ⊢
  split at h
  · next i _ =>
    by_cases hl : i.legal = true
    · rwa [if_pos hl]
    · exact absurd (if_neg hl) (h _ _)
  · exact absurd rfl (h _ _)

/-! ### Words in memory (R2, R64) -/

@[simp] theorem length_leBytes (n v : Nat) : (leBytes n v).length = n := by
  induction n generalizing v with
  | zero => rfl
  | succ n ih => simp [leBytes, ih]

theorem leNat_leBytes (n v : Nat) : leNat (leBytes n v) = v % 256 ^ n := by
  induction n generalizing v with
  | zero => simp [leBytes, leNat, Nat.mod_one]
  | succ n ih =>
    rw [leBytes, leNat, ih, Nat.pow_succ', Nat.mod_mul]
    rfl

@[simp] theorem leNat_leBytes_word (w : Word64) : BitVec.ofNat 64 (leNat (leBytes 8 w.toNat)) = w := by
  have hlt : w.toNat < 256 ^ 8 := w.isLt
  rw [leNat_leBytes, Nat.mod_eq_of_lt hlt, BitVec.ofNat_toNat, BitVec.setWidth_eq]

theorem decode_of_short {w0 : Word64} (h : longOp (opOf w0) = false) (rest : List Byte) :
    decode (leBytes 8 w0.toNat ++ rest) = .ok (decodeWords w0 0#64, 8) := by
  simp [decode, List.take_left', h]

theorem decode_of_long {w0 : Word64} (h : longOp (opOf w0) = true) (w1 : Word64) (rest : List Byte) :
    decode (leBytes 8 w0.toNat ++ (leBytes 8 w1.toNat ++ rest)) = .ok (decodeWords w0 w1, 16) := by
  have hlen : ¬ 8 + (8 + rest.length) < 16 := by omega
  simp [decode, List.take_left', List.drop_left', h, hlen]

theorem decode_encodeBytes {i : Instr} (hl : i.legal = true) (he : encode i ≠ [])
    (hu : ∀ w0 w1, i ≠ .unassignedEncoding w0 w1) (rest : List Byte) :
    decode (encodeBytes i ++ rest) = .ok (i, 8 * (encode i).length) := by
  have hraw := rawDecode_encode (wellFormed_of_legal hl) he hu
  have hdec := decodeWords_of_rawDecode hraw hl
  have henc := encode_of_rawDecode hraw
  generalize h0 : (encode i).getD 0 0#64 = w0 at hdec henc
  generalize h1 : (encode i).getD 1 0#64 = w1 at hdec henc
  cases hlong : longOp (opOf w0) with
  | false =>
    have hs : encode i = [w0] := by simpa [hlong] using henc
    have hw1 : 0#64 = w1 := by simpa [hs] using h1
    simpa [encodeBytes, hs, hw1, hdec] using decode_of_short hlong rest
  | true =>
    have hs : encode i = [w0, w1] := by simpa [hlong] using henc
    simpa [encodeBytes, hs, hdec] using decode_of_long hlong w1 rest

/-- Settles O58. A well-formed instruction's words name it (`rawDecode_encode`, a case for each row of R76), and what
two words name encodes to them (`encode_of_rawDecode`, a lemma for each row); a word that fails a check is kept whole. -/
theorem decodeEncode : Obligations.DecodeEncode := by
  unfold Obligations.DecodeEncode
  exact ⟨fun _ rest hl he hu => decode_encodeBytes hl he hu rest, encode_decodeWords, fun _ _ => legal_decodeWords⟩

/-- Settles O57: each word is closed, so the decoder's answer is found by evaluating it. -/
theorem decodedWords : Obligations.DecodedWords := by
  unfold Obligations.DecodedWords
  exact ⟨rfl, rfl, rfl, rfl, rfl, rfl, rfl, rfl, rfl, rfl, rfl, rfl, rfl, rfl⟩

end Sys2Proof
end
